-- ==== Sys2Proof/Word.lean ====
section
/-!
DEFINITION. The word types of the JX-72 (R5, R81) and their plainest arithmetic: the sizes of the
units of data, bit fields of a number, sign extension, and the time and place constants of the manual.
-/
namespace Sys2Proof

/-- A byte (R5). -/
abbrev Byte := BitVec 8
/-- A 64-bit scalar or lane register value (R81). -/
abbrev Word := BitVec 64
/-- A set of lanes of a team: bit L is lane L (a team has at most 1024 lanes, R56). -/
abbrev Mask := BitVec 1024

/-- Bits `[lo + w - 1 : lo]` of a number. -/
def bits (n lo w : Nat) : Nat := n / 2 ^ lo % 2 ^ w

/-- Bit `i` of a number, as a truth value. -/
def bit (n i : Nat) : Bool := n / 2 ^ i % 2 == 1

/-- The signed reading of the low `w` bits of `n`. -/
def sext (w n : Nat) : Int :=
  let m := n % 2 ^ w
  if m < 2 ^ (w - 1) then (m : Int) else (m : Int) - 2 ^ w

/-- An exact integer reduced to `w` bits (R11: assignment to bits(w)). -/
def wrapN (w : Nat) (x : Int) : Nat := (x % (2 ^ w : Int)).toNat

/-- An exact integer as a 64-bit register value. -/
def word (x : Int) : Word := BitVec.ofNat 64 (wrapN 64 x)

/-- A natural number as a 64-bit register value. -/
def wordN (x : Nat) : Word := BitVec.ofNat 64 x

/-- The greater of two exact integers. -/
def maxI (a b : Int) : Int := if a < b then b else a
/-- The lesser of two exact integers. -/
def minI (a b : Int) : Int := if a < b then a else b

/-- Ceiling of a quotient. -/
def ceilDiv (a b : Nat) : Nat := (a + (b - 1)) / b

/-- 1 KiB (R2). -/
def kib : Nat := 1024
/-- Arithmetic-clock cycles in one microsecond: 850 MHz (R8). -/
def cyclesPerUs : Nat := 850

end Sys2Proof
end

