-- ==== Sys2Proof/Syntax.lean ====
section
/-!
DEFINITION. The syntax of the JX-72: the fields of the six scalar formats (R30) and of the lane word
(R34), the operation codes of chapters 02, 04, 05 and 09 as names, what each event carries, and Instr.
-/
namespace Sys2Proof

/-- The condition codes of `s.cmp` (R102). -/
inductive Cond where
  | eq | ne | lt | ge | ltN | geN | tst | ntst
deriving DecidableEq, Repr

/-- The predicate operations of `s.kop` (R105). -/
inductive KOp where
  | and | or | xor | andn | orn | nand | nor | xnor | not
deriving DecidableEq, Repr

/-- The sign variants of a fused multiply-add (R131). -/
inductive FmaVar where
  | plain | sub | neg | negsub
deriving DecidableEq, Repr

/-- The conditions of `s.fcmp`, in the order of R45. -/
inductive SFCond where
  | eq | lt | le | unord | ne | ge | gt | ord
deriving DecidableEq, Repr

/-- The conversions of `s.fcvt`, destination first (R45). -/
inductive SCvt where
  | f64i64 | f64n64 | i64f64 | n64f64 | f32f64 | f64f32 | bf16f64 | f64bf16
deriving DecidableEq, Repr

/-- The operations of the scalar atomics (R274). -/
inductive AtomOp where
  | add | and | or | xor | min | max | minN | maxN | swap | faddF64 | add32 | swap32
deriving DecidableEq, Repr

/-- Format SA (R30): destination, two sources, guard. -/
structure SA where
  w : Bool
  d : BitVec 6
  a : BitVec 6
  b : BitVec 6
  g : BitVec 3
deriving DecidableEq, Repr

/-- Format SI (R30). -/
structure SI where
  w : Bool
  d : BitVec 6
  a : BitVec 6
  i : BitVec 13
deriving DecidableEq, Repr

/-- The shift and rotate immediates of major 14 (R100): amount in [5:0], [10:6] RES0. -/
structure SSh where
  w : Bool
  d : BitVec 6
  a : BitVec 6
  res0 : BitVec 5
  amount : BitVec 6
deriving DecidableEq, Repr

/-- Format SL (R30). -/
structure SL where
  w : Bool
  d : BitVec 6
  i : BitVec 19
deriving DecidableEq, Repr

/-- Format SB (R30): the branch is taken when k(kg) XOR kn. -/
structure SB where
  w : Bool
  kg : BitVec 3
  kn : Bool
  disp : BitVec 21
deriving DecidableEq, Repr

/-- Format SM (R30, R236). -/
structure SM where
  w : Bool
  d : BitVec 6
  base : BitVec 6
  size : BitVec 3
  order : BitVec 2
  off : BitVec 8
deriving DecidableEq, Repr

/-- The register fields of format SC (R30); the operation and variant belong to the constructor. -/
structure SC where
  w : Bool
  d : BitVec 6
  a : BitVec 6
  b : BitVec 6
deriving DecidableEq, Repr

/-- The barrier words (R283): register of `.init`, [18:15] RES0, barrier number. -/
structure SBar where
  w : Bool
  d : BitVec 6
  res0 : BitVec 4
  bar : BitVec 8
deriving DecidableEq, Repr

/-- The special-register moves (R48): register and 12-bit number. -/
structure SSpec where
  w : Bool
  d : BitVec 6
  num : BitVec 12
deriving DecidableEq, Repr

/-- The fields of a lane word other than its major (R34). -/
structure Lane where
  w : Bool
  pg : BitVec 3
  pgn : Bool
  ty : BitVec 3
  vd : BitVec 8
  va : BitVec 8
  vb : BitVec 8
  vc : BitVec 8
  pd : BitVec 3
  rm : BitVec 3
  hs : BitVec 2
  hl : BitVec 2
  lr : BitVec 3
  sat : Bool
  x : Bool
  imm : BitVec 33
deriving DecidableEq, Repr

/-- What the path check of a transfer found (R231): no mismatch, one that the refetch repaired, or two. -/
inductive PathCheck where
  | good | once | twice
deriving DecidableEq, Repr

/-- What the residue check of a matrix step found (R166): nothing, one mismatch, or two. -/
inductive Residue where
  | pass | once | twice
deriving DecidableEq, Repr

/-- Who reads or writes a management register (R402): a host port, or a runtime-mode team. -/
inductive Agent where
  | port (n : Nat)
  | team
deriving DecidableEq, Repr

/-- The detectors of R414 by their codes of R436. -/
inductive Detector where
  | none | fp64Residue | matrixResidue | laneParity | coreStoreEcc | accEcc | controlParity | l2Ecc
  | rdcEcc | hbmEcc | lpddrEcc | link | pathCheck | poison | dualMismatch | engine | check
  | checkpoint | wear | coreState
deriving DecidableEq, Repr

/-- The place that an error touches. -/
inductive ErrSite where
  /-- a scalar result: core, team, destination register -/
  | scalar (core team reg : Nat)
  /-- a scalar predicate result: core, team, predicate -/
  | scalarPred (core team k : Nat)
  /-- a lane result: core, team, destination register, lanes that crossed the failing path -/
  | lanes (core team reg : Nat) (lanes : Mask)
  /-- a lane predicate result: core, team, predicate, lanes that crossed the failing path -/
  | preds (core team p : Nat) (lanes : Mask)
  /-- stores on their way or held by a region: core, team, physical addresses of the failing lanes' data -/
  | store (core team : Nat) (pas : List Nat)
  /-- the L1 copy of a physical address -/
  | l1 (core pa : Nat)
  /-- a byte offset of a core store -/
  | coreStore (core off : Nat)
  /-- an 8-byte unit of accumulator memory -/
  | acc (core unit : Nat)
  /-- a team's control store -/
  | control (core team : Nat)
  /-- a physical address in a memory tier or an L2 -/
  | memory (pa : Nat)
  /-- a line of a die's RDC -/
  | rdc (die pa : Nat)
  /-- the tags of the cache way that the report names: level 1 L1, 2 L2, 3 RDC; unit (core or die) -/
  | way (level unit : Nat)
  /-- a UALink station -/
  | station (n : Nat)
  /-- a command of a copy engine -/
  | copy (cluster ticket : Nat)
  /-- a stream of a core -/
  | stream (core index : Nat)
  /-- a Yarrow engine -/
  | yarrow (cluster : Nat)
  /-- the work distributor or the queue manager, serving a launch -/
  | launch (id : Nat)
  /-- a team's checkpoint area -/
  | checkpoint (core team : Nat)
  /-- a team whose two copies differ (DUAL) -/
  | copies (core team : Nat)
deriving DecidableEq, Repr

/-- A cache way (R433): set group, way, and the lines it holds. -/
structure WayPlace where
  group : Nat
  way : Nat
  lines : List Nat
deriving DecidableEq, Repr

/-- An error report (R414, R436): who found it, where, on which unit, corrected or not, and for an error in a cache the way. -/
structure ErrorReport where
  det : Detector
  site : ErrSite
  unit : Nat
  corrected : Bool
  data : Word
  way : Option WayPlace
deriving DecidableEq, Repr

/-- The outcome of a dual arbitration (R431). -/
inductive Verdict where
  | agreesPrimary | agreesShadow | agreesNeither
deriving DecidableEq, Repr

/-- What the third core of an arbitration made of a region (R431): the window's units, scratchpad sectors by offset, accumulator rows with
the marks of their halves, each with its mark, and the stores: physical and virtual address, bytes, mark, 32-bit lane store. -/
structure RegionOut where
  window : List (Word × Bool)
  sectors : List (Nat × List Byte × Bool)
  rows : List (Nat × List Word × List Bool)
  stores : List (Nat × Word × List Byte × Bool × Bool)
deriving DecidableEq, Repr

/-- What the third core of an arbitration reports (R431): with which copy it agrees, and what its run has made. -/
structure ThirdRun where
  verdict : Verdict
  out : RegionOut
deriving DecidableEq, Repr

/-- One sector slot of a mailbox write (R399). -/
structure SectorSlot where
  data : List Byte
  mask : BitVec 32
  code : BitVec 16
deriving DecidableEq, Repr

/-- A mailbox request (R399); `op` as encoded, `res0` the OR of the RES0 bits. -/
structure MailReq where
  port : Nat
  addr : Word
  asid : BitVec 16
  tag : Byte
  phys : Bool
  two : Bool
  op : BitVec 2
  res0 : Bool
  slots : List SectorSlot
deriving DecidableEq, Repr

/-- A request of another package that arrives over UALink (R447): up to four sectors of one line, or an atomic of n bytes by its
code of R274 (10: the halves of R279) or a compare-and-swap, with the OR of its operands' marks. -/
inductive LinkReq where
  | read (src pa sectors : Nat)
  | write (src pa : Nat) (slots : List (SectorSlot × Bool))
  | atomic (src pa code n : Nat) (operand : Word) (mark : Bool)
  | cas (src pa n : Nat) (expect new : BitVec 128) (mark : Bool)
deriving DecidableEq, Repr

/-- What a flit carries (R447, R448): a request, and the number from which it asks for a replay of the receiver's own flits. -/
structure FlitLoad where
  request : Option LinkReq
  replay : Option Nat
deriving DecidableEq, Repr

/-- A replicated launch descriptor sent by the placing package (R341, R342), with the number, priority, address space and SCOPE of
the queue it was issued from. -/
structure ReplicaMsg where
  home : Nat
  queue : Nat
  prio : Nat
  asid : Nat
  scope : Nat
  gen : Nat
  index : Nat
  count : Nat
  desc : List Byte
deriving DecidableEq, Repr

/-- A firmware image as the boot ROM finds it (R411): its signing key hashes to the fused hash, its signature verifies, its security
version, the minimum it carries, its SHA-512. -/
structure BootImage where
  trusted : Bool
  signed : Bool
  version : Nat
  minimum : Nat
  hash : List Byte
deriving DecidableEq, Repr

/-- What a bring-up stage found (R408). -/
structure StageResult where
  /-- stage 1: image A, then image B -/
  images : List BootImage
  /-- stage 2: the fused remap tables: core, logical and physical lane; level, unit, set group and way; die, stack and entries used -/
  lanes : List (Nat × Nat × Nat)
  ways : List (Nat × Nat × Nat × Nat)
  rows : List (Nat × Nat × Nat)
  /-- stage 2: what failed and is retired: core and physical lane; level, unit, set group and way; physical address of a row -/
  badLanes : List (Nat × Nat)
  badWays : List (Nat × Nat × Nat × Nat)
  badRows : List Nat
  /-- stage 3: the dies of memory channels that failed -/
  badChannels : List Nat
  /-- stage 4: cores that failed their self-test -/
  badCores : List Nat
  /-- stage 5: the carrier slot straps -/
  straps : BitVec 6
  /-- stage 6: the pod slots whose packages answered -/
  peers : BitVec 64
  /-- stage 6: another package holds the same slot -/
  duplicate : Bool
deriving DecidableEq, Repr

/-- What one member of a collective put in: its slot, the descriptor fields it issued with, the bytes of
its input, and which 32-byte sectors of it carried the mark (R453, R456). -/
structure MemberInput where
  slot : Nat
  agrees : Bool
  fault : Bool
  marks : List Nat
  data : List Byte
deriving DecidableEq, Repr

/-- One step of the part: a word of the scalar stream, a word of the lane stream, or an event
(one constructor for each row of spec/opcode_table.json). -/
inductive Instr where
  -- scalar words
  /-- R94: Scalar register add modulo 2^64. -/
  | sAdd (f : SA)
  /-- R94: Scalar register subtract modulo 2^64. -/
  | sSub (f : SA)
  /-- R94: Scalar bitwise AND. -/
  | sAnd (f : SA)
  /-- R94: Scalar bitwise OR. -/
  | sOr (f : SA)
  /-- R94: Scalar bitwise XOR. -/
  | sXor (f : SA)
  /-- R94: Scalar a AND NOT b. -/
  | sAndn (f : SA)
  /-- R94: Scalar shift left by register amount. -/
  | sShl (f : SA)
  /-- R94: Scalar logical shift right by register amount. -/
  | sShr (f : SA)
  /-- R94: Scalar arithmetic shift right by register amount. -/
  | sSra (f : SA)
  /-- R94: Scalar rotate right by b mod 64. -/
  | sRot (f : SA)
  /-- R94: Scalar signed minimum. -/
  | sMin (f : SA)
  /-- R94: Scalar unsigned minimum. -/
  | sMinN (f : SA)
  /-- R94: Scalar signed maximum. -/
  | sMax (f : SA)
  /-- R94: Scalar unsigned maximum. -/
  | sMaxN (f : SA)
  /-- R94: Scalar low 64 bits of product. -/
  | sMul (f : SA)
  /-- R94: Scalar high half of signed 128-bit product. -/
  | sMulh (f : SA)
  /-- R94: Scalar high half of unsigned 128-bit product. -/
  | sMulhN (f : SA)
  /-- R95: Signed divide on the scalar divider, long result; INT_DIVIDE on zero divisor. -/
  | sDiv (f : SA)
  /-- R95: Unsigned divide on the scalar divider, long result. -/
  | sDivN (f : SA)
  /-- R95: Signed remainder on the scalar divider, long result. -/
  | sRem (f : SA)
  /-- R95: Unsigned remainder on the scalar divider, long result. -/
  | sRemN (f : SA)
  /-- R96: Count leading zeros of a 64-bit value. -/
  | sClz (f : SA)
  /-- R96: Count trailing zeros of a 64-bit value. -/
  | sCtz (f : SA)
  /-- R96: Count one bits. -/
  | sPopc (f : SA)
  /-- R96: Reverse the 64 bits. -/
  | sBrev (f : SA)
  /-- R97: Extract a bit field under a control value. -/
  | sBfx (f : SA)
  /-- R97: Insert a bit field into the destination. -/
  | sBfi (f : SA)
  /-- R98: Interleave two 32-bit fields into a Morton code. -/
  | sIleave (f : SA)
  /-- R98: Interleave three 21-bit fields, third from the destination. -/
  | sIleave3 (f : SA)
  /-- R98: Extract one of two interleaved fields. -/
  | sDeleave (f : SA)
  /-- R98: Extract one of three interleaved fields. -/
  | sDeleave3 (f : SA)
  /-- R104: Select sa or sb by a possibly negated scalar predicate. -/
  | sSel (neg : Bool) (p : BitVec 3) (f : SA)
  /-- R102: Compare two scalar registers into a predicate. -/
  | sCmp (c : Cond) (f : SA)
  /-- R105: Combine scalar predicates. -/
  | sKop (o : KOp) (f : SA)
  /-- R149: Scalar f64 add in the dynamic mode. -/
  | sFopAdd (f : SA)
  /-- R149: Scalar f64 subtract. -/
  | sFopSub (f : SA)
  /-- R149: Scalar f64 multiply. -/
  | sFopMul (f : SA)
  /-- R149: Scalar f64 divide on the divider, long result. -/
  | sFopDiv (f : SA)
  /-- R149: Scalar f64 square root on the divider, long result. -/
  | sFopSqrt (f : SA)
  /-- R149: Scalar f64 minimumNumber. -/
  | sFopMin (f : SA)
  /-- R149: Scalar f64 maximumNumber. -/
  | sFopMax (f : SA)
  /-- R149: Clear the sign bit. -/
  | sFopAbs (f : SA)
  /-- R149: Invert the sign bit. -/
  | sFopNeg (f : SA)
  /-- R150: Scalar fused multiply-add with the old sd as addend. -/
  | sFfma (v : FmaVar) (f : SA)
  /-- R151: Scalar f64 compare into a predicate. -/
  | sFcmp (c : SFCond) (f : SA)
  /-- R152: Scalar conversion in the dynamic mode. -/
  | sFcvt (c : SCvt) (f : SA)
  /-- R99: Add a sign-extended immediate. -/
  | sAddImm (f : SI)
  /-- R99: AND with an immediate. -/
  | sAndImm (f : SI)
  /-- R99: OR with an immediate. -/
  | sOrImm (f : SI)
  /-- R99: XOR with an immediate. -/
  | sXorImm (f : SI)
  /-- R100: Shift left by an immediate amount. -/
  | sShlImm (f : SSh)
  /-- R100: Logical shift right by an immediate amount. -/
  | sShrImm (f : SSh)
  /-- R100: Arithmetic shift right by an immediate amount. -/
  | sSraImm (f : SSh)
  /-- R100: Rotate right by an immediate amount. -/
  | sRotImm (f : SSh)
  /-- R99: Multiply by an immediate. -/
  | sMulImm (f : SI)
  /-- R103: Compare a register with an immediate into a predicate. -/
  | sCmpImm (c : Cond) (k : BitVec 3) (w : Bool) (a : BitVec 6) (i : BitVec 13)
  /-- R101: Place imm19 at bits 31:13, sign-extended. -/
  | sLui (f : SL)
  /-- R101: Form an address relative to the word. -/
  | sAddpc (f : SL)
  /-- R314: Conditional scalar branch on k(kg) XOR kn. -/
  | sBr (f : SB)
  /-- R314: Unconditional scalar jump. -/
  | sJmp (w : Bool) (disp : BitVec 21)
  /-- R314: Call, writing the return address to sd. -/
  | sCall (f : SL)
  /-- R236: Scalar global load, plain or acquire, long result. -/
  | sLd (f : SM)
  /-- R236: Scalar global store, plain or release. -/
  | sSt (f : SM)
  /-- R236: Scalar scratchpad load, long result. -/
  | sLdsp (f : SM)
  /-- R236: Scalar scratchpad store. -/
  | sStsp (f : SM)
  /-- R247: Submit a copy-engine descriptor; acceptance status. -/
  | sCopy (f : SC)
  /-- R251: Start a tile stream from a global descriptor. -/
  | sStream (f : SC)
  /-- R255: Prefetch a range into the core's L1. -/
  | sPrefL1 (f : SC)
  /-- R255: Prefetch a range into the home L2 and RDC. -/
  | sPrefL2 (f : SC)
  /-- R256: Drop clean L1 lines of a range. -/
  | sCacheL1inv (f : SC)
  /-- R256: Drop RDC lines of a range. -/
  | sCacheRdcinv (f : SC)
  /-- R256: Write back dirty L2 lines of a range. -/
  | sCacheL2wb (f : SC)
  /-- R257: Wait for stores home, then drop instruction-cache and RDC lines of a range. -/
  | sCacheIcinv (f : SC)
  /-- R243: Set an arrival word's TARGET and clear its count and flags. -/
  | sAwset (f : SC)
  /-- R244: Wait until an arrival word's generation passes a value. -/
  | sAwwait (f : SC)
  /-- R271: Acquire fence at a scope. -/
  | sFenceAcq (scope : BitVec 3) (f : SC)
  /-- R271: Release fence at a scope. -/
  | sFenceRel (scope : BitVec 3) (f : SC)
  /-- R271: Full acquire-release fence at a scope. -/
  | sFenceAcqrel (scope : BitVec 3) (f : SC)
  /-- R283: Arrive at a named barrier and wait for the phase. -/
  | sBarSync (f : SBar)
  /-- R283: Arrive at a named barrier without waiting. -/
  | sBarArrive (f : SBar)
  /-- R283: Set a barrier's expected count. -/
  | sBarInit (f : SBar)
  /-- R286: Seal physical pages after draining writes and dropping copies. -/
  | sSeal (scope : BitVec 3) (f : SC)
  /-- R287: Drop copies and clear a seal. -/
  | sUnseal (scope : BitVec 3) (f : SC)
  /-- R274: Plain-order scalar atomic performed at the home. -/
  | sAtom (o : AtomOp) (scope : BitVec 3) (f : SC)
  /-- R274: Acquire-order scalar atomic. -/
  | sAtomAcq (o : AtomOp) (scope : BitVec 3) (f : SC)
  /-- R274: Release-order scalar atomic. -/
  | sAtomRel (o : AtomOp) (scope : BitVec 3) (f : SC)
  /-- R274: Acquire-release scalar atomic. -/
  | sAtomAcqrel (o : AtomOp) (scope : BitVec 3) (f : SC)
  /-- R276: Scalar compare-and-swap at the home. -/
  | sCas (order size : BitVec 2) (scope : BitVec 3) (f : SC)
  /-- R174: Queue one matrix step into window rows. -/
  | sMma (z : Bool) (f : SC)
  /-- R175: Queue a loop of matrix steps under a loop descriptor. -/
  | sMloop (z : Bool) (f : SC)
  /-- R176: Set or query a team's accumulator window. -/
  | sAwin (q : Bool) (f : SC)
  /-- R177: Queue a clear of window rows. -/
  | sAclr (f : SC)
  /-- R207: Commit the region and queue a Yarrow beam query. -/
  | sBeam (f : SC)
  /-- R315: Return to the address in a register. -/
  | sRet (f : SC)
  /-- R315: Jump to the address in a register. -/
  | sJr (f : SC)
  /-- R316: Enqueue a lane block with uniform slots. -/
  | sLrunUniforms (n : BitVec 3) (f : SC)
  /-- R316: Enqueue a lane block without uniforms. -/
  | sLrun (f : SC)
  /-- R317: Hold the scalar stream until earlier blocks retire. -/
  | sLwait (f : SC)
  /-- R317: Commit, drain and retire the team. -/
  | sExit (f : SC)
  /-- R324: Offer to merge with a half-empty team of the core. -/
  | sRegroup (nw : Bool) (f : SC)
  /-- R318: Read a team-visible special register. -/
  | sMfs (f : SSpec)
  /-- R318: Write a team-visible special register. -/
  | sMts (f : SSpec)
  /-- R317: No operation. -/
  | sNop (f : SC)
  /-- R345: Request the next item of a named counter. -/
  | sWdq (f : SC)
  /-- R361: Push a record, waiting for room. -/
  | sQpush (f : SC)
  /-- R361: Push a record without waiting. -/
  | sQpushNw (f : SC)
  /-- R358: Open a ring as a producer. -/
  | sQpushOpen (f : SC)
  /-- R358: Close a ring as a producer. -/
  | sQpushClose (f : SC)
  /-- R361: Pop a record, waiting while empty. -/
  | sQpop (kd : BitVec 3) (f : SC)
  /-- R361: Pop a record without waiting. -/
  | sQpoll (kd : BitVec 3) (f : SC)
  /-- R351: Set the team's lease. -/
  | sLease (f : SC)
  /-- R368: Leave the active set, or complete a pre-emption in handler state. -/
  | sYield (f : SC)
  /-- R369: Publish a launch descriptor into a launch queue. -/
  | sLaunch (f : SC)
  /-- R395: Raise SOFTWARE with an operand. -/
  | sTrap (f : SC)
  /-- R390: End handler state, or drop from runtime to team mode. -/
  | sEret (f : SC)
  /-- R380: Invalidate translations of one address. -/
  | sTlbiVa (dom : Bool) (f : SC)
  /-- R380: Invalidate translations of one ASID. -/
  | sTlbiAsid (dom : Bool) (f : SC)
  /-- R380: Invalidate all translations in the scope. -/
  | sTlbiAll (dom : Bool) (f : SC)
  /-- R395: Read a privileged special register. -/
  | sMfp (f : SSpec)
  /-- R395: Write a privileged special register without behaviour of its own. -/
  | sMtp (f : SSpec)
  /-- R439: Commit any open region and open a new one with its record. -/
  | sRegion (movable : Bool) (f : SC)
  /-- R422: Commit the open region. -/
  | sCommit (f : SC)
  /-- R441: Take a snapshot and open a LOCAL region on it. -/
  | sCkpt (f : SC)
  /-- R442: Check a scalar invariant; CHECK_FAIL or replay on failure. -/
  | sCschk (c : Cond) (f : SC)
  /-- R443: Read the scalar registers' poison marks. -/
  | sPoisqRegs (f : SC)
  /-- R443: Read the marks of a global line at its home. -/
  | sPoisqLine (f : SC)
  /-- R443: Read the marks of 128 scratchpad bytes. -/
  | sPoisqSp (f : SC)
  /-- R443: Copy a register without its mark. -/
  | sPoisqClr (f : SC)
  /-- R443: Set the poison policy and read and clear CPOIS. -/
  | sPoisqPol (f : SC)
  /-- R459: Commit and submit a collective to Campion. -/
  | sColl (f : SC)
  /-- R460: Wait for a collective and return its code and contributor mask. -/
  | sCwait (f : SC)
  -- lane words
  /-- R108: Lane integer add, wrapping or saturating. -/
  | vAdd (f : Lane)
  /-- R108: Lane integer subtract. -/
  | vSub (f : Lane)
  /-- R108: Lane integer multiply. -/
  | vMul (f : Lane)
  /-- R108: Lane high half of product. -/
  | vMulh (f : Lane)
  /-- R108: Lane bitwise AND. -/
  | vAnd (f : Lane)
  /-- R108: Lane bitwise OR. -/
  | vOr (f : Lane)
  /-- R108: Lane bitwise XOR. -/
  | vXor (f : Lane)
  /-- R108: Lane a AND NOT b. -/
  | vAndn (f : Lane)
  /-- R108: Lane shift left. -/
  | vShl (f : Lane)
  /-- R108: Lane logical shift right. -/
  | vShr (f : Lane)
  /-- R108: Lane arithmetic shift right. -/
  | vSra (f : Lane)
  /-- R108: Lane integer minimum. -/
  | vMin (f : Lane)
  /-- R108: Lane integer maximum. -/
  | vMax (f : Lane)
  /-- R109: Lane count of leading zeros. -/
  | vClz (f : Lane)
  /-- R109: Lane count of one bits. -/
  | vPopc (f : Lane)
  /-- R109: Lane bit reversal. -/
  | vBrev (f : Lane)
  /-- R110: Lane bit-field extract. -/
  | vBfx (f : Lane)
  /-- R110: Lane bit-field insert into vc. -/
  | vBfi (f : Lane)
  /-- R111: Lane bit interleave of two or three fields. -/
  | vIleave (f : Lane)
  /-- R111: Lane bit de-interleave. -/
  | vDeleave (f : Lane)
  /-- R112: Lane integer compare into a predicate. -/
  | vIcmp (f : Lane)
  /-- R113: Lane select by predicate. -/
  | vSel (f : Lane)
  /-- R114: Combine lane predicates. -/
  | vPop (f : Lane)
  /-- R115: Write a sign-extended immediate to every lane. -/
  | vMovi (f : Lane)
  /-- R115: Write an immediate into the high 32 bits, keeping the low bits. -/
  | vMoviHi (f : Lane)
  /-- R116: Lane move without interpretation. -/
  | vMov (f : Lane)
  /-- R117: Lane integer multiply-add. -/
  | vImad (f : Lane)
  /-- R130: Lane floating add, rounded once. -/
  | vFadd (f : Lane)
  /-- R130: Lane floating subtract. -/
  | vFsub (f : Lane)
  /-- R130: Lane floating multiply. -/
  | vFmul (f : Lane)
  /-- R131: Lane fused multiply-add with sign variants. -/
  | vFfma (f : Lane)
  /-- R132: Lane floating minimum. -/
  | vFmin (f : Lane)
  /-- R132: Lane floating maximum. -/
  | vFmax (f : Lane)
  /-- R133: Lane sign manipulation moving bits only. -/
  | vFsgn (f : Lane)
  /-- R134: Lane floating compare into a predicate. -/
  | vFcmp (f : Lane)
  /-- R135: Lane classification mask and optional predicate. -/
  | vFclass (f : Lane)
  /-- R136: Lane correctly rounded divide, long result. -/
  | vFdiv (f : Lane)
  /-- R136: Lane correctly rounded square root, long result. -/
  | vFsqrt (f : Lane)
  /-- R137: Lane reciprocal special function. -/
  | vFrcp (f : Lane)
  /-- R137: Lane reciprocal square root. -/
  | vFrsq (f : Lane)
  /-- R137: Lane base-2 exponential. -/
  | vFex2 (f : Lane)
  /-- R137: Lane base-2 logarithm. -/
  | vFlg2 (f : Lane)
  /-- R137: Lane sine. -/
  | vFsin (f : Lane)
  /-- R137: Lane cosine. -/
  | vFcos (f : Lane)
  /-- R139: Lane conversion between floating formats. -/
  | vFcvt (f : Lane)
  /-- R140: Lane conversion between integer and floating. -/
  | vIcvt (f : Lane)
  /-- R141: Lane round to integral value. -/
  | vFround (f : Lane)
  /-- R142: Lane multiply by a power of two. -/
  | vFscale (f : Lane)
  /-- R144: Decode an NQ4 element. -/
  | vQdec (f : Lane)
  /-- R145: Decode an FP8 or MX element. -/
  | vMxdec (f : Lane)
  /-- R146: Quantise and insert one narrow element. -/
  | vPack (f : Lane)
  /-- R147: Compute an E8M0 shared scale. -/
  | vPackScale (f : Lane)
  /-- R179: Read accumulator elements into lanes. -/
  | vLdacc (f : Lane)
  /-- R179: Write lane values into accumulator elements. -/
  | vStacc (f : Lane)
  /-- R211: Queue one single-ray query per lane at Yarrow. -/
  | vTrace (f : Lane)
  /-- R216: Filtered texture sample per lane. -/
  | vTex (f : Lane)
  /-- R238: Lane global load. -/
  | vLd (f : Lane)
  /-- R238: Lane global store. -/
  | vSt (f : Lane)
  /-- R238: Lane scratchpad load, own or peer. -/
  | vLdsp (f : Lane)
  /-- R238: Lane scratchpad store. -/
  | vStsp (f : Lane)
  /-- R278: Lane global atomic, lanes merged per address. -/
  | vAtom (f : Lane)
  /-- R280: Lane compare-and-swap in ascending lane order. -/
  | vCas (f : Lane)
  /-- R278: Lane scratchpad atomic. -/
  | vAtomsp (f : Lane)
  /-- R309: Lane branch that may divide the split. -/
  | vBr (f : Lane)
  /-- R319: Move the whole split to a target. -/
  | vJmp (f : Lane)
  /-- R310: Park at a join and fuse when all members arrive. -/
  | vJoin (f : Lane)
  /-- R312: Finish the split for the block. -/
  | vLend (f : Lane)
  /-- R312: Remove lanes from the live mask. -/
  | vExit (f : Lane)
  /-- R320: Ballot, any, all or count over the split's lanes. -/
  | vVote (f : Lane)
  /-- R321: Read another lane of the split. -/
  | vShuf (f : Lane)
  /-- R322: Read a special register into lanes. -/
  | vMfs (f : Lane)
  /-- R396: Raise SOFTWARE in the running lanes. -/
  | vTrap (f : Lane)
  /-- R444: Fold a value into a per-lane checksum. -/
  | vCsacc (f : Lane)
  /-- R445: Check a lane invariant; CHECK_FAIL or replay. -/
  | vChk (f : Lane)
  -- events: steps of the machine that no word of either stream encodes
  /-- R304: A long result (load, atomic, divide, engine status) returns to its register. -/
  | longResultReturn (core team ticket : Nat) (check : PathCheck)
  /-- R303: A parked team's waits end; frame copies written, latches emptied, pending pre-emption delivered, team eligible again. -/
  | switchMarkerRelease (core team : Nat)
  /-- R324: An unmatched offer is withdrawn after 2^16 cycles with NO_PARTNER. -/
  | regroupOfferTimeout (core team : Nat)
  /-- R87: The scalar divider writes its quotient or remainder. -/
  | scalarDividerComplete (core : Nat)
  /-- R349: Each cycle READY teams whose leases fit the share are admitted. -/
  | teamAdmission (core : Nat)
  /-- R349: A team READY for 4096 cycles is admitted over budget or waits to run SOLO. -/
  | overBudgetAdmission (core : Nat)
  /-- R350: A blocking wait lasting 1024 cycles moves the team to BLOCKED. -/
  | teamBlocked (core team : Nat)
  /-- R350: The end of a blocked wait makes the team READY. -/
  | teamUnblocked (core team : Nat)
  /-- R354: The back-off hold after an EMPTY poll expires. -/
  | qpollBackoffEnd (core team : Nat)
  /-- R348: Every 65536 cycles an unused measured lease loses 8 lines. -/
  | leaseDecay (core team : Nat)
  /-- R404: The queue manager sees a TAIL write and checks occupancy. -/
  | queueTailSeen (queue : Nat)
  /-- R332: Every 10 us the queue manager unmaps, ranks, maps and displaces queues. -/
  | queueReevaluation (die : Nat)
  /-- R339: A launch whose rectangle is free is checked, partitioned and made resident. -/
  | launchPlacement (queue : Nat)
  /-- R155: Accumulator, scratchpad and caches cleared; teams may issue. -/
  | partitionSetupComplete (core : Nat)
  /-- R341: A package receives a replicated launch descriptor over UALink. -/
  | replicaDescriptorReceived (r : ReplicaMsg)
  /-- R343: A placed replica reports READY to replica 0. -/
  | replicaReady (gen index : Nat)
  /-- R343: START arrives and the replica's teams begin issuing. -/
  | replicaStart (gen : Nat)
  /-- R343: ABORT releases the replica's cores and rejects the launch with LOST. -/
  | replicaAbort (gen : Nat)
  /-- R345: The work distributor hands out an item or the token and contributes to the arrival word. -/
  | wdqServe (launch index : Nat)
  /-- R244: An arrival wait of 2^20 cycles returns WAIT_TIMEOUT. -/
  | awwaitTimeout (core team : Nat)
  /-- R246: The copy engine starts an accepted command and registers its destination. -/
  | copyStart (cluster : Nat)
  /-- R249: A copy ends, writing RESULT and contributing its bytes. -/
  | copyComplete (cluster ticket : Nat)
  /-- R252: A fill stream moves one tile into its ring slot once the handshake allows. -/
  | streamTileFill (core stream : Nat)
  /-- R252: A drain stream writes one tile to memory once the handshake allows. -/
  | streamTileDrain (core stream : Nat)
  /-- R228: An engine finishes writing a registered line and releases waiting accesses. -/
  | engineLineRelease (ticket line : Nat)
  /-- R269: A write-through store or commit store is performed at its home slice. -/
  | storePerformedAtHome (core index : Nat) (check : PathCheck)
  /-- R163: The matrix unit starts and performs one step of a queued command. -/
  | matrixStep (core : Nat) (residue : Residue)
  /-- R175: A loop step waiting 2^20 cycles on an arrival word ends with WAIT_TIMEOUT. -/
  | mloopWaitTimeout (core : Nat)
  /-- R197: Yarrow takes the next queue entry and traverses it. -/
  | beamQueryStart (cluster : Nat)
  /-- R198: The queue manager answers a split-record post; a refusal becomes a visit. -/
  | splitRecordAnswer (cluster : Nat)
  /-- R202: A refused hit record is offered again every microsecond. -/
  | hitRecordRetry (cluster : Nat)
  /-- R284: A sync waiting 2^24 cycles withdraws its arrival and raises TIMEOUT. -/
  | barrierSyncTimeout (core team : Nat)
  /-- R361: A push or pop waiting 2^20 cycles returns WAIT_TIMEOUT. -/
  | queueWaitTimeout (core team : Nat)
  /-- R359: The queue manager performs a push or pop on a record queue. -/
  | recordQueueOperation (core team : Nat)
  /-- R364: Die 0 starts a token round for a work graph. -/
  | terminationRound (graph : Nat)
  /-- R364: A passive core passes the token on, colouring it. -/
  | terminationTokenPass (graph : Nat)
  /-- R391: Write of a pre-emption request for groups of a launch. -/
  | preq (core team : Nat) (v : Word)
  /-- R391: Write withdrawing a pending pre-emption request. -/
  | pcancel (core team : Nat) (v : Word)
  /-- R394: Write killing a launch and republishing it. -/
  | pkill (core team : Nat) (v : Word)
  /-- R393: A saved group is placed on free cores and restored. -/
  | groupResume (group place : Nat)
  /-- R381: Every 1 ms hotness counters halve. -/
  | hotnessDecay (die : Nat)
  /-- R382: Every 100 us hot pages are kept, replicated or migrated. -/
  | migrationExamine (die frame occupancy : Nat)
  /-- R414: A detector reports an error; it is corrected, marked, replayed or reported. -/
  | errorDetection (e : ErrorReport)
  /-- R421: A region record becomes durable and VALID. -/
  | regionRecordValid (core team : Nat)
  /-- R423: After HALT drains, held stores are dropped and undo logs written back. -/
  | speedwellDiscard (core team : Nat)
  /-- R424: A MOVABLE region is moved to a freed core for further attempts. -/
  | regionMove (core team target : Nat)
  /-- R424: No core frees within 1 ms; the region ends in FATAL. -/
  | regionMoveTimeout (core team : Nat)
  /-- R424: The team parks, a snapshot is taken, the region commits and reopens. -/
  | regionBufferOverflow (core team : Nat)
  /-- R431: A third core reruns a mismatched DUAL region and arbitrates. -/
  | dualArbitration (core team third : Nat) (run : ThirdRun)
  /-- R432: A failing physical lane is remapped at a safe point after a marker. -/
  | laneRetirement (core : Nat)
  /-- R432: The 64-cycle lane pipeline pause ends. -/
  | laneRemapPauseEnd (core : Nat)
  /-- R435: Every hour each die logs a WEAR record. -/
  | wear (die margin months : Nat) (up : Bool)
  /-- R401: The mailbox engine merges a host write at the home as a release. -/
  | mailboxWrite (r : MailReq)
  /-- R401: The mailbox engine reads sectors at the home for the host. -/
  | mailboxRead (r : MailReq)
  /-- R402: Reading SEMn acquires it when free and returns the owner. -/
  | semRead (agent : Agent) (n : Nat)
  /-- R402: The owner writes 0 to free a semaphore. -/
  | semWrite (agent : Agent) (n : Nat) (v : Word)
  /-- R403: Write of CTXBASE, ignored while teams are resident. -/
  | ctxbaseWrite (v : Word)
  /-- R403: Write of QTBASE, ignored while teams are resident. -/
  | qtbaseWrite (v : Word)
  /-- R405: Push a near-tier frame onto a die's free list. -/
  | freepush (die : Nat) (v : Word)
  /-- R405: Read removing the most recently pushed frame. -/
  | freepop (agent : Agent) (die : Nat)
  /-- R407: Write clearing the W1C ERR bit of FREECOUNT. -/
  | freecountWrite (die : Nat) (v : Word)
  /-- R407: Write clearing W1C bits of STATUS. -/
  | statusWrite (v : Word)
  /-- R408: Writing 0xA5 resets the package. -/
  | resetreq (v : Word)
  /-- R409: Write of the power cap, clamped to 1200-2600 W. -/
  | pwrcapWrite (v : Word)
  /-- R450: Write of the heartbeat timeout, clamped. -/
  | fabctlWrite (v : Word)
  /-- R408: A reset asserted on a port sideband resets the package. -/
  | sidebandReset (port : Nat)
  /-- R408: A bring-up stage completes and the next begins. -/
  | bringupStageComplete (r : StageResult)
  /-- R398: A port down for 10 ms is lost; its semaphores freed and events sent. -/
  | portLost (port : Nat)
  /-- R413: SPDM version request. -/
  | getVersion (port : Nat)
  /-- R413: SPDM capabilities request. -/
  | getCapabilities (port : Nat)
  /-- R413: SPDM algorithm negotiation. -/
  | negotiateAlgorithms (port : Nat)
  /-- R413: SPDM certificate digests request. -/
  | getDigests (port : Nat)
  /-- R413: SPDM certificate chain request. -/
  | getCertificate (port slot offset length : Nat)
  /-- R413: SPDM challenge signed with the identity key. -/
  | challenge (port slot nonce : Nat)
  /-- R413: SPDM measurement blocks request. -/
  | getMeasurements (port index nonce : Nat) (signed : Bool)
  /-- R413: Any other SPDM request answered with ERROR UnsupportedRequest. -/
  | spdmUnsupportedRequest (port code : Nat)
  /-- R409: Every 10 us power is sampled and the matrix stretch adjusted. -/
  | powerSample (watts : Nat)
  /-- R409: Stretch at 96 and power over cap for 100 ms raise PWRALERT. -/
  | pwralertRaise
  /-- R410: A sensor reports; THERM follows 105 C. -/
  | temperatureSample (sensor : Nat) (t : BitVec 16)
  /-- R410: 120 C for 1 ms trips the module and removes power. -/
  | thermalTrip (sensor : Nat)
  /-- R448: A station receives a flit, delivering or requesting replay. -/
  | flitReceive (station number : Nat) (crcOk : Bool) (load : FlitLoad)
  /-- R448: A flit replayed 16 times makes the link retrain. -/
  | linkRetrain (station : Nat) (ok : Bool)
  /-- R448: Three failed retrains in 1 ms take a station down. -/
  | stationDown (station : Nat)
  /-- R447: A remote read, write or atomic arrives and is performed at the home. -/
  | ualinkRequestArrival (r : LinkReq)
  /-- R450: Every HBTO/8 a heartbeat goes to each present package. -/
  | heartbeatSend
  /-- R450: A heartbeat from a peer arrives. -/
  | heartbeatReceive (slot : Nat)
  /-- R450: Link-down for 1 ms or missing heartbeats declare a slot lost. -/
  | packageLostDeclaration (slot : Nat)
  /-- R457: An EXCLUDE notice removes a member and restarts the collective. -/
  | exclude (slot gen : Nat)
  /-- R457: Once all contributors issued, Campion folds and, in the final attempt, writes DST. -/
  | collectiveAttempt (handle : Nat) (inputs : List MemberInput)
  /-- R460: A collective wait of 2^24 cycles returns PENDING. -/
  | cwaitTimeout (core team : Nat)
  /-- R408: Power comes good and the clocks lock at power-up, starting stage 0 of the bring-up sequence. -/
  | powerGood
  /-- R450: A package that has been reset reaches stage 6 and sends its pod membership, and each peer sets the package's bit in PODLIVE again. -/
  | podMembershipExchange (slot : Nat)
deriving DecidableEq, Repr

end Sys2Proof
end

