-- ==== Sys2Proof/Machine/IntOps.lean ====
section
/-!
DEFINITION. The integer operations of both streams as functions of exact integers and bit patterns
(R86, R90, R91, R94 to R98, R102, R105, R108 to R112): no state.
-/
namespace Sys2Proof.Machine

/-- The width of a class I type code (R39, R79). -/
def ityWidth (ty : Nat) : Nat :=
  match ty with
  | 0 | 1 => 32 | 2 | 3 => 64 | 4 | 5 => 16 | _ => 8

/-- Whether a class I type code is signed (R39). -/
def itySigned (ty : Nat) : Bool := ty % 2 == 0

/-- The exact integer that the low w bits denote (R90). -/
def srcInt (w : Nat) (signed : Bool) (n : Nat) : Int := if signed then sext w n else ((n % 2 ^ w : Nat) : Int)

/-- The register form of a w-bit result: extended by sign or by zeros (R81). -/
def extend (w : Nat) (signed : Bool) (x : Int) : Word :=
  let n := wrapN w x
  if signed then word (sext w n) else wordN n

/-- An exact result clamped to the format (R80). -/
def clampI (w : Nat) (signed : Bool) (x : Int) : Int :=
  let lo : Int := if signed then -(2 ^ (w - 1) : Int) else 0
  let hi : Int := if signed then 2 ^ (w - 1) - 1 else 2 ^ w - 1
  maxI lo (minI hi x)

/-- A shift left at width w (R91). -/
def shlN (w a k : Nat) : Nat := if w ≤ k then 0 else a * 2 ^ k % 2 ^ w
/-- A logical shift right at width w (R91). -/
def shrN (w a k : Nat) : Nat := if w ≤ k then 0 else a % 2 ^ w / 2 ^ k
/-- An arithmetic shift right at width w (R91). -/
def sraN (w a k : Nat) : Nat := wrapN w (sext w a / (2 ^ (if w ≤ k then w else k) : Nat))
/-- A rotation right of 64 bits (R91). -/
def rotN (a k : Nat) : Nat :=
  let r := k % 64
  a / 2 ^ r + (a * 2 ^ (64 - r)) % 2 ^ 64 * (if r = 0 then 0 else 1)

/-- Leading zeros of a w-bit pattern (R96, R109). -/
def clzN (w a : Nat) : Nat := if a % 2 ^ w = 0 then w else w - 1 - Nat.log2 (a % 2 ^ w)

/-- Trailing zeros within k bits. -/
def ctzN : Nat → Nat → Nat
  | 0, _ => 0
  | k + 1, a => if a % 2 = 1 then 0 else 1 + ctzN k (a / 2)

/-- One bits among the low k. -/
def popN : Nat → Nat → Nat
  | 0, _ => 0
  | k + 1, a => a % 2 + popN k (a / 2)

/-- The low k bits in reverse order. -/
def revN : Nat → Nat → Nat
  | 0, _ => 0
  | k + 1, a => a % 2 * 2 ^ k + revN k (a / 2)

/-- The length of the field that a control value names at width w (R97). -/
def fieldLen (w c : Nat) : Nat :=
  let pos := bits c 0 7
  if w ≤ pos then 0 else min (bits c 8 7) (w - pos)

/-- Bit-field extract (R97, R110): the exact integer of the field. -/
def bfxI (w : Nat) (signed : Bool) (a c : Nat) : Int :=
  let n := fieldLen w c
  if n = 0 then 0 else srcInt n signed (bits a (bits c 0 7) n)

/-- Bit-field insert (R97, R110): `a` into the field of `old`. -/
def bfiN (w : Nat) (a c old : Nat) : Nat :=
  let n := fieldLen w c
  let pos := bits c 0 7
  if n = 0 then old % 2 ^ w
  else old % 2 ^ pos + a % 2 ^ n * 2 ^ pos + old % 2 ^ w / 2 ^ (pos + n) * 2 ^ (pos + n)

/-- Interleaves the low k bits of fields, the first at bit 0 (R98, R111). -/
def ileaveN : Nat → List Nat → Nat
  | 0, _ => 0
  | k + 1, fs => (fs.zipIdx.foldl (fun acc p => acc + p.1 % 2 * 2 ^ p.2) 0)
      + 2 ^ fs.length * ileaveN k (fs.map (· / 2))

/-- Bit i of the result is bit ways × i + sel of a, for i below k (R98, R111). -/
def deleaveN (ways : Nat) : Nat → Nat → Nat
  | 0, _ => 0
  | k + 1, a => a % 2 + 2 * deleaveN ways k (a / 2 ^ ways)

/-- Quotient truncated towards zero, and the remainder of the dividend's sign (R95). -/
def quotRem (a b : Int) : Int × Int := (Int.tdiv a b, a - Int.tdiv a b * b)

/-- The conditions of `s.cmp` on two 64-bit values (R102). -/
def condHolds (c : Cond) (a b : Word) : Bool :=
  match c with
  | .eq => a == b
  | .ne => a != b
  | .lt => a.toInt < b.toInt
  | .ge => b.toInt ≤ a.toInt
  | .ltN => a.toNat < b.toNat
  | .geN => b.toNat ≤ a.toNat
  | .tst => (a &&& b) != 0
  | .ntst => (a &&& b) == 0

/-- The conditions of `v.icmp` and `v.chk` by code, on w-bit sources (R112). -/
def laneCondHolds (code w : Nat) (signed : Bool) (a b : Nat) : Bool :=
  let x := srcInt w signed a
  let y := srcInt w signed b
  match code with
  | 0 => x == y
  | 1 => x != y
  | 2 => x < y
  | 3 => y ≤ x
  | 4 => x ≤ y
  | 5 => y < x
  | 6 => (a &&& b) % 2 ^ w != 0
  | _ => (a &&& b) % 2 ^ w == 0

/-- The predicate operations (R105). -/
def kopHolds (o : KOp) (a b : Bool) : Bool :=
  match o with
  | .and => a && b
  | .or => a || b
  | .xor => a != b
  | .andn => a && !b
  | .orn => a || !b
  | .nand => !(a && b)
  | .nor => !(a || b)
  | .xnor => a == b
  | .not => !a

/-- The predicate operations of `v.pop`, in the codes of its ty field (R114). -/
def popHolds (ty : Nat) (a b : Bool) : Bool :=
  match ty with
  | 0 => a && b
  | 1 => a || b
  | 2 => a != b
  | 3 => a && !b
  | 4 => a || !b
  | 5 => !(a && b)
  | 6 => !(a || b)
  | _ => a == b

end Sys2Proof.Machine
end

