-- ==== Sys2Proof/Config.lean ====
section
/-!
DEFINITION. What one module fixes (fuses, keys, images) and the free values: constants without a
body, so that no proof can see what they are. Each is named in the assumption log.
-/
namespace Sys2Proof.Config

/-- DEVID.SERIAL, fused at manufacture; any 32-bit value (R407). -/
opaque serial : BitVec 32
/-- DEVID.STEP, fused: base-layer letter index in [15:8], metal revision in [7:0] (R407). -/
opaque stepping : BitVec 16

/-- The six carrier slot straps of the slot that the module stands in (R408), as the default agenda reads them (DESIGN CHOICE, log entry 1). -/
opaque straps : BitVec 6

/-- A value that the manual does not state, the n-th that the machine meets (DESIGN CHOICE, log entry 3). -/
opaque freeWord : Nat → Word
/-- What a lane that no hold has reached reads in a latch entry: by number, entry and lane (DESIGN CHOICE, log entry 15). -/
opaque latchLane : Nat → Nat → Nat → Word
/-- TRAP_ADDR of a word that consumed a marked predicate: by number, and 0 for a scalar word or 1 + the first lane that trapped
(DESIGN CHOICE, log entry 3). -/
opaque predicateAddr : Nat → Nat → Word

/-- The special functions as fixed functions of their source bits: function code (0 frcp, 1 frsq,
2 fex2, 3 flg2, 4 fsin, 5 fcos) and source give the result bits, wherever R138 states no value.
The manual gives it only through the bounds of R137 (DESIGN CHOICE, log entry 4). -/
opaque special : Nat → BitVec 32 → BitVec 32

/-- The 64-byte SHA-512 and SPDM contents that the keys and images of a module fix: item and byte
index give the byte (R411, R412, R413; DESIGN CHOICE, log entry 5). -/
opaque identity : Nat → Nat → Byte

end Sys2Proof.Config
end

