-- ==== Sys2Proof/Machine/Flags.lean ====
section
/-!
DEFINITION. Floating-point formats (R60, R61, R68), their exact values, rounding (R65) and the flags it
sets (R66). A value is an exact rational, so nothing is rounded before `roundV`.
-/
namespace Sys2Proof.Machine

/-- The sticky flags in the order of FPFLAGS (R121): NV [4], DZ [3], OF [2], UF [1], NX [0]. -/
abbrev Flags := BitVec 5

def Flags.nv : Flags := 16
def Flags.dz : Flags := 8
def Flags.of : Flags := 4
def Flags.uf : Flags := 2
def Flags.nx : Flags := 1

/-- A flag when a condition holds. -/
def Flags.when (c : Bool) (f : Flags) : Flags := if c then f else 0

/-- The rounding modes (R12, R40). -/
inductive RMode where
  | rne | rtz | rdn | rup | rna
deriving DecidableEq, Repr

/-- A mode by its code (R40); a reserved code never reaches this. -/
def RMode.ofCode : Nat → RMode
  | 1 => .rtz | 2 => .rdn | 3 => .rup | 4 => .rna | _ => .rne

/-- What the all-ones exponent means: infinities and NaNs, one NaN per sign (E4M3), or a finite value. -/
inductive Specials where
  | ieee | e4m3 | none
deriving DecidableEq, Repr

/-- A binary floating-point format (R60, R68). `quiet`: its NaNs are quiet or signalling (R63). -/
structure FFmt where
  ebits : Nat
  fbits : Nat
  bias : Nat
  specials : Specials
  quiet : Bool
deriving DecidableEq, Repr

namespace FFmt
def f64 : FFmt := ⟨11, 52, 1023, .ieee, true⟩
def f32 : FFmt := ⟨8, 23, 127, .ieee, true⟩
def f16 : FFmt := ⟨5, 10, 15, .ieee, true⟩
def bf16 : FFmt := ⟨8, 7, 127, .ieee, true⟩
def e5m2 : FFmt := ⟨5, 2, 15, .ieee, false⟩
def e4m3 : FFmt := ⟨4, 3, 7, .e4m3, false⟩
def e3m2 : FFmt := ⟨3, 2, 3, .none, false⟩
def e2m3 : FFmt := ⟨2, 3, 1, .none, false⟩
def e2m1 : FFmt := ⟨2, 1, 1, .none, false⟩

/-- The width of an encoding in bits. -/
def width (f : FFmt) : Nat := 1 + f.ebits + f.fbits
/-- The weight of the least subnormal bit, as a power of two. -/
def lsb (f : FFmt) : Int := 1 - (f.bias : Int) - (f.fbits : Int)
/-- The exponent of the least normal magnitude. -/
def emin (f : FFmt) : Int := 1 - (f.bias : Int)
/-- The encoding of the largest finite magnitude (R61, R68). -/
def maxRaw (f : FFmt) : Nat :=
  match f.specials with
  | .ieee => (2 ^ f.ebits - 1) * 2 ^ f.fbits - 1
  | .e4m3 => 2 ^ (f.ebits + f.fbits) - 2
  | .none => 2 ^ (f.ebits + f.fbits) - 1
/-- The encoding of positive infinity, in a format that has one. -/
def infRaw (f : FFmt) : Nat := (2 ^ f.ebits - 1) * 2 ^ f.fbits
/-- The canonical NaN (R61); zero in a format without NaNs (R71). -/
def canonical (f : FFmt) : Nat :=
  match f.specials with
  | .ieee => f.infRaw + 2 ^ (f.fbits - 1)
  | .e4m3 => 2 ^ (f.ebits + f.fbits) - 1
  | .none => 0
/-- A sign bit in front of a magnitude. -/
def signed (f : FFmt) (neg : Bool) (raw : Nat) : Nat := if neg then 2 ^ (f.ebits + f.fbits) + raw else raw
end FFmt

/-- An exact value: (−1)^neg × m / d × 2^e for a number (zero keeps its sign). -/
inductive FVal where
  | nan (signalling : Bool)
  | inf (neg : Bool)
  | num (neg : Bool) (m d : Nat) (e : Int)
deriving DecidableEq, Repr

/-- The value that a bit pattern denotes (R60). -/
def FFmt.value (f : FFmt) (n : Nat) : FVal :=
  let neg := bit n (f.ebits + f.fbits)
  let ex := bits n f.fbits f.ebits
  let fr := bits n 0 f.fbits
  let top := ex + 1 == 2 ^ f.ebits
  if top && f.specials == .ieee then
    if fr = 0 then .inf neg else .nan (f.quiet && fr < 2 ^ (f.fbits - 1))
  else if top && f.specials == .e4m3 && fr + 1 == 2 ^ f.fbits then .nan false
  else if ex = 0 then .num neg fr 1 f.lsb
  else .num neg (2 ^ f.fbits + fr) 1 (f.lsb + (ex : Int) - 1)

/-- A rational scaled by a power of two, as numerator and denominator. -/
def scaleQ (m d : Nat) (k : Int) : Nat × Nat :=
  if 0 ≤ k then (m * 2 ^ k.toNat, d) else (m, d * 2 ^ (-k).toNat)

/-- The greatest power of two not above m / d, as an exponent (m, d > 0). -/
def log2Q (m d : Nat) : Int :=
  let l : Int := (Nat.log2 m : Int) - (Nat.log2 d : Int)
  let (n, k) := scaleQ m d (-l)
  if n < k then l - 1 else l

/-- num / den to an integer under a mode (R65): the integer, and whether it differs. -/
def roundInt (rm : RMode) (neg : Bool) (num den : Nat) : Nat × Bool :=
  let q := num / den
  let r := num % den
  let up := match rm with
    | .rne => den < 2 * r || (2 * r == den && q % 2 == 1)
    | .rna => den ≤ 2 * r
    | .rtz => false
    | .rdn => neg && r != 0
    | .rup => !neg && r != 0
  (if up then q + 1 else q, r != 0)

/-- What overflow delivers (R65). -/
def overflowRaw (f : FFmt) (rm : RMode) (sat neg : Bool) : Nat :=
  if sat || f.specials == .none then f.signed neg f.maxRaw
  else if f.specials == .e4m3 then f.canonical
  else match rm with
    | .rne | .rna => f.signed neg f.infRaw
    | .rtz => f.signed neg f.maxRaw
    | .rdn => f.signed neg (if neg then f.infRaw else f.maxRaw)
    | .rup => f.signed neg (if neg then f.maxRaw else f.infRaw)

/-- Rounds an exact value once to a format (R65), with the flags of R66; a NaN gives the canonical NaN and no flag,
an infinity the format's infinity or the table of R71. -/
def roundV (f : FFmt) (rm : RMode) (sat : Bool) : FVal → Nat × Flags
  | .nan _ => (f.canonical, 0)
  | .inf neg =>
    if f.specials == .ieee then (f.signed neg f.infRaw, 0)
    else (overflowRaw f .rne sat neg, Flags.of ||| Flags.nx)
  | .num neg m d e =>
    if m = 0 then (f.signed neg 0, 0)
    else
      let ex := log2Q m d + e
      let u := (if ex < f.emin then f.emin else ex) - (f.fbits : Int)
      let (n, k) := scaleQ m d (e - u)
      let (q, inexact) := roundInt rm neg n k
      let raw := (u - f.lsb).toNat * 2 ^ f.fbits + q
      let (n', k') := scaleQ m d (e - (ex - (f.fbits : Int)))
      let (q', _) := roundInt rm neg n' k'
      let tiny := ex < f.emin && !(q' == 2 ^ (f.fbits + 1) && ex + 1 == f.emin)
      if f.maxRaw < raw then (overflowRaw f rm sat neg, Flags.of ||| Flags.nx)
      else (f.signed neg raw, Flags.when (tiny && inexact) Flags.uf ||| Flags.when inexact Flags.nx)

/-- Whether a value is a NaN. -/
def FVal.isNan : FVal → Bool
  | .nan _ => true
  | _ => false

/-- Whether a value is a signalling NaN. -/
def FVal.isSig : FVal → Bool
  | .nan s => s
  | _ => false

/-- Whether a value is a zero. -/
def FVal.isZero : FVal → Bool
  | .num _ m _ _ => m == 0
  | _ => false

/-- Whether a value is an infinity. -/
def FVal.isInf : FVal → Bool
  | .inf _ => true
  | _ => false

/-- The sign of a value. -/
def FVal.neg : FVal → Bool
  | .nan _ => false
  | .inf n => n
  | .num n _ _ _ => n

/-- The value with its sign inverted when `c` holds. -/
def FVal.flip (c : Bool) : FVal → FVal
  | .nan s => .nan s
  | .inf n => .inf (n != c)
  | .num n m d e => .num (n != c) m d e

/-- The flag of reading NaNs: NV when one signals (R66). -/
def nanFlags (vs : List FVal) : Flags := Flags.when (vs.any FVal.isSig) Flags.nv

/-- The exact sum, with the sign of an exact zero by R64. -/
def exactAdd (rm : RMode) (a b : FVal) : FVal × Flags :=
  match a, b with
  | .inf x, .inf y => if x = y then (.inf x, 0) else (.nan false, Flags.nv)
  | .inf x, .num _ _ _ _ => (.inf x, 0)
  | .num _ _ _ _, .inf y => (.inf y, 0)
  | .num x m d e, .num y m' d' e' =>
    let lo := if e < e' then e else e'
    let p : Int := (m * d' * 2 ^ (e - lo).toNat : Nat)
    let q : Int := (m' * d * 2 ^ (e' - lo).toNat : Nat)
    let s := (if x then -p else p) + (if y then -q else q)
    if s = 0 then (.num (if x = y then x else rm == .rdn) 0 1 0, 0)
    else (.num (s < 0) s.natAbs (d * d') lo, 0)
  | _, _ => (.nan false, nanFlags [a, b])

/-- The exact product. -/
def exactMul (a b : FVal) : FVal × Flags :=
  match a, b with
  | .num x m d e, .num y m' d' e' => (.num (x != y) (m * m') (d * d') (e + e'), 0)
  | .inf x, .inf y => (.inf (x != y), 0)
  | .inf x, .num y m _ _ => if m = 0 then (.nan false, Flags.nv) else (.inf (x != y), 0)
  | .num x m _ _, .inf y => if m = 0 then (.nan false, Flags.nv) else (.inf (x != y), 0)
  | _, _ => (.nan false, nanFlags [a, b])

/-- ±(a × b) ± c exactly (R131). -/
def exactFma (rm : RMode) (negP negC : Bool) (a b c : FVal) : FVal × Flags :=
  if a.isSig || b.isSig || c.isSig then (.nan false, Flags.nv)
  else
    let (p, pf) := exactMul a b
    if p.isNan then (.nan false, pf)
    else exactAdd rm (p.flip negP) (c.flip negC)

/-- The exact quotient (R136). -/
def exactDiv (a b : FVal) : FVal × Flags :=
  match a, b with
  | .num x m d e, .num y m' d' e' =>
    if m' = 0 then (if m = 0 then (.nan false, Flags.nv) else (.inf (x != y), Flags.dz))
    else (.num (x != y) (m * d') (d * m') (e - e'), 0)
  | .inf _, .inf _ => (.nan false, Flags.nv)
  | .inf x, .num y _ _ _ => (.inf (x != y), 0)
  | .num x _ _ _, .inf y => (.num (x != y) 0 1 0, 0)
  | _, _ => (.nan false, nanFlags [a, b])

/-- One step of the bitwise integer square root: `r` so far, `fuel` bits to go. -/
def isqrtGo (n : Nat) : Nat → Nat → Nat
  | 0, r => r
  | k + 1, r => let t := r + 2 ^ k; isqrtGo n k (if t * t ≤ n then t else r)

/-- The integer square root. -/
def isqrt (n : Nat) : Nat := isqrtGo n (Nat.log2 n / 2 + 1) 0

/-- The square root as a rational that rounds as the exact root does: 70 bits and a sticky bit (R136). -/
def exactSqrt (a : FVal) : FVal × Flags :=
  match a with
  | .nan s => (.nan false, Flags.when s Flags.nv)
  | .inf true => (.nan false, Flags.nv)
  | .inf false => (.inf false, 0)
  | .num neg m d e =>
    if m = 0 then (.num neg 0 1 0, 0)
    else if neg then (.nan false, Flags.nv)
    else
      let odd := e % 2 != 0
      let n := (if odd then 2 * m else m) * 2 ^ 140 / d
      let h := (if odd then e - 1 else e) / 2
      let r := isqrt n
      (.num false (2 * r + (if r * r = n then 0 else 1)) 1 (h - 71), 0)

/-- The order of two numbers or infinities: less, equal or greater; none when either is a NaN. -/
def cmpV (a b : FVal) : Option Ordering :=
  match a, b with
  | .nan _, _ => none
  | _, .nan _ => none
  | .inf x, .inf y => some (if x = y then .eq else if x then .lt else .gt)
  | .inf x, _ => some (if x then .lt else .gt)
  | _, .inf y => some (if y then .gt else .lt)
  | .num x m d e, .num y m' d' e' =>
    let lo := if e < e' then e else e'
    let p : Int := (m * d' * 2 ^ (e - lo).toNat : Nat)
    let q : Int := (m' * d * 2 ^ (e' - lo).toNat : Nat)
    let a' := if x then -p else p
    let b' := if y then -q else q
    some (if a' < b' then .lt else if a' = b' then .eq else .gt)

/-- The integral value that a number rounds to under a mode, and whether it differs. -/
def integral (rm : RMode) (neg : Bool) (m d : Nat) (e : Int) : Int × Bool :=
  let (n, k) := scaleQ m d e
  let (q, ix) := roundInt rm neg n k
  ((if neg then -(q : Int) else (q : Int)), ix)

/-- Conversion of a floating value to an integer in [lo, hi] (R83). -/
def toInteger (rm : RMode) (lo hi : Int) : FVal → Int × Flags
  | .nan _ => (0, Flags.nv)
  | .inf neg => (if neg then lo else hi, Flags.nv)
  | .num neg m d e =>
    let (y, ix) := integral rm neg m d e
    if hi < y then (hi, Flags.nv) else if y < lo then (lo, Flags.nv) else (y, Flags.when ix Flags.nx)

/-- The exact value of an integer. -/
def FVal.ofInt (x : Int) : FVal := .num (x < 0) x.natAbs 1 0

/-- Rounds an exact result that carries flags of its own. -/
def roundR (f : FFmt) (rm : RMode) (r : FVal × Flags) : Nat × Flags :=
  let (n, fl) := roundV f rm false r.1
  (n, r.2 ||| fl)

/-- FAdd (R275): the exact sum, rounded under RNE, without flags. -/
def fAddBits (f : FFmt) (a b : Nat) : Nat := (roundR f .rne (exactAdd .rne (f.value a) (f.value b))).1

/-- RoundF32 under RNE of an exact value, as a value again (R73, R216). -/
def roundF32 (v : FVal) : FVal := FFmt.f32.value (roundV .f32 .rne false v).1

end Sys2Proof.Machine
end

