-- ==== Sys2Proof/Machine/SMap.lean ====
section
/-!
DEFINITION. Sparse maps from natural numbers, the one shape of every memory of the model: a list of
(key, value) pairs, keys strictly rising, no entry equal to what an unlisted key reads as.
-/
namespace Sys2Proof.Machine

/-- A sparse map. Its reading of an unlisted key is the `d` its operations are given. -/
abbrev SMap (α : Type) := List (Nat × α)

/-- What key `k` reads as; `d` when it is not listed. -/
def SMap.get {α : Type} (d : α) : SMap α → Nat → α
  | [], _ => d
  | (k', v) :: m, k => if k = k' then v else SMap.get d m k

/-- The map without any entry for `k`. -/
def SMap.erase {α : Type} : SMap α → Nat → SMap α
  | [], _ => []
  | (k', v) :: m, k => if k = k' then SMap.erase m k else (k', v) :: SMap.erase m k

/-- Puts an entry in front of the first greater key. -/
def SMap.insert {α : Type} : SMap α → Nat → α → SMap α
  | [], k, v => [(k, v)]
  | (k', v') :: m, k, v => if k < k' then (k, v) :: (k', v') :: m else (k', v') :: SMap.insert m k v

/-- Writes `v` at `k`, keeping the canonical form: writing `d` removes the entry. -/
def SMap.set {α : Type} [DecidableEq α] (d : α) (m : SMap α) (k : Nat) (v : α) : SMap α :=
  if v = d then m.erase k else (m.erase k).insert k v

/-- Every key is greater than `lo`, and the keys rise strictly. -/
def SMap.rising {α : Type} : Option Nat → SMap α → Bool
  | _, [] => true
  | none, (k, _) :: m => SMap.rising (some k) m
  | some lo, (k, _) :: m => decide (lo < k) && SMap.rising (some k) m

/-- The canonical form: keys strictly rising, no entry equal to what an unlisted key reads as. -/
def SMap.wf {α : Type} [DecidableEq α] (d : α) (m : SMap α) : Bool :=
  SMap.rising none m && m.all (fun e => decide (e.2 ≠ d))

/-- Keys whose entry satisfies `p`, in rising order. -/
def SMap.keysWhere {α : Type} (m : SMap α) (p : Nat → α → Bool) : List Nat :=
  (m.filter (fun e => p e.1 e.2)).map (·.1)

/-- Keeps the entries that satisfy `p`. -/
def SMap.keep {α : Type} (m : SMap α) (p : Nat → α → Bool) : SMap α :=
  m.filter (fun e => p e.1 e.2)

/-- The map with every listed entry's value changed, in canonical form. -/
def SMap.mapEntries {α : Type} [DecidableEq α] (d : α) : SMap α → (Nat → α → α) → SMap α
  | [], _ => []
  | (k, v) :: m, f =>
    let r := (SMap.mapEntries d m f).erase k
    if f k v = d then r else (k, f k v) :: r

/-- The map with every listed value changed, in canonical form. -/
def SMap.mapVals {α : Type} [DecidableEq α] (d : α) (m : SMap α) (f : α → α) : SMap α := m.mapEntries d fun _ v => f v

/-- A sorted list without repeats, by insertion (structural, so that it evaluates). -/
def insertNat : Nat → List Nat → List Nat
  | x, [] => [x]
  | x, y :: r => if x < y then x :: y :: r else if x = y then y :: r else y :: insertNat x r

/-- The distinct members of a list, ascending. -/
def sortNats (l : List Nat) : List Nat := l.foldr insertNat []

/-- Insertion into a list sorted by a strict order given as a Boolean function. -/
def insertBy {α : Type} (lt : α → α → Bool) : α → List α → List α
  | x, [] => [x]
  | x, y :: r => if lt x y then x :: y :: r else y :: insertBy lt x r

/-- Sorts by a strict order, keeping the order of equals. -/
def sortBy {α : Type} (lt : α → α → Bool) (l : List α) : List α :=
  l.foldl (fun acc x => insertBy lt x acc) []

end Sys2Proof.Machine
end

