-- ==== Sys2Proof/Machine/CoreState.lean ====
section
/-!
DEFINITION. The state of a core and of its resident teams, as plain data: registers, control store, traps,
regions, waits, caches (chapters 01, 08, 10, 12, 14).
-/
namespace Sys2Proof.Machine

/-- The trap causes (R384). -/
inductive Cause where
  | illegalInstruction | illegalOperand | privilege | hazard | latchExpired | misaligned | pageFault | protection
  | sealViolation | scratchBounds | accWindow | fpException | intDivide | checkFail | channelBroken
  | poisonConsumed | machineCheck | preempt | debug | software | timeout
deriving DecidableEq, Repr

/-- The code of a cause (R384). -/
def Cause.code : Cause → Nat
  | .illegalInstruction => 0 | .illegalOperand => 1 | .privilege => 2 | .hazard => 3 | .latchExpired => 4
  | .misaligned => 5 | .pageFault => 6 | .protection => 7 | .sealViolation => 8 | .scratchBounds => 9
  | .accWindow => 10 | .fpException => 11 | .intDivide => 12 | .checkFail => 13 | .channelBroken => 14
  | .poisonConsumed => 15 | .machineCheck => 16 | .preempt => 17 | .debug => 18 | .software => 19 | .timeout => 20

/-- A register value with its poison mark (R84, R88). -/
structure Marked where
  val : Word
  mark : Bool
deriving DecidableEq, Repr

/-- A cause raised by a word: TRAP_ADDR, and the lanes of TRAP_MASK for a lane word (R384, R385). -/
structure Raise where
  cause : Cause
  addr : Word
  lanes : Mask
deriving DecidableEq, Repr

/-- A trap waiting to be delivered (R388): its cause and, for a lane word, its split and word. `spc` names the
scalar word of a scalar trap; none where delivery takes the stream's next word. -/
structure Trap where
  what : Raise
  lane : Option (Nat × Word)
  spc : Option Word
deriving DecidableEq, Repr

/-- An operand latch entry that holds values (R307). Lanes that no hold has reached are outside `lanes`. -/
structure Latch where
  age : Nat
  vals : SMap Word
  lanes : Mask
  marks : Mask
deriving DecidableEq, Repr

/-- The state of the spin detector of a stream or split (R353): the branch, how often it was taken in a row,
and whether the stream is at low priority. -/
structure Spin where
  pc : Word
  count : Nat
  low : Bool
deriving DecidableEq, Repr

def Spin.init : Spin := ⟨0, 0, false⟩

/-- A ready entry of the split table (R308). `longs` marks the lane registers with an outstanding long result, and from 240 on the
predicates (R304); `handler`: the split belongs to a handler block (R386); `skipDebug`: R387's first issue after `s.eret`. -/
structure Split where
  mask : Mask
  lpc : Word
  join : Option Nat
  latches : List (Option Latch)
  longs : BitVec 256
  handler : Bool
  skipDebug : Bool
  spin : Spin
deriving DecidableEq, Repr

/-- A join record (R308). -/
structure Join where
  jaddr : Word
  members : Nat
  parked : Nat
  lanes : Mask
  outer : Option Nat
  longs : BitVec 256
  handler : Bool
deriving DecidableEq, Repr

/-- The part of a spilled split that the control store keeps (R308): the rest is in the spill area. -/
structure Spill where
  mask : Mask
  longs : BitVec 256
  handler : Bool
deriving DecidableEq, Repr

/-- A lane-queue entry (R301): address, uniform slots, copy of FPCTL; commands numbered below `after` precede its accesses (R170). -/
structure Block where
  addr : Word
  uniforms : List Marked
  fpctl : Word
  after : Nat
deriving DecidableEq, Repr

/-- The running block (R301, R302): its entry and the mask it started with. -/
structure Running where
  block : Block
  start : Mask
deriving DecidableEq, Repr

/-- The substitution block of `s.poisq.pol` (R429). -/
structure Subst where
  fb : Word
  bytes : Nat
  val : BitVec 32
  eplane : Word
deriving DecidableEq, Repr

/-- The team control store (R297, R427): what a control image saves. Predicates are p1 to p7 in order; `turn` is the split index from which
the lane stream takes the next ready split (R306). -/
structure Ctl where
  preds : List Mask
  predMarks : List Mask
  live : Mask
  splits : SMap (Option Split)
  joins : SMap (Option Join)
  spills : List Spill
  queue : List Block
  running : Option Running
  hqueue : List Block
  hrunning : Option Running
  turn : Nat
  policy : BitVec 3
  cpois : Bool
  subst : Option Subst
deriving DecidableEq, Repr

/-- The team's declaration and identity (R36, R296, R298, R370), fixed while it is resident but for `runtime`
and the place. `rank` is CLUSTER_RANK, `order` the rank o of R385 among the teams of the core; `saveBase`: SAVEBASE when the launch was placed (R371). -/
structure TeamId where
  index : Nat
  lanes : Nat
  sregs : Nat
  vregs : Nat
  trapres : Bool
  launch : Nat
  gen : Nat
  queue : Nat
  asid : Nat
  runtime : Bool
  cx : Nat
  cy : Nat
  rank : Nat
  order : Nat
  regwin : Nat
  strapvec : Word
  saveBase : Nat
  entry : Word
deriving DecidableEq, Repr

/-- The scalar-side registers that are not in the window's first 512 bytes (R297, R298). `slongs`, `klongs`: the registers and predicates
with an outstanding long result (R304). -/
structure TeamRegs where
  spc : Word
  k : BitVec 8
  kmark : BitVec 8
  fpctl : Word
  fpflags : Word
  slongs : BitVec 64
  klongs : BitVec 8
  accBase : Nat
  accLimit : Nat
  pstat : Word
  bkpt : List Word
deriving DecidableEq, Repr

/-- A control image's outer trap values (R388, R392). -/
structure TrapRegs where
  cause : Word
  spc : Word
  lpc : Word
  addr : Word
  mask : Mask
deriving DecidableEq, Repr

/-- An error log record (R436) with its fields unpacked; `words` in Ops.lean gives its 64 bytes. -/
structure LogRecord where
  time : Word
  seq : Nat
  unit : Nat
  det : Nat
  resp : Nat
  addr : Word
  place : Nat
  gen : Nat
  asid : Nat
  team : Nat
  rseq : Nat
  spc : Word
  tries : Nat
  cause : Nat
  data : Word
deriving DecidableEq, Repr

/-- The trap state of a team (R384 to R391): the TRAP registers, handler state, the split that trapped with its lanes, the
bytes of the frame copies written in handler state (R298), TRAP values of outer handlers, traps and records that wait,
a pending PREEMPT (its save record) and the record that the handler saves into. -/
structure TeamTrap where
  regs : TrapRegs
  handler : Bool
  split : Option Nat
  lanes : Mask
  frame : BitVec 512
  outer : List TrapRegs
  pending : List Trap
  mchecks : List (LogRecord × Bool)
  preempt : Option Nat
  record : Option Nat
  skipDebug : Bool
  yielded : Bool
deriving DecidableEq, Repr

/-- The lease register's parts (R347), in lines for a measured lease; `decayed`: when its present interval of R348 began. -/
structure Lease where
  overBit : Bool
  solo : Bool
  auto : Bool
  decl : Nat
  lines : Nat
  victims : List Nat
  hit : Bool
  raised : Bool
  decayed : Nat
deriving DecidableEq, Repr

/-- The states of a resident team (R350). -/
inductive TeamState where
  | ready | active | blocked | exited
deriving DecidableEq, Repr

/-- What a queue word asks for (R356 to R362). -/
inductive QueueKind where
  | push | pushNw | open_ | close | pop | poll
deriving DecidableEq, Repr

/-- A queue word: its kind, status register, predicate of a pop, handle, record area, and the OR of their marks. -/
structure QueueOp where
  kind : QueueKind
  d : Nat
  kd : Nat
  handle : Word
  area : Word
  mark : Bool
deriving DecidableEq, Repr

/-- What a scalar word that has issued once is waiting for; the word is tried again until it completes. -/
inductive Hold where
  /-- the lane queue has no free entry (R316) -/
  | lrun
  /-- `s.lwait` and the words that wait like it (R317) -/
  | lwait
  /-- `s.bar.sync` in a phase of a barrier, its arrival counted (R283) -/
  | barrier (b phase : Nat)
  /-- `s.awwait` (R244): status register, core and offset of the arrival word, the generation to pass -/
  | arrival (d core off gen : Nat)
  /-- a push or pop (R359, R361) -/
  | queue (op : QueueOp)
  /-- `s.cwait` (R460): status register, handle, GEN, the mark of its operand -/
  | collective (d handle gen : Nat) (mark : Bool)
  /-- the matrix command queue is full (R167) -/
  | matrixFull
  /-- the Yarrow queue is full (R183) -/
  | beamFull
  /-- the copy-engine queue is full (R246) -/
  | copyFull
  /-- a line that an engine writes, or a range record of a directory (R228) -/
  | line
  /-- the scalar divider is busy (R87) -/
  | divider
  /-- an offer of `s.regroup` stands: status register, tag, first register, count, mark of the status (R324) -/
  | regroup (d tag first count : Nat) (mark : Bool)
  /-- a commit, fence or release waits for earlier stores and long results (R269, R422) -/
  | drain
  /-- a record of a region that is not yet durable, or a snapshot (R421, R424) -/
  | record
deriving DecidableEq, Repr

/-- Scheduling state of a team (R350 to R354). `parked`: a word with W has issued (R303); `hold`: the scalar word at
SPC has issued and waits, `holdW` its switch marker. -/
structure TeamSched where
  state : TeamState
  since : Nat
  lastScalar : Nat
  lastLane : Nat
  parked : Bool
  yielding : Bool
  hold : Option Hold
  holdW : Bool
  holdSince : Nat
  holdUntil : Nat
  empties : Nat
  lowPoll : Bool
  spin : Spin
  started : Bool
deriving DecidableEq, Repr

/-- An outstanding long result (R304): the registers it will write, for a predicate its number, value and mark. `ready`: the agent that forms it has done so;
`lane`: issued by a lane word; `fill`: the data crossed a path check (R231). -/
structure LongRes where
  ticket : Nat
  sregs : List (Nat × Marked)
  ks : List (Nat × Bool × Bool)
  vregs : List (Nat × Nat × Marked)
  preds : List (Nat × Nat × Bool × Bool)
  ready : Bool
  lane : Bool
  fill : Bool
deriving DecidableEq, Repr

/-- A global store held in the L1 by an open region (R225): physical address, bytes, mark, and the virtual
address and width that substitution checks (R429). -/
structure Held where
  pa : Nat
  data : List Byte
  mark : Bool
  va : Word
  lane32 : Bool
deriving DecidableEq, Repr

/-- An undo-log entry (R420): the scratchpad address value of a sector of core `core`, its old bytes and mark. -/
structure Undo where
  core : Nat
  saddr : Nat
  off : Nat
  mark : Bool
  data : List Word
deriving DecidableEq, Repr

/-- A mirrored accumulator row (R180): row, dwords, marks of its 4-byte halves. -/
structure AccUndo where
  row : Nat
  data : List Word
  marks : List Bool
deriving DecidableEq, Repr

/-- A snapshot (R424): the window, the accumulator window and the control image of R392, latches included: lease, the bounds of the
accumulator window, outer trap values, and the sectors of the team's part of the trap reserve (sector, dwords, mark). -/
structure Snapshot where
  window : List Marked
  acc : List AccUndo
  ctl : Ctl
  trap : TrapRegs
  slongs : BitVec 64
  klongs : BitVec 8
  lease : Lease
  accBase : Nat
  accLimit : Nat
  outer : List TrapRegs
  reserve : List (Nat × List Word × Bool)
deriving DecidableEq, Repr

/-- The region record (R418), its marks of p1 to p7 lane by lane, the traps that waited when it was written, and the snapshot if it is one. -/
structure Record where
  rid : Word
  entry : Word
  smask : Word
  sregs : List Marked
  count : Nat
  first : Nat
  lanes : List Marked
  fpflags : Word
  fpctl : Word
  k : BitVec 8
  kmark : BitVec 8
  home : Nat
  live : Mask
  preds : List Mask
  predMarks : List Mask
  pending : List Trap
  snap : Option Snapshot
deriving DecidableEq, Repr

/-- The states of Speedwell for a team (R423); FATAL ends the team and needs no state. -/
inductive Recovery where
  | idle | halt | discard | restore | replay
deriving DecidableEq, Repr

/-- An open region (R417 to R420): attributes, record, what it holds back, and the recovery in progress.
`extra`: the extra snapshot attempt of R424 has been used, or no core has freed for a move; `overflow`: a word waits because the region buffer would overflow
(R225, R420, R424); `passes`: opened by an overflow, whose held word is let through as its first (R424); `causes`, `errors`, `check`: what the recovery answers: its records, the error reports among them, the failed check (R442);
`opened`: long results from this ticket on are the region's; `unreadable`: its record or logs have been lost (R414); `peer`: it has made a
peer access (R431). -/
structure Region where
  tag : Nat
  scope : Nat
  movable : Bool
  moves : Nat
  attempt : Nat
  valid : Bool
  noRecord : Bool
  conflict : Bool
  extra : Bool
  overflow : Bool
  passes : Bool
  held : List Held
  undo : List Undo
  accLog : List AccUndo
  record : Record
  recovery : Recovery
  causes : List LogRecord
  check : Option Trap
  errors : List ErrorReport
  moveSince : Nat
  opened : Nat
  unreadable : Bool
  peer : Bool
deriving DecidableEq, Repr

/-- A resident team. `rings`: the open rings, by header address value and producer bit (R358); `wdq`: requests of
`s.wdq` without an answer; `tally`: counts (queue, offset, number) to be added before the next marker ends (R366); `mismatch`: DUAL signatures differ (R431); `home`: the core that a moved region came from. -/
structure Team where
  id : TeamId
  regs : TeamRegs
  ctl : Ctl
  trap : TeamTrap
  lease : Lease
  sched : TeamSched
  seq : Nat
  region : Option Region
  pend : List LongRes
  rings : List (Nat × Nat)
  wdq : Nat
  tally : List (Nat × Nat × Nat)
  mismatch : Bool
  home : Option Nat
deriving DecidableEq, Repr

/-- A store on its way to its home (R239, R269): physical address, bytes, mark, the team, and whether it is of
64-bit device width. -/
structure Store where
  pa : Nat
  data : List Byte
  mark : Bool
  team : Nat
  lane32 : Bool
  va : Word
deriving DecidableEq, Repr

/-- A cached sector (R223, R226, R229): 32 bytes, mark, the generation and the cycle at which it was filled, and the team
that filled its line (L1 only). -/
structure Sector where
  data : List Byte
  mark : Bool
  gen : Nat
  filled : Nat
  team : Nat
deriving DecidableEq, Repr

/-- A TLB entry (R379): address space, level of the leaf, first virtual address, and the leaf's value and place. -/
structure TlbEntry where
  asid : Nat
  level : Nat
  base : Nat
  leaf : Word
  leafPa : Nat
deriving DecidableEq, Repr

/-- An upper-level entry that a walker holds (R379): the table that entries of `level` below `base` lie in. -/
structure UpperEntry where
  asid : Nat
  level : Nat
  base : Nat
  table : Nat
deriving DecidableEq, Repr

/-- A named barrier (R282): E, arrivals, phase. -/
structure Barrier where
  expected : Nat
  count : Nat
  phase : Nat
deriving DecidableEq, Repr

def Barrier.init : Barrier := ⟨0, 0, 0⟩

/-- The states of a core (R430). -/
inductive CoreStatus where
  | inService | quarantined | retired
deriving DecidableEq, Repr

/-- The partition of a core (R20): the launch that holds it, the areas, and when its setup began (R257). -/
structure Partition where
  launch : Nat
  clusters : Bool
  mode : Nat
  spBase : Nat
  spSize : Nat
  trapBase : Nat
  l1Base : Nat
  cx : Nat
  cy : Nat
  setup : Bool
  setupAt : Nat
deriving DecidableEq, Repr

/-- What wears out of a core (R430, R432, R433): its state, physical lane of each logical lane, lanes waiting to
retire, times of parity errors by physical lane, retired ways (set group, way), times of corrected errors by way, ways waiting to retire
with the lines they held, recovered errors, whether a marker has passed since a retirement became due, lost arbitrations. -/
structure CoreHealth where
  status : CoreStatus
  remap : List (Nat × Nat)
  spares : Nat
  retiring : List Nat
  pauseUntil : Nat
  parity : List (Nat × Nat)
  recovered : List Nat
  ways : List (Nat × Nat)
  wayErrors : List (Nat × Nat × Nat)
  waysPending : List WayPlace
  safePoint : Bool
  lost : Nat
deriving DecidableEq, Repr

end Sys2Proof.Machine
end

