-- ==== Sys2Proof/Machine/PackageState.lean ====
section
/-!
DEFINITION. The state outside the cores' teams, as plain data: engines (chapters 06, 07, 08, 15), the queue manager
and work distributor (chapter 11), dies, host attachment (chapter 13) and the pod fabric (chapter 15).
-/
namespace Sys2Proof.Machine

/-- A command of the matrix queue (R163, R167, R174 to R177). -/
inductive MatrixKind where
  /-- `s.mma`: A base, B base -/
  | mma (a b : Nat)
  /-- `s.mloop`: the 64 descriptor bytes as dwords -/
  | mloop (desc : List Word)
  /-- `s.aclr`: how many rows remain -/
  | aclr (rows : Nat)
deriving DecidableEq, Repr

/-- A queued matrix command: the team, the address of its word, its long result, the format block's dwords, the first physical row, and
its progress (STEPS, FLAGS, POISONED, RETRIED). -/
structure MatrixCmd where
  team : Nat
  pc : Word
  ticket : Nat
  kind : MatrixKind
  z : Bool
  fmt : List Word
  row : Nat
  steps : Nat
  flags : Flags
  poisoned : Bool
  retried : Bool
  waitSince : Nat
deriving DecidableEq, Repr

/-- A tile stream (R250 to R254): its descriptor's dwords, the next tile, the ASID and mode it translates under,
whether an error has struck the tile in hand (R414), and whether its first sector to enter scratchpad fails its path check twice (R231). -/
structure Stream where
  desc : List Word
  next : Nat
  asid : Nat
  runtime : Bool
  broken : Bool
  entry : Bool
deriving DecidableEq, Repr

/-- A copy command (R246 to R249): issuer and its launch, descriptor offset and dwords, whether it has started,
whether it has moved marked data, whether an error has struck it (R414), its ticket, and the source sectors that it has read (number, bytes,
mark): each is read once. `entry`: the next sector that enters scratchpad fails its path check twice (R231). -/
structure CopyCmd where
  ticket : Nat
  core : Nat
  team : Nat
  launch : Nat
  off : Nat
  desc : List Word
  asid : Nat
  runtime : Bool
  handler : Bool
  started : Bool
  marked : Bool
  broken : Bool
  taken : List (Nat × List Byte × Bool)
  entry : Bool
deriving DecidableEq, Repr

/-- A range that an engine has registered (R228): pieces of physical memory (first byte, length), and the lines of
it already released. -/
structure EngRange where
  ticket : Nat
  pieces : List (Nat × Nat)
  released : List Nat
deriving DecidableEq, Repr

/-- A beam: first column, first row, log2 of its side (R196). -/
structure Beam where
  i : Nat
  j : Nat
  logs : Nat
deriving DecidableEq, Repr

/-- An item of Yarrow's stack (R197). -/
inductive BeamItem where
  | visit (node : Nat) (b : Beam)
  | split (node child : Nat) (b : Beam)
deriving DecidableEq, Repr

/-- A ray of a query: direction bits, whether it is live, its key (R193), bits [122:64] and bits [127:123] of its result. -/
structure Ray where
  i : Nat
  j : Nat
  dir : List Nat
  live : Bool
  key : Nat
  hit : Nat
  flags : Nat
deriving DecidableEq, Repr

/-- What an item that is being processed still adds, in the order of its children or quadrants: an item, or a candidate (R197),
with its rank in pop order. -/
inductive BeamTodo where
  | add (rank : Nat) (x : BeamItem)
  | cand (rank ref : Nat) (b : Beam)
deriving DecidableEq, Repr

/-- Where a running query stands (R197, R198, R202). -/
inductive BeamPhase where
  | traverse
  /-- a split record has been posted and awaits its answer: its rank, node reference and beam, what the item still adds, and what it
  has added so far -/
  | answer (rank ref : Nat) (b : Beam) (rest : List BeamTodo) (added : List (Nat × BeamItem))
  /-- hit records are being posted, the n-th ray next -/
  | records (n : Nat)
deriving DecidableEq, Repr

/-- An entry of a Yarrow queue (R183): `s.beam` with its descriptor dwords, or `v.trace` with its register and the result and mark of each lane,
whose reads were made when the word issued (R211). -/
inductive BeamJob where
  | beam (off : Nat) (desc : List Word)
  | trace (reg : Nat) (lanes : List (Nat × Nat × Bool))
deriving DecidableEq, Repr

/-- An access of the device that may have to wait for an engine's line (R228): die, address space, mode, virtual address; `add`: the number
added to the word of as many bytes as `data` has, else `data` is written with its mark. -/
structure DeviceOp where
  die : Nat
  asid : Nat
  runtime : Bool
  va : Nat
  add : Option Nat
  data : List Byte
  mark : Bool
deriving DecidableEq, Repr

/-- An accepted query. -/
structure BeamCmd where
  core : Nat
  team : Nat
  ticket : Nat
  asid : Nat
  runtime : Bool
  launch : Nat
  job : BeamJob
deriving DecidableEq, Repr

/-- The query that an engine runs (R197 to R203); `tally`: records posted, for the statistics blocks of their queues;
`refused`: when a queue last refused its hit record (R202). -/
structure BeamRun where
  cmd : BeamCmd
  phase : BeamPhase
  stack : List BeamItem
  rays : List Ray
  visits : Nat
  splits : Nat
  culled : Nat
  posts : Nat
  poisoned : Bool
  fault : Option Word
  resultFault : Bool
  engineError : Bool
  tally : List (Nat × Nat × Nat)
  refused : Option Nat
deriving DecidableEq, Repr

/-- The engines of a cluster: copy queue, Yarrow queue and its running query, split-record pool in use, and the
sealed node lines the node cache holds (R184). -/
structure Cluster where
  copies : List CopyCmd
  beams : List BeamCmd
  run : Option BeamRun
  pool : Nat
  nodes : SMap Sector
deriving DecidableEq, Repr

def Cluster.init : Cluster := ⟨[], [], none, 0, []⟩

/-- A collective that a Campion slot holds (R452, R457): its issuer's launch and TEAM_INDEX, the contributors C, and the code that
ended it (R460). `orphan`: the issuer has ended; `order`: its ticket, in order of acceptance. -/
structure Collective where
  gen : Nat
  members : Nat
  asid : Nat
  desc : List Word
  launch : Nat
  team : Nat
  runtime : Bool
  contributors : Nat
  restarts : Nat
  poisoned : Bool
  code : Option Nat
  orphan : Bool
  order : Nat
deriving DecidableEq, Repr

/-- A launch that is placed or being placed (R335 to R343). `cores` maps launch-relative cy × 32 + cx to the
physical core; `counters` holds NEXT, LIMIT and STEP; `map` the placement map; `peers` the pod slots of its replicas; `ready` those that
have reported; `scope` the queue's SCOPE; `ctx`: the entry of its address space when it was placed (R371); `requests` those of `s.wdq`; `shadow` the second rectangle of DUAL (R431). -/
structure Launch where
  gen : Nat
  queue : Nat
  asid : Nat
  desc : List Word
  x0 : Nat
  y0 : Nat
  map : List Nat
  cores : SMap Nat
  counters : List (Nat × Nat × Nat)
  live : Nat
  started : Bool
  pkgIndex : Nat
  pkgCount : Nat
  home : Nat
  peers : List Nat
  ready : List Nat
  graph : Nat
  scope : Nat
  ctx : List Word
  requests : List (Nat × Nat × Nat × Nat × Nat)
  shadow : Option (Nat × Nat)
deriving DecidableEq, Repr

/-- A launch taken for placement and not yet placed (R337, R338, R342): its place is fixed or not, and with it the shadow's of mode DUAL
(R431). `prio`, `asid`, `scope`: of the issuing queue (R341); `producer`: the core that published the launch, if one of the package did (R292). -/
structure Offer where
  queue : Nat
  prio : Nat
  asid : Nat
  scope : Nat
  desc : List Word
  gen : Option Nat
  place : Option (Nat × Nat)
  shadow : Option (Nat × Nat)
  producer : Option Nat
  map : List Nat
  counters : List (Nat × Nat × Nat)
  pkgIndex : Nat
  pkgCount : Nat
  home : Nat
  peers : List Nat
  ready : List Nat
deriving DecidableEq, Repr

/-- What the queue manager keeps of a queue beside its descriptor (R330 to R333). `seen`: the values of TAIL it has seen, with the cycle
of each, those at or behind HEAD left out; `producers`: the entries that cores of the package have published and no consumer has taken:
number and physical core (R292). -/
structure QueueInt where
  slot : Option Nat
  waitSince : Option Nat
  mapSince : Nat
  emptyBefore : Bool
  offer : Option Offer
  closed : Bool
  instance_ : Option Nat
  seen : List (Nat × Nat)
  producers : List (Nat × Nat)
deriving DecidableEq, Repr

def QueueInt.init : QueueInt := ⟨none, none, 0, false, none, false, none, [], []⟩

/-- The termination token of a work graph (R364): where it is, its colour; a core's own colour is in `black`. -/
structure Graph where
  at_ : Nat
  white : Bool
  running : Bool
  black : List Nat
deriving DecidableEq, Repr

/-- A pre-emption request (R391): requester, GEN, QUEUE, GROUP, and its groups still to save; with none left it is done. -/
structure Preq where
  core : Nat
  team : Nat
  value : Word
  groups : List Nat
deriving DecidableEq, Repr

/-- A saved core of a group (R392): partition, its leader's save record if it has one, scratchpad, barriers, streams. -/
structure SavedCore where
  cx : Nat
  cy : Nat
  part : Partition
  leader : Option Nat
  scratch : SMap Word
  marks : SMap Bool
  barriers : SMap Barrier
  streams : SMap (Option Stream)
deriving DecidableEq, Repr

/-- A control image as the save record holds it (R392): its header, and the state whose layout is not program-visible. `nested`:
the PREEMPT met the team in handler state (R388). -/
structure Image where
  header : List Byte
  ctl : Ctl
  lease : Lease
  window : Nat
  pending : List Trap
  outer : List TrapRegs
  lanes : Nat
  seq : Nat
  rings : List (Nat × Nat)
  wdq : Nat
  regs : TeamRegs
  spc : Word
  trap : TrapRegs
  split : Option Nat
  splitLanes : Mask
  frame : BitVec 512
  nested : Bool
deriving DecidableEq, Repr

/-- A team of a saved group: identity, image, save record. -/
structure SavedTeam where
  id : TeamId
  image : Image
  record : Nat
deriving DecidableEq, Repr

/-- A saved pre-emption group waiting to be resumed (R393). -/
structure SavedGroup where
  launch : Nat
  clusters : Bool
  cores : List SavedCore
  teams : List SavedTeam
deriving DecidableEq, Repr

/-- A hotness counter (R381): h, last requester's die, MIXED and the dies of the epoch, the leaf entry, SHARED. -/
structure Hot where
  h : Nat
  last : Nat
  mixed : Bool
  dies : List Nat
  leaf : Nat
  asid : Nat
  va : Nat
  shared : Bool
deriving DecidableEq, Repr

/-- A replica of a sealed page (R382, R383): frame, target die, its new frame. -/
structure Replica where
  page : Nat
  die : Nat
  frame : Nat
deriving DecidableEq, Repr

/-- The state of a die: RDC and its generation, the lines its L2 holds (some true: dirty), TLB and walker entries, registered ranges, error log, free list,
migration control, hotness, retired ways and rows. -/
structure Die where
  rdc : SMap (Option Sector)
  rdcGen : Nat
  l2 : SMap (Option Bool)
  tlb : List TlbEntry
  upper : List UpperEntry
  ring : SMap (Option LogRecord)
  seq : Nat
  free : List Nat
  freeErr : Bool
  migctl : Word
  hot : SMap (Option Hot)
  replicas : List Replica
  ways : List (Nat × Nat)
  wayErrors : List (Nat × Nat × Nat × Nat)
  rows : SMap Nat
  rowErrors : List (Nat × Nat)
deriving DecidableEq, Repr

def Die.init : Die :=
  ⟨[], 0, [], [], [], [], 0, [], false, 0x10040, [], [], [], [], [], []⟩

/-- The SPDM responses of R413. -/
inductive SpdmKind where
  | version | capabilities | algorithms | digests | certificate | challengeAuth | measurements
  /-- ERROR: the request is not supported, came out of its order, or names an empty slot or block -/
  | unsupported | unexpected | invalid
deriving DecidableEq, Repr

/-- Messages that the package sends: mailbox responses and events on a port, SPDM responses, messages to peers. -/
inductive Message where
  /-- a mailbox response: port, tag, code, sectors with mark and check code -/
  | response (port : Nat) (tag : Byte) (code : Nat) (sectors : List (List Byte × Bool × BitVec 16))
  /-- an event message: port, code, error log record bytes if any (R398, R437) -/
  | event (port code : Nat) (record : List Byte)
  /-- an SPDM response: port, kind, payload (R413) -/
  | spdm (port : Nat) (kind : SpdmKind) (payload : List Byte)
  /-- what a read of a management register returned to its reader (R402, R405) -/
  | value (agent : Agent) (v : Word)
  /-- a heartbeat on a station to a slot (R450) -/
  | heartbeat (station slot : Nat)
  /-- a replay request for a flit number (R448) -/
  | replay (station number : Nat)
  /-- an answer to a request of another package (R447): slot, data with marks and check codes; none for a write -/
  | answer (slot : Nat) (data : List (List Byte × Bool × BitVec 16))
  /-- a replicated launch's descriptor, to a slot (R341) -/
  | replica (slot : Nat) (m : ReplicaMsg)
  /-- READY, START and ABORT of a replicated launch (R343): slot, kind 1 to 3, GEN, index -/
  | launch (slot kind gen index : Nat)
  /-- EXCLUDE of a collective (R457): to slot, excluded slot, GEN -/
  | exclude (slot out gen : Nat)
  /-- pod membership at stage 6 (R450) -/
  | member (slot : Nat)
  /-- a migration's or `s.tlbi`'s invalidation for another package (R380, R383) -/
  | invalidate (slot : Nat)
deriving DecidableEq, Repr

/-- An UALink station (R447, R448): down, the numbers of the next flit to send and to expect, times of failed retrains, the replay buffer of the
last 512 flits by number, and the flit last replayed with how often it has been replayed without success. -/
structure Station where
  down : Bool
  sent : Nat
  expected : Nat
  retrains : List Nat
  buffer : List (Nat × Message)
  replayed : Nat × Nat
deriving DecidableEq, Repr

def Station.init : Station := ⟨true, 0, 0, [], [], 0, 0⟩

/-- A host port (R398): lost, how far its SPDM connection has come: 1 version, 2 capabilities, 3 algorithms (R413), since when its link has been
down, and the mailbox requests that wait, oldest first (R401). -/
structure Port where
  lost : Bool
  spdm : Nat
  downSince : Option Nat
  waiting : List MailReq
deriving DecidableEq, Repr

def Port.init : Port := ⟨false, 0, none, []⟩

/-- Bring-up, identity and management registers (R407 to R411, R450). `stage` is the number of stages of R408 that are
complete, 0 to 8; `stopped`: stage 1 found no firmware; `image`: the accepted image and its slot, 0 for A and 1 for B; `minimum`: the fused
minimum of the security version (DESIGN CHOICE 0 in State.reset, log entry 114). -/
structure Boot where
  powered : Bool
  stage : Nat
  stopped : Bool
  slotDup : Bool
  fwFail : Bool
  semLost : Bool
  pwrAlert : Bool
  podSlot : Nat
  ctxBase : Nat
  qtBase : Nat
  sems : List Nat
  podLive : BitVec 64
  hbto : Nat
  heard : SMap Nat
  linkDown : SMap (Option Nat)
  tripped : Bool
  image : Option (Nat × BootImage)
  minimum : Nat
deriving DecidableEq, Repr

/-- The power manager (R409, R410): CAP, samples (the latest first), stretch, when 96 and over CAP began; the
sensors' readings and when each first read 120 °C. -/
structure Power where
  cap : Nat
  samples : List Nat
  stretch : Nat
  highSince : Option Nat
  temps : SMap (Option (BitVec 16))
  hotSince : SMap (Option Nat)
  therm : Bool
deriving DecidableEq, Repr

/-- A core (R19): core store as dwords by offset / 8, marks of 8-byte window units and of sectors, accumulator memory
as dwords with marks of its 4-byte halves, partition, caches (`icache` of the scalar stream, `lcache` of the lane stream), teams by
TEAM_INDEX, engines' state. -/
structure Core where
  store : SMap Word
  unitMarks : SMap Bool
  sectorMarks : SMap Bool
  acc : SMap Word
  accMarks : SMap Bool
  part : Option Partition
  teams : SMap (Option Team)
  barriers : SMap Barrier
  matrix : List MatrixCmd
  matrixTurn : Nat
  streams : SMap (Option Stream)
  divider : Option (Nat × Nat × Nat)
  inflight : List Store
  l1 : SMap (Option Sector)
  l1Gen : Nat
  icache : SMap (Option (BitVec 32))
  lcache : SMap (Option (BitVec 32))
  tlb : List TlbEntry
  lastScalar : Nat
  lastLane : Nat
  admitHold : Option Nat
  health : CoreHealth
deriving DecidableEq, Repr

/-- A fresh lane remap table, spares and counters (R432, R433). -/
def CoreHealth.init : CoreHealth := ⟨.inService, [], 0, [], 0, [], [], [], [], [], false, 0⟩

def Core.init : Core :=
  ⟨[], [], [], [], [], none, [], [], [], 0, [], none, [], [], 0, [], [], [], 0, 0, none, CoreHealth.init⟩

end Sys2Proof.Machine
end

