-- ==== Sys2Proof/Machine/State.lean ====
section
/-!
DEFINITION. The machine state: one package (R14) as plain data, the reasons a step can stop, and the state right
after reset (R408).
-/
namespace Sys2Proof.Machine

/-- What happens next, where the manual leaves it to timing, to other agents or to the outside: the head of
State.agenda (DESIGN CHOICE, log entry 1). -/
inductive Act where
  /-- an event of the opcode table -/
  | event (i : Instr)
  /-- the scalar pipeline of a core issues a word of a team (R352) -/
  | scalar (core team : Nat)
  /-- the lane pipeline of a core issues a word of a split (R306, R352) -/
  | lane (core team split : Nat)
  /-- words issued in one cycle: of the scalar stream, if so said, and of splits in ascending order (R388) -/
  | same (core team : Nat) (scalar : Bool) (splits : List Nat)
  /-- another package writes memory of its own, with or without the poison mark -/
  | peerWrite (pa : Nat) (data : List Byte) (mark : Bool)
  /-- other agents will write these values to page table entries, each between a walker's read and its compare-and-swap (R377) -/
  | walkRace (values : List Word)
  /-- that many cycles pass -/
  | elapse (n : Nat)
  /-- a cached sector, translation or code parcel is replaced (R223, R226, R257, R379) -/
  | evictL1 (core sector : Nat)
  | evictRdc (die sector : Nat)
  | evictL2 (die line : Nat)
  | evictTlb (core index : Nat)
  | evictDieTlb (die index : Nat)
  | evictUpper (die index : Nat)
  | evictCode (core parcel : Nat)
  | evictLaneCode (core parcel : Nat)
  | evictNode (cluster sector : Nat)
  /-- the link of a host port goes down or comes up (R398) -/
  | portLink (port : Nat) (up : Bool)
deriving DecidableEq, Repr

/-- The stream that issues the word being executed: core, TEAM_INDEX, and the split for a lane word. -/
structure Focus where
  core : Nat
  team : Nat
  split : Option Nat
deriving DecidableEq, Repr

/-- Memory and what protects it: bytes by physical address (unlisted reads 0 after stage 3 of R408), poison marks
by sector, sealed ranges (base, size), engine ranges, and the 64 KiB frames of compressed pages (R233). -/
structure Memory where
  bytes : SMap Byte
  marks : SMap Bool
  seals : List (Nat × Nat)
  ranges : List EngRange
  cmp : SMap Bool
deriving DecidableEq, Repr

/-- The roots of the address spaces in use (R371), queue manager and work distributor (chapter 11), pre-emption (R391 to R394) and
collectives (R452). `kills`: kill requests that wait for a recovery to end (R423); `incoming`: descriptors of replicated launches that wait to be
read on (R341). `excluded`: slots that EXCLUDE has named with a GEN for which no collective is held yet (R457). `races`: what other agents will write between a
walker's read of a leaf and its compare-and-swap (R377). `timers`: periods of a periodic event that have been served, by kind and unit; `deferred`: accesses of the device that
wait for an engine's line (R228). -/
structure Sched where
  roots : SMap (Option Nat)
  queues : SMap QueueInt
  launches : SMap (Option Launch)
  nextLaunch : Nat
  launchCount : Nat
  podGen : Nat
  replicas : List Offer
  graphs : SMap (Option Graph)
  preqs : List Preq
  saved : List SavedGroup
  images : SMap (Option Image)
  records : List (Nat × Nat)
  collectives : SMap (Option Collective)
  excluded : List (Nat × Nat)
  kills : List Word
  incoming : List ReplicaMsg
  races : List Word
  timers : SMap Nat
  deferred : List DeviceOp
deriving DecidableEq, Repr

/-- The state of the package. Field `cycles` is CYCLES (R300); `ticket` numbers long results and engine commands;
`free` counts the free values used (DESIGN CHOICE, log entry 3); `gather` holds while words of one cycle issue (R388); `agenda` is log entry 1. -/
structure State where
  cycles : Nat
  mem : Memory
  cores : SMap Core
  clusters : SMap Cluster
  dies : SMap Die
  stations : SMap Station
  ports : List Port
  boot : Boot
  power : Power
  sched : Sched
  out : List Message
  ticket : Nat
  free : Nat
  focus : Option Focus
  gather : Bool
  agenda : List Act
deriving DecidableEq, Repr

/-- Why the machine stops. -/
inductive Fault where
  /-- raised by the meaning of a word when no resident team is in focus to issue it: no such execution exists
  (R350), so stopping is safe -/
  | noIssuer
deriving DecidableEq, Repr

/-- Why an instruction has no meaning. -/
inductive Refusal where
  /-- raised by Dispatch for an instruction that is not modelled yet; safe, the machine does not go on -/
  | notModelled (mnemonic : String)
deriving DecidableEq, Repr

/-- Bring-up and management registers at reset (R402, R407, R409, R450): before stage 0. -/
def Boot.reset : Boot :=
  { powered := false, stage := 0, stopped := false, slotDup := false, fwFail := false, semLost := false,
    pwrAlert := false, podSlot := 0, ctxBase := 0, qtBase := 0, sems := List.replicate 16 0, podLive := 0, hbto := 200,
    heard := [], linkDown := [], tripped := false, image := none, minimum := 0 }

/-- The power manager at reset (R409, R410). -/
def Power.reset : Power :=
  { cap := 2600, samples := [], stretch := 0, highSince := none, temps := [], hotSince := [], therm := false }

def Memory.reset : Memory := ⟨[], [], [], [], []⟩

def Sched.reset : Sched :=
  { roots := [], queues := [], launches := [], nextLaunch := 0, launchCount := 0, podGen := 0, replicas := [], graphs := [],
    preqs := [], saved := [], images := [], records := [], collectives := [], excluded := [], kills := [], incoming := [], races := [], timers := [], deferred := [] }

/-- The machine right after reset: no team, every memory zero, no bring-up stage complete (R408). -/
def State.reset : State :=
  { cycles := 0, mem := Memory.reset, cores := [], clusters := [], dies := [], stations := [],
    ports := [Port.init, Port.init], boot := Boot.reset, power := Power.reset, sched := Sched.reset,
    out := [], ticket := 0, free := 0, focus := none, gather := false, agenda := [] }

end Sys2Proof.Machine
end

