-- ==== Sys2Proof/Machine/Access.lean ====
section
/-!
DEFINITION. Reading and writing the state's parts: places (R15 to R17), cores and teams, the core store with its marks
(R20 to R22, R222), the scalar and lane registers in it (R298, R299), predicates, accumulator memory.
-/
namespace Sys2Proof.Machine

/-! ### Places (R15, R16, R17) -/

/-- A core by its physical column and row. -/
def coreAt (x y : Nat) : Nat := y * 32 + x
def coreX (c : Nat) : Nat := c % 32
def coreY (c : Nat) : Nat := c / 32
/-- The die of a core (R15). -/
def dieOf (c : Nat) : Nat := 2 * (coreY c / 8) + coreX c / 16
/-- The physical cluster index (R16). -/
def clusterOf (c : Nat) : Nat := 8 * (coreY c / 2) + coreX c / 4
/-- The rank within a cluster of a position (R16). -/
def rankOf (x y : Nat) : Nat := 4 * (y % 2) + x % 4
/-- PHYS_CORE (R17). -/
def physCore (s : State) (c : Nat) : Nat := s.boot.podSlot * 2 ^ 9 + coreY c * 2 ^ 5 + coreX c
/-- The eight cores of a physical cluster, in rank order. -/
def coresOfCluster (k : Nat) : List Nat :=
  (List.range 8).map fun r => coreAt (4 * (k % 8) + r % 4) (2 * (k / 8) + r / 4)
/-- The cores of a die. -/
def coresOfDie (d : Nat) : List Nat :=
  (List.range 128).map fun i => coreAt (16 * (d % 2) + i % 16) (8 * (d / 2) + i / 16)

/-! ### The parts of the state -/

namespace State
def core (s : State) (c : Nat) : Core := s.cores.get Core.init c
def setCore (s : State) (c : Nat) (k : Core) : State := { s with cores := s.cores.set Core.init c k }
def modCore (s : State) (c : Nat) (f : Core → Core) : State := s.setCore c (f (s.core c))
def cluster (s : State) (k : Nat) : Cluster := s.clusters.get Cluster.init k
def setCluster (s : State) (k : Nat) (v : Cluster) : State := { s with clusters := s.clusters.set Cluster.init k v }
def modCluster (s : State) (k : Nat) (f : Cluster → Cluster) : State := s.setCluster k (f (s.cluster k))
def die (s : State) (d : Nat) : Die := s.dies.get Die.init d
def setDie (s : State) (d : Nat) (v : Die) : State := { s with dies := s.dies.set Die.init d v }
def modDie (s : State) (d : Nat) (f : Die → Die) : State := s.setDie d (f (s.die d))
def queue (s : State) (q : Nat) : QueueInt := s.sched.queues.get QueueInt.init q
def setQueue (s : State) (q : Nat) (v : QueueInt) : State :=
  { s with sched := { s.sched with queues := s.sched.queues.set QueueInt.init q v } }
def launch (s : State) (l : Nat) : Option Launch := s.sched.launches.get none l
def setLaunch (s : State) (l : Nat) (v : Option Launch) : State :=
  { s with sched := { s.sched with launches := s.sched.launches.set none l v } }
/-- A team, by core and TEAM_INDEX. -/
def team (s : State) (c t : Nat) : Option Team := (s.core c).teams.get none t
def setTeam (s : State) (c t : Nat) (v : Option Team) : State :=
  s.modCore c fun k => { k with teams := k.teams.set none t v }
def modTeam (s : State) (c t : Nat) (f : Team → Team) : State :=
  match s.team c t with
  | some m => s.setTeam c t (some (f m))
  | none => s
/-- A fresh number for a long result or an engine command. -/
def fresh (s : State) : Nat × State := (s.ticket, { s with ticket := s.ticket + 1 })
/-- A value that the manual leaves open (DESIGN CHOICE, log entry 3). -/
def freeWord (s : State) : Word × State := (Config.freeWord s.free, { s with free := s.free + 1 })
/-- Sends a message out of the package. -/
def send (s : State) (m : Message) : State := { s with out := s.out ++ [m] }
def station (s : State) (n : Nat) : Station := s.stations.get Station.init n
def modStation (s : State) (n : Nat) (f : Station → Station) : State :=
  { s with stations := s.stations.set Station.init n (f (s.station n)) }
/-- The stations that are up (R447). -/
def liveStations (s : State) : List Nat := (List.range 12).filter fun n => !(s.station n).down
/-- Sends a message to another package on a station: it takes the station's next number and a place among the last 512 flits (R448). -/
def sendOn (s : State) (n : Nat) (m : Message) : State :=
  (s.modStation n fun x => { x with
    sent := x.sent + 1, buffer := (x.buffer ++ [(x.sent, m)]).drop (x.buffer.length + 1 - 512) }).send m
/-- Sends a message to another package; which live station it leaves on affects timing only (R447). -/
def sendPeer (s : State) (m : Message) : State :=
  match s.liveStations with
  | [] => s.send m
  | n :: _ => s.sendOn n m
def modMem (s : State) (f : Memory → Memory) : State := { s with mem := f s.mem }
def modBoot (s : State) (f : Boot → Boot) : State := { s with boot := f s.boot }
def modSched (s : State) (f : Sched → Sched) : State := { s with sched := f s.sched }
end State

/-- The resident teams of a core, ascending TEAM_INDEX. -/
def Core.residents (k : Core) : List (Nat × Team) := k.teams.filterMap fun e => e.2.map fun t => (e.1, t)

/-- Changes a team of a core. -/
def Core.modTeam (k : Core) (t : Nat) (f : Team → Team) : Core :=
  match k.teams.get none t with
  | some m => { k with teams := k.teams.set none t (some (f m)) }
  | none => k

namespace Team
def modRegs (t : Team) (f : TeamRegs → TeamRegs) : Team := { t with regs := f t.regs }
def modCtl (t : Team) (f : Ctl → Ctl) : Team := { t with ctl := f t.ctl }
def modTrap (t : Team) (f : TeamTrap → TeamTrap) : Team := { t with trap := f t.trap }
def modSched (t : Team) (f : TeamSched → TeamSched) : Team := { t with sched := f t.sched }
end Team

/-! ### The core store (R20, R21, R222) -/

/-- The offset of the end of the register windows: marks below it have 8-byte grain (R222). -/
def Core.windowEnd (k : Core) : Nat := (k.part.map (·.spBase)).getD 0

/-- The mark that covers an 8-byte unit (R222). -/
def Core.markOf (k : Core) (unit : Nat) : Bool :=
  if unit * 8 < k.windowEnd then k.unitMarks.get false unit else k.sectorMarks.get false (unit / 4)

/-- An aligned dword with its mark. -/
def Core.dword (k : Core) (unit : Nat) : Marked := ⟨k.store.get 0 unit, k.markOf unit⟩

/-- Writes a whole register slot: value and mark (R222: a register result covers its piece). -/
def Core.setUnit (k : Core) (unit : Nat) (v : Marked) : Core :=
  { k with store := k.store.set 0 unit v.val, unitMarks := k.unitMarks.set false unit v.mark }

/-- The byte of the core store at an offset. -/
def Core.byte (k : Core) (off : Nat) : Byte := BitVec.ofNat 8 ((k.store.get 0 (off / 8)).toNat / 2 ^ (8 * (off % 8)))

/-- Replaces one byte of a dword. -/
def putByte (w : Word) (i : Nat) (b : Byte) : Word :=
  let lo := w.toNat % 2 ^ (8 * i)
  let hi := w.toNat / 2 ^ (8 * (i + 1)) * 2 ^ (8 * (i + 1))
  BitVec.ofNat 64 (hi + b.toNat * 2 ^ (8 * i) + lo)

/-- Writes one byte of the core store, leaving the marks. -/
def Core.setByte (k : Core) (off : Nat) (b : Byte) : Core :=
  { k with store := k.store.set 0 (off / 8) (putByte (k.store.get 0 (off / 8)) (off % 8) b) }

/-- The bytes at an offset, and the OR of the marks of the pieces touched (R222). -/
def Core.read (k : Core) (off n : Nat) : List Byte × Bool :=
  ((List.range n).map fun i => k.byte (off + i),
   (List.range ((off + n + 7) / 8 - off / 8)).any fun i => k.markOf (off / 8 + i))

/-- Writes bytes, leaving the marks. -/
def Core.putBytes (k : Core) (off : Nat) : List Byte → Core
  | [] => k
  | b :: r => (k.setByte off b).putBytes (off + 1) r

/-- The marks after a write of n > 0 bytes at off (R222): a marked value marks every piece it touches; unmarked data
clears the pieces it covers whole. -/
def Core.markWrite (k : Core) (off n : Nat) (mark : Bool) : Core :=
  if off < k.windowEnd then
    { k with unitMarks := (List.range ((off + n + 7) / 8 - off / 8)).foldl (fun m i =>
        let u := off / 8 + i
        if mark then m.set false u true
        else if off ≤ u * 8 ∧ u * 8 + 8 ≤ off + n then m.set false u false else m) k.unitMarks }
  else
    { k with sectorMarks := (List.range ((off + n + 31) / 32 - off / 32)).foldl (fun m i =>
        let u := off / 32 + i
        if mark then m.set false u true
        else if off ≤ u * 32 ∧ u * 32 + 32 ≤ off + n then m.set false u false else m) k.sectorMarks }

/-- A write to the core store with its mark. -/
def Core.write (k : Core) (off : Nat) (bs : List Byte) (mark : Bool) : Core :=
  if bs.isEmpty then k else (k.putBytes off bs).markWrite off bs.length mark


/-- The value of little-endian bytes (R6). -/
def bytesN : List Byte → Nat
  | [] => 0
  | b :: r => b.toNat + 256 * bytesN r

/-- A little-endian number read from the core store (R6). -/
def Core.readN (k : Core) (off n : Nat) : Nat := bytesN (k.read off n).1

/-- The low k bytes of a number, least significant first (R6). -/
def natBytes : Nat → Nat → List Byte
  | 0, _ => []
  | k + 1, n => BitVec.ofNat 8 n :: natBytes k (n / 256)

/-- The dwords of a list of bytes. -/
def dwordsOf (bs : List Byte) : List Word :=
  (List.range (bs.length / 8)).map fun i => wordN (bytesN ((bs.drop (8 * i)).take 8))

/-- The bytes of a list of dwords. -/
def bytesOfDwords (ws : List Word) : List Byte := ws.flatMap fun w => natBytes 8 w.toNat

/-- Dword i of a descriptor held as dwords. -/
def dw (d : List Word) (i : Nat) : Nat := (d.getD i 0).toNat

/-- Bits [lo + w − 1 : lo] of a descriptor's bytes from a byte offset that is a multiple of 4: fields of 32-bit words
and of dwords. -/
def field (d : List Word) (byte lo w : Nat) : Nat := bits (dw d (byte / 8)) (8 * (byte % 8) + lo) w

/-! ### Registers (R298, R299) -/

/-- The 8-byte unit of scalar register i. -/
def Team.sUnit (t : Team) (i : Nat) : Nat := t.id.regwin / 8 + i

/-- The register slot of vj (R36, R299). -/
def Team.slotOf (t : Team) (j : Nat) : Nat :=
  if t.id.trapres ∧ 232 ≤ j then t.id.vregs - 8 + (j - 232) else j

/-- The 8-byte unit of lane L of register vj (R299). -/
def Team.vUnit (t : Team) (j l : Nat) : Nat := (t.id.regwin + 1024) / 8 + t.id.lanes * t.slotOf j + l

/-- A team's window size in bytes (R21). -/
def windowBytes (lanes vregs : Nat) : Nat := 1024 + ceilDiv (lanes * vregs * 8) 1024 * 1024

def Core.sreg (k : Core) (t : Team) (i : Nat) : Marked :=
  ⟨k.store.get 0 (t.sUnit i), k.unitMarks.get false (t.sUnit i)⟩
def Core.setSreg (k : Core) (t : Team) (i : Nat) (v : Marked) : Core := k.setUnit (t.sUnit i) v
def Core.vreg (k : Core) (t : Team) (j l : Nat) : Marked :=
  ⟨k.store.get 0 (t.vUnit j l), k.unitMarks.get false (t.vUnit j l)⟩
def Core.setVreg (k : Core) (t : Team) (j l : Nat) (v : Marked) : Core := k.setUnit (t.vUnit j l) v

namespace State
/-- Scalar register i of a team, with its mark. -/
def sreg (s : State) (c : Nat) (t : Team) (i : Nat) : Marked := (s.core c).sreg t i
def setSreg (s : State) (c : Nat) (t : Team) (i : Nat) (v : Marked) : State := s.modCore c fun k => k.setSreg t i v
def vreg (s : State) (c : Nat) (t : Team) (j l : Nat) : Marked := (s.core c).vreg t j l
def setVreg (s : State) (c : Nat) (t : Team) (j l : Nat) (v : Marked) : State := s.modCore c fun k => k.setVreg t j l v
end State

/-- Predicate kN: k0 always reads true (R31, R298). -/
def TeamRegs.pred (r : TeamRegs) (n : Nat) : Bool := n == 0 || r.k.getLsbD n
/-- The poison mark of kN; k0 carries none. -/
def TeamRegs.predMark (r : TeamRegs) (n : Nat) : Bool := n != 0 && r.kmark.getLsbD n
/-- One bit of a bit vector replaced. -/
def setBit {w : Nat} (v : BitVec w) (i : Nat) (b : Bool) : BitVec w :=
  if b then v ||| BitVec.ofNat w (2 ^ i) else v &&& ~~~(BitVec.ofNat w (2 ^ i))
/-- Writes kN; a write of k0 is discarded (R92). -/
def TeamRegs.setPred (r : TeamRegs) (n : Nat) (v m : Bool) : TeamRegs :=
  if n = 0 then r else { r with k := setBit r.k n v, kmark := setBit r.kmark n m }

/-- Lane L of predicate pN: p0 always reads true (R34). -/
def Ctl.pred (x : Ctl) (n l : Nat) : Bool := n == 0 || (x.preds.getD (n - 1) 0).getLsbD l
def Ctl.predMark (x : Ctl) (n l : Nat) : Bool := n != 0 && (x.predMarks.getD (n - 1) 0).getLsbD l
/-- One of n registers kept as a list replaced; the list then has n entries. -/
def setReg {α : Type} (d : α) (n : Nat) (r : List α) (i : Nat) (v : α) : List α :=
  (List.range n).map fun j => if j = i then v else r.getD j d

/-- Writes lane L of pN; a write of p0 is discarded (R92). -/
def Ctl.setPred (x : Ctl) (n l : Nat) (v m : Bool) : Ctl :=
  if n = 0 then x
  else { x with preds := setReg 0 7 x.preds (n - 1) (setBit (x.preds.getD (n - 1) 0) l v),
                predMarks := setReg 0 7 x.predMarks (n - 1) (setBit (x.predMarks.getD (n - 1) 0) l m) }

/-- The lanes of a mask below n, ascending. -/
def lanesOf (m : Mask) (n : Nat) : List Nat := (List.range n).filter fun l => m.getLsbD l

/-- The mask of a list of lanes. -/
def maskOf (ls : List Nat) : Mask := ls.foldl (fun m l => setBit m l true) 0

/-- The mask of lanes 0 to n − 1. -/
def maskBelow (n : Nat) : Mask := BitVec.ofNat 1024 (2 ^ n - 1)

/-- The number of lanes in a mask. -/
def maskCount (m : Mask) : Nat := ((List.range 1024).filter fun l => m.getLsbD l).length

/-! ### Splits (R308) -/

def Ctl.split (x : Ctl) (i : Nat) : Option Split := x.splits.get none i
def Ctl.setSplit (x : Ctl) (i : Nat) (v : Option Split) : Ctl := { x with splits := x.splits.set none i v }
def Ctl.joinRec (x : Ctl) (i : Nat) : Option Join := x.joins.get none i
def Ctl.setJoin (x : Ctl) (i : Nat) (v : Option Join) : Ctl := { x with joins := x.joins.set none i v }
/-- The lowest free index of the split table, if any. -/
def Ctl.freeSplit (x : Ctl) : Option Nat := (List.range 16).find? fun i => (x.split i).isNone
/-- The lowest free join record, if any. -/
def Ctl.freeJoin (x : Ctl) : Option Nat := (List.range 64).find? fun i => (x.joinRec i).isNone

/-- A split with empty latches and no long-result marks. -/
def Split.fresh (mask : Mask) (lpc : Word) (join : Option Nat) (handler : Bool) : Split :=
  { mask, lpc, join, latches := [none, none, none], longs := 0, handler, skipDebug := false,
    spin := Spin.init }

def Ctl.init (live : Mask) : Ctl :=
  { preds := List.replicate 7 0, predMarks := List.replicate 7 0, live, splits := [], joins := [], spills := [],
    queue := [], running := none, hqueue := [], hrunning := none, turn := 0, policy := 0, cpois := false, subst := none }

/-- The lanes in which a split's word acts before its guard: its mask and the team's live lanes. -/
def Team.active (t : Team) (p : Split) : Mask := p.mask &&& t.ctl.live

end Sys2Proof.Machine
end

