-- ==== Sys2Proof/Machine/Manage.lean ====
section
/-!
DEFINITION. The error log (R436, R437) and the management registers (R402 to R410, R450): what a read and a write
of each does.
-/
namespace Sys2Proof.Machine

/-! ### The error log -/

/-- An error log record with every field zero. -/
def LogRecord.blank : LogRecord :=
  ⟨0, 0, 0, 0, 0, 0, 0, 0, 0, 0, 0, 0, 0, 0, 0⟩

/-- The 64 bytes of a record (R436). -/
def LogRecord.bytes (r : LogRecord) : List Byte :=
  natBytes 8 r.time.toNat ++ natBytes 4 r.seq ++ natBytes 1 r.resp ++ natBytes 1 r.det ++ natBytes 2 r.unit ++
  natBytes 8 r.addr.toNat ++ natBytes 4 r.place ++ natBytes 4 r.gen ++ natBytes 2 r.team ++ natBytes 2 r.asid ++
  natBytes 4 r.rseq ++ natBytes 8 r.spc.toNat ++ natBytes 1 r.cause ++ natBytes 1 r.tries ++ natBytes 2 0 ++
  natBytes 4 0 ++ natBytes 8 r.data.toNat

/-- The management channel of a port is open (R398): stage 1 has ended, with or without firmware, and the port is not lost. -/
def State.channelOpen (s : State) (p : Nat) : Bool :=
  (2 ≤ s.boot.stage || s.boot.stopped) && (match s.ports[p]? with | some x => !x.lost | none => false)

/-- An event message to a port whose management channel is open (R398). -/
def State.eventTo (s : State) (p code : Nat) (record : List Byte) : State :=
  if s.channelOpen p then s.send (.event p code record) else s

/-- An event message to both ports (R398). -/
def State.event (s : State) (code : Nat) (record : List Byte) : State := (s.eventTo 0 code record).eventTo 1 code record

/-- Stamps a record with TIME and the die's SEQ, writes it to the die's ring and sends it to both ports (R437). -/
def State.log (s : State) (d : Nat) (r : LogRecord) : LogRecord × State :=
  let k := s.die d
  let r := { r with time := wordN s.cycles, seq := k.seq % 2 ^ 32 }
  (r, (s.setDie d { k with ring := k.ring.set none (k.seq % 16384) (some r), seq := k.seq + 1 }).event 4 r.bytes)

/-- PLACE of a record about memory: slot and die (R436). -/
def memPlace (slot d : Nat) : Nat := slot * 2 ^ 9 + d * 2 ^ 5

/-- The fields of a record that name a team (R436); SPC is the word, or ENTRY of an open region. -/
def teamRecord (s : State) (c : Nat) (m : Team) (det resp : Nat) (addr : Word) : LogRecord :=
  { LogRecord.blank with
    det, resp, addr, place := physCore s c, gen := m.id.gen, asid := m.id.asid, team := m.id.index,
    rseq := m.seq % 2 ^ 32, spc := match m.region with | some r => r.record.entry | none => m.regs.spc }

/-! ### Places of memory (R25) -/

/-- The pod slot of a physical address. -/
def paSlot (pa : Nat) : Nat := pa / 2 ^ 46
/-- Its package-local offset. -/
def paOff (pa : Nat) : Nat := pa % 2 ^ 46
/-- The home die of a package-local offset (R25). -/
def homeDie (off : Nat) : Nat :=
  if off < 0x8000000000 then off / 0x2000000000
  else if 0x10000000000 ≤ off ∧ off < 0x20000000000 then (off - 0x10000000000) / 0x4000000000
  else 0
/-- First offset of the mailbox and management range. -/
def mgmtBase : Nat := 0x20000000000
/-- Whether a physical address lies in the mailbox and management range of its package. -/
def isMgmt (pa : Nat) : Bool := mgmtBase ≤ paOff pa && paOff pa < mgmtBase + 2 ^ 32
/-- The address lies in firmware-reserved memory (R406). -/
def isFirmware (off : Nat) : Bool := off < 0x8000000000 && 0x1FC0000000 ≤ off % 0x2000000000
/-- The reserved offsets of R25 and R406. -/
def reservedRanges : List (Nat × Nat) :=
  [(0x1FC0000000, 0x2000000000), (0x3FC0000000, 0x4000000000), (0x5FC0000000, 0x6000000000),
   (0x7FC0000000, 0x8000000000), (0x8000000000, 0x10000000000), (0x20100000000, 2 ^ 46)]
/-- A range of package-local offsets touches a reserved offset (R26). -/
def touchesReserved (off size : Nat) : Bool := reservedRanges.any fun r => decide (off < r.2 ∧ r.1 < off + size)
/-- The package of a slot is present (R26, R450). -/
def State.present (s : State) (slot : Nat) : Bool := slot == s.boot.podSlot || s.boot.podLive.getLsbD slot
/-- The near tier of a die: its HBM4E range (R25). -/
def isNear (d pa : Nat) : Bool := paOff pa < 0x8000000000 && paOff pa / 0x2000000000 == d

/-! ### Bring-up state -/

/-- A team is resident on the package (R403). -/
def State.anyResident (s : State) : Bool := s.cores.any fun e => e.2.teams.any fun t => t.2.isSome
/-- Stage 7 is complete: READY, and the mailbox channel is open (R398, R408). -/
def State.ready (s : State) : Bool := 8 ≤ s.boot.stage

/-- Memory as stage 3 of R408 leaves it for the package in a slot: its sectors zero and unmarked; those of other packages are not touched. -/
def State.peerMem (s : State) (slot : Nat) : Memory :=
  { Memory.reset with
    bytes := s.mem.bytes.keep fun a _ => paSlot a != slot
    marks := s.mem.marks.keep fun u _ => paSlot (32 * u) != slot }

/-- The package without any state of its own but the record of a thermal trip, the fused minimum of the security version (R411) and the row
remap entries in non-volatile store (R434); its memory stays as it is until stage 3, and messages already sent stay sent. -/
def State.cleared (s : State) (powered tripped : Bool) : State :=
  { State.reset with
    mem := { Memory.reset with bytes := s.mem.bytes, marks := s.mem.marks }
    boot := { Boot.reset with powered, tripped, minimum := s.boot.minimum }
    dies := s.dies.mapVals Die.init fun k => { Die.init with rows := k.rows }
    out := s.out, ticket := s.ticket, free := s.free, agenda := s.agenda }

/-- A reset of the package (R408): every team ends without recovery and the sequence starts again at stage 0. -/
def packageReset (s : State) : State := s.cleared true s.boot.tripped

/-! ### The management registers (R407) -/

/-- Mean of the last 100 power samples (R409), in watts. -/
def Power.avg (p : Power) : Nat :=
  if p.samples.isEmpty then 0 else (p.samples.foldl (· + ·) 0) / p.samples.length

/-- STATUS (R407). -/
def State.status (s : State) : Word :=
  wordN ((s.boot.stage - 1) * 2 ^ 8 + s.power.therm.toNat * 2 ^ 7 + s.boot.pwrAlert.toNat * 2 ^ 6 +
    s.boot.semLost.toNat * 2 ^ 5 + s.boot.slotDup.toNat * 2 ^ 4 + s.boot.fwFail.toNat * 2 ^ 3 + s.ready.toNat)

/-- TEMPi (R410). -/
def State.temp (s : State) (i : Nat) : Word :=
  match s.power.temps.get none i with
  | some t => wordN (2 ^ 16 + t.toNat)
  | none => 0

/-- A read of SEMn by the agent of a code (R402): what it returns, and the state after. -/
def semRead (s : State) (code n : Nat) : Word × State :=
  let o := s.boot.sems.getD n 0
  if o = 0 then (0, s.modBoot fun b => { b with sems := setReg 0 16 b.sems n code }) else (wordN o, s)

/-- A write of SEMn (R402). -/
def semWrite (s : State) (code n : Nat) (v : Word) : State :=
  if v = 0 ∧ s.boot.sems.getD n 0 = code then s.modBoot fun b => { b with sems := setReg 0 16 b.sems n 0 } else s

/-- FREEPUSH of die d (R405). -/
def freePush (s : State) (d : Nat) (v : Word) : State :=
  let frame := bits v.toNat 16 36 * 2 ^ 16
  let k := s.die d
  if paSlot frame ≠ s.boot.podSlot ∨ !isNear d frame ∨ isFirmware (paOff frame) ∨ frame ∈ k.free ∨
      k.free.length ≥ 65536 then
    s.setDie d { k with freeErr := true }
  else s.setDie d { k with free := frame :: k.free }

/-- A read of FREEPOP of die d (R405). -/
def freePop (s : State) (d : Nat) : Word × State :=
  let k := s.die d
  match k.free with
  | f :: r => (wordN f, s.setDie d { k with free := r })
  | [] => (0, s)

/-- FREECOUNT of die d (R407). -/
def freeCount (s : State) (d : Nat) : Word :=
  wordN ((s.die d).freeErr.toNat * 2 ^ 63 + (s.die d).free.length)

/-- A write of FREECOUNT: bit 63 clears ERR (R407). -/
def freeCountWrite (s : State) (d : Nat) (v : Word) : State :=
  if v.getLsbD 63 then s.setDie d { s.die d with freeErr := false } else s

/-- A write of STATUS: ones clear PWRALERT and SEMLOST (R407). -/
def statusWrite (s : State) (v : Word) : State :=
  s.modBoot fun b => { b with pwrAlert := b.pwrAlert && !v.getLsbD 6, semLost := b.semLost && !v.getLsbD 5 }

/-- A write of CTXBASE (R403, R407). -/
def ctxbaseWrite (s : State) (v : Word) : State :=
  if s.anyResident then s else s.modBoot fun b => { b with ctxBase := bits v.toNat 22 30 * 2 ^ 22 }
/-- A write of QTBASE (R403, R407). -/
def qtbaseWrite (s : State) (v : Word) : State :=
  if s.anyResident then s else s.modBoot fun b => { b with qtBase := bits v.toNat 23 29 * 2 ^ 23 }
/-- A write of RESETREQ (R408). -/
def resetreqWrite (s : State) (v : Word) : State := if v = 0xA5 then packageReset s else s
/-- A value clamped to a range. -/
def clampN (lo hi v : Nat) : Nat := if v < lo then lo else if hi < v then hi else v
/-- A write of PWRCAP (R409). -/
def pwrcapWrite (s : State) (v : Word) : State :=
  { s with power := { s.power with cap := clampN 1200 2600 (bits v.toNat 0 16) } }
/-- A write of FABCTL (R450). -/
def fabctlWrite (s : State) (v : Word) : State :=
  s.modBoot fun b => { b with hbto := clampN 50 10000 (bits v.toNat 0 16) }

/-- A read of the management register at an offset of this package's range, by the agent of a semaphore code. -/
def mgmtRead (s : State) (code off : Nat) : Word × State :=
  if off = 0x0000 then (wordN (Config.serial.toNat * 2 ^ 32 + 0x4A72 * 2 ^ 16 + Config.stepping.toNat), s)
  else if off = 0x0008 then (s.status, s)
  else if off = 0x0010 then (wordN s.boot.podSlot, s)
  else if off = 0x0018 then (wordN s.boot.ctxBase, s)
  else if off = 0x0020 then (wordN s.boot.qtBase, s)
  else if 0x100 ≤ off ∧ off < 0x180 then semRead s code ((off - 0x100) / 8)
  else if 0x200 ≤ off ∧ off < 0x300 then
    if off % 0x40 = 0x08 then (freeCount s ((off - 0x200) / 0x40), s)
    else if off % 0x40 = 0x10 then freePop s ((off - 0x200) / 0x40)
    else (0, s)
  else if off = 0x400 then (wordN s.power.cap, s)
  else if off = 0x408 then
    (wordN (s.power.stretch * 2 ^ 32 + s.power.avg % 2 ^ 16 * 2 ^ 16 + s.power.samples.headD 0 % 2 ^ 16), s)
  else if 0x500 ≤ off ∧ off < 0x560 then (s.temp ((off - 0x500) / 8), s)
  else if off = 0x600 then (wordN s.boot.hbto, s)
  else if off = 0x608 then (s.boot.podLive, s)
  else (0, s)

/-- A write of the management register at an offset of this package's range. -/
def mgmtWrite (s : State) (code off : Nat) (v : Word) : State :=
  if off = 0x0008 then statusWrite s v
  else if off = 0x0018 then ctxbaseWrite s v
  else if off = 0x0020 then qtbaseWrite s v
  else if off = 0x0028 then resetreqWrite s v
  else if 0x100 ≤ off ∧ off < 0x180 then semWrite s code ((off - 0x100) / 8) v
  else if 0x200 ≤ off ∧ off < 0x300 then
    if off % 0x40 = 0x00 then freePush s ((off - 0x200) / 0x40) v
    else if off % 0x40 = 0x08 then freeCountWrite s ((off - 0x200) / 0x40) v
    else s
  else if off = 0x400 then pwrcapWrite s v
  else if off = 0x600 then fabctlWrite s v
  else s

end Sys2Proof.Machine
end

