-- ==== Sys2Proof/Machine/Memory.lean ====
section
/-!
DEFINITION. Global memory: homes (R227, R232), path check code (R230), compressed lines (R233), page tables and TLBs
(R373 to R379), caches (R223 to R226), checks of an access (R235), engine ranges (R228).
-/
namespace Sys2Proof.Machine

/-! ### Path check code (R230) -/

/-- One byte folded into the CRC-16/CCITT-FALSE register, most significant bit first. -/
def crcByte (crc : Nat) (b : Byte) : Nat :=
  (List.range 8).foldl (fun c _ => if bit c 15 then ((c * 2) ^^^ 0x1021) % 2 ^ 16 else c * 2 % 2 ^ 16)
    (crc ^^^ (b.toNat * 2 ^ 8))

/-- The check code of bytes in ascending address order. -/
def checkCode (bs : List Byte) : Nat := bs.foldl crcByte 0xFFFF

/-! ### Compressed lines (R233, R234) -/

/-- A stored form: its descriptor and bytes. -/
structure Stored where
  form : Nat
  bytes : List Byte
deriving DecidableEq, Repr

/-- The deltas of a line's dwords from its first, if each fits b signed bytes (R233). -/
def deltas (b : Nat) (ds : List Word) : Option (List Nat) :=
  let base := ds.headD 0
  let es := ds.map fun d => (d - base).toInt
  if es.all fun e => decide (-(2 ^ (8 * b - 1) : Int) ≤ e ∧ e < 2 ^ (8 * b - 1)) then
    some (es.map fun e => wrapN (8 * b) e)
  else none

/-- DELTA with b bytes per delta, if it reproduces the line (base: dword 0). -/
def deltaForm (b form : Nat) (ds : List Word) : Option Stored :=
  (deltas b ds).map fun es => ⟨form, natBytes 8 (ds.headD 0).toNat ++ es.flatMap (natBytes b)⟩

/-- The first method that reproduces a 128-byte line (R234). -/
def compressLine (line : List Byte) : Stored :=
  let ds := dwordsOf line
  if ds.all (· == ds.headD 0) then ⟨4, natBytes 8 (ds.headD 0).toNat⟩
  else match deltaForm 1 8 ds with
    | some f => f
    | none => match deltaForm 2 9 ds with
      | some f => f
      | none => match deltaForm 4 10 ds with
        | some f => f
        | none => ⟨0, line⟩

/-- The line that a stored form decodes to; none for an invalid descriptor (R233, R234). -/
def decodeLine (f : Stored) : Option (List Byte) :=
  let deltaOf (b : Nat) : List Byte :=
    let base := bytesN (f.bytes.take 8)
    (List.range 16).flatMap fun i =>
      natBytes 8 (wrapN 64 (base + sext (8 * b) (bytesN ((f.bytes.drop (8 + b * i)).take b))))
  if f.form = 0 then some f.bytes
  else if f.form = 4 then some ((List.range 16).flatMap fun _ => f.bytes.take 8)
  else if f.form = 8 then some (deltaOf 1)
  else if f.form = 9 then some (deltaOf 2)
  else if f.form = 10 then some (deltaOf 4)
  else none

/-! ### Memory at its home -/

/-- The side band of a 32-byte sector with the data and mark given, but for the error-correcting code of its level: the check code is always that of
the bytes (DEDUCED, log entry 112). -/
def sideBand (bs : List Byte) (mark : Bool) : BitVec 16 × Bool := (BitVec.ofNat 16 (checkCode bs), mark)

/-- The bytes at a physical address. -/
def Memory.read (m : Memory) (pa n : Nat) : List Byte := (List.range n).map fun i => m.bytes.get 0 (pa + i)

/-- The OR of the marks of the sectors touched (R232). -/
def Memory.mark (m : Memory) (pa n : Nat) : Bool :=
  (List.range ((pa + n + 31) / 32 - pa / 32)).any fun i => m.marks.get false (pa / 32 + i)

/-- Writes bytes, leaving the marks. -/
def Memory.putBytes (m : Memory) (pa : Nat) : List Byte → Memory
  | [] => m
  | b :: r => Memory.putBytes { m with bytes := m.bytes.set 0 pa b } (pa + 1) r

/-- The marks after a write of n bytes (R232): a marked write marks every sector it touches, an unmarked one clears the
sectors it covers whole. -/
def Memory.markWrite (m : Memory) (pa n : Nat) (mark : Bool) : Memory :=
  { m with marks := (List.range ((pa + n + 31) / 32 - pa / 32)).foldl (fun k i =>
      let u := pa / 32 + i
      if mark then k.set false u true
      else if pa ≤ u * 32 ∧ u * 32 + 32 ≤ pa + n then k.set false u false else k) m.marks }

/-- A write with its mark. -/
def Memory.write (m : Memory) (pa : Nat) (bs : List Byte) (mark : Bool) : Memory :=
  if bs.isEmpty then m else (m.putBytes pa bs).markWrite pa bs.length mark

/-- The canonical form of memory: bytes and marks listed in rising order, none that an unlisted place reads as. -/
def Memory.wf (m : Memory) : Bool := SMap.wf (0 : Byte) m.bytes && SMap.wf false m.marks

/-- An address lies in sealed memory (R285, R286). -/
def Memory.sealed (m : Memory) (pa : Nat) : Bool := m.seals.any fun r => decide (r.1 ≤ pa ∧ pa < r.1 + r.2)

/-- A piece of a range touches the line of an address. -/
def EngRange.touches (r : EngRange) (line : Nat) : Bool :=
  r.pieces.any (fun p => decide (p.1 / 128 ≤ line ∧ line ≤ (p.1 + p.2 - 1) / 128 ∧ 0 < p.2)) &&
  !r.released.contains line

/-- The line of an address is registered by an engine command and not released (R228): one that came before `own`, where the access is made for
an engine command itself, so that no cycle of waits forms (DEDUCED, log entry 115). -/
def Memory.registered (m : Memory) (pa : Nat) (own : Option Nat) : Bool :=
  m.ranges.any fun r => own.all (fun n => decide (r.ticket < n)) && r.touches (pa / 128)

/-- The home slot of an address is a package that is not present (R451). -/
def State.lost (s : State) (pa : Nat) : Bool := !s.present (paSlot pa)

/-- Every path to the present package that is the home of an address is down: no station is live, so requests wait until one is, or until
the package is lost (R447, R450). -/
def State.cut (s : State) (pa : Nat) : Bool :=
  paSlot pa != s.boot.podSlot && s.present (paSlot pa) && s.liveStations.isEmpty

/-- An access to an address must wait: for an engine's line (R228), or for a station (R447). -/
def State.blocked (s : State) (pa : Nat) (own : Option Nat) : Bool := s.mem.registered pa own || s.cut pa

/-- A line request reaches the home: the L2 holds the line from then on. -/
def State.request (s : State) (pa : Nat) (write : Bool) : State :=
  if paSlot pa ≠ s.boot.podSlot then s
  else s.modDie (homeDie (paOff pa)) fun k =>
    { k with l2 := k.l2.set none (pa / 128) (some (write || (k.l2.get none (pa / 128)).getD false)) }

/-- A line request of a core of die d is about to reach its home (R381): a miss there, or a request from another die, raises the page's
hotness. Requests of engines, walkers and hosts are not counted. -/
def State.warm (s : State) (d pa : Nat) : State :=
  if paSlot pa ≠ s.boot.podSlot then s
  else
    let h := homeDie (paOff pa)
    s.modDie h fun k =>
      match k.hot.get none (pa / 65536) with
      | some e =>
        let up := if (k.l2.get none (pa / 128)).isNone || d != h then e.h + 1 else e.h
        let dies := insertNat d e.dies
        let e := { e with h := (if up < 256 then up else 255), last := d, dies, mixed := e.mixed || dies.length ≥ 2 }
        { k with hot := k.hot.set none (pa / 65536) (some e) }
      | none => k

/-- Bytes read at their home by a die, with the OR of the sectors' marks. A line of a lost package reads as marked zeros,
and the read is logged (R451). -/
def State.readHome (s : State) (d pa n : Nat) : (List Byte × Bool) × State :=
  if s.lost pa then
    ((List.replicate n 0, true),
     (s.log d { LogRecord.blank with det := 11, resp := 5, addr := wordN pa, place := memPlace (paSlot pa) 0 }).2)
  else ((s.mem.read pa n, s.mem.mark pa n), s.request pa false)

/-- Bytes written at their home; a store to a lost package is dropped (R451). -/
def State.writeHome (s : State) (pa : Nat) (bs : List Byte) (mark : Bool) : State :=
  if s.lost pa then s else (s.request pa true).modMem fun m => m.write pa bs mark

/-- A dword at its home, without a request. -/
def Memory.dword (m : Memory) (pa : Nat) : Nat := bytesN (m.read pa 8)

/-! ### Contexts (R371) -/

/-- The 64 bytes of the context entry of an ASID, as dwords. -/
def State.context (s : State) (asid : Nat) : List Word :=
  dwordsOf (s.mem.read (s.boot.ctxBase + 64 * asid) 64)

/-- The entry is valid and its RES0 fields are zero. -/
def contextValid (d : List Word) : Bool :=
  bit (dw d 0) 0 && bits (dw d 0) 2 9 == 0 && bits (dw d 0) 52 12 == 0 && bits (dw d 3) 32 32 == 0 &&
  (d.drop 4).all (· == 0)
def contextRT (d : List Word) : Bool := bit (dw d 0) 1
def contextRoot (d : List Word) : Nat := bits (dw d 0) 11 41 * 2 ^ 11

/-! ### Translation (R373 to R379) -/

/-- What an access needs of a leaf (R376); `dirty`: it is a store or an atomic (R377). -/
structure Need where
  r : Bool := false
  w : Bool := false
  x : Bool := false
  dirty : Bool := false
deriving DecidableEq, Repr

def Need.load : Need := { r := true }
def Need.store : Need := { w := true, dirty := true }
def Need.atomic : Need := { r := true, w := true, dirty := true }
def Need.fetch : Need := { x := true }

/-- The outcome of a translation: an address, a trap cause, a poisoned entry at an address (R375), or a wait of the walker for the line
of an entry (R228). -/
inductive Xlate where
  | ok (pa : Nat)
  | fail (c : Cause)
  | poison (entry : Nat)
  | wait
deriving DecidableEq, Repr

/-- log2 of the bytes that an entry of a level covers (R373). -/
def levelShift (level : Nat) : Nat := 46 - 10 * level

/-- The leaf permits the access (R376). -/
def permits (leaf : Nat) (n : Need) (runtime : Bool) : Bool :=
  (!n.r || bit leaf 3) && (!n.w || bit leaf 4) && (!n.x || bit leaf 5) && (runtime || bit leaf 6)

/-- The physical address under a leaf of a level. -/
def leafAddr (leaf level va : Nat) : Nat := bits leaf 16 36 * 2 ^ 16 + va % 2 ^ levelShift level

/-- The bits of an entry that are RES0 (R374). -/
def entryRes0 (e : Nat) : Bool :=
  bits e 52 4 != 0 || bit e 2 ||
  (if bit e 1 then bits e 11 5 != 0 else bits e 3 10 != 0)

/-- The leaf's range is one that may be mapped (R26, R374). -/
def leafRange (s : State) (e level : Nat) : Bool :=
  let base := bits e 16 36 * 2 ^ 16
  base % 2 ^ levelShift level == 0 && s.present (paSlot base) &&
  !touchesReserved (paOff base) (2 ^ levelShift level)

/-- What a walk found: a leaf with its level and place, and the tables passed on the way. -/
inductive Walk where
  | leaf (e level pa : Nat) (tables : List (Nat × Nat))
  | fault
  | poison (entry : Nat)
  | wait
deriving DecidableEq, Repr

/-- Walks the remaining levels from a table (R375). `own`: the engine command that the walk is made for, whose lines it need not wait for
(R228). -/
def walkFrom (s : State) (va : Nat) (own : Option Nat) : List Nat → Nat → List (Nat × Nat) → Walk
  | [], _, _ => .fault
  | level :: rest, table, seen =>
    let pa := table + 8 * (va / 2 ^ levelShift level % (if level = 0 then 256 else 1024))
    let (bs, mark) := (s.readHome 0 pa 8).1
    let e := bytesN bs
    if s.blocked pa own then .wait
    else if mark then .poison pa
    else if !bit e 0 || entryRes0 e then .fault
    else if bit e 1 then
      if level = 0 then .fault
      else if leafRange s e level then .leaf e level pa ((level, table) :: seen) else .fault
    else if level = 3 then .fault
    else walkFrom s va own rest (bits e 13 39 * 2 ^ 13) ((level, table) :: seen)

/-- The deepest table that the die's walker holds for an address, else the root (R371, R379). -/
def startTable (s : State) (d asid va : Nat) : Option (Nat × Nat) :=
  let held (level : Nat) : Option (Nat × Nat) :=
    ((s.die d).upper.find? fun u => u.asid == asid && u.level == level &&
      u.base == va / 2 ^ (levelShift level + 10)).map fun u => (level, u.table)
  match held 3 with
  | some r => some r
  | none => match held 2 with
    | some r => some r
    | none => match held 1 with
      | some r => some r
      | none => match s.sched.roots.get none asid with
        | some t => some (0, t)
        | none =>
          let c := s.context asid
          if contextValid c then some (0, contextRoot c) else none

/-- The upper entries of a walk, added to those the walker holds. -/
def addUppers (us : List UpperEntry) (asid va : Nat) (tables : List (Nat × Nat)) : List UpperEntry :=
  tables.foldl (fun acc t =>
    let u : UpperEntry := ⟨asid, t.1, va / 2 ^ (levelShift t.1 + 10), t.2⟩
    if t.1 = 0 ∨ u ∈ acc then acc else u :: acc) us

/-- The use of a 64 KiB page noted in its home die's counter table (R381). -/
def noteLeaf (s : State) (asid va e level leafPa : Nat) : State :=
  let frame := bits e 16 36
  if level ≠ 3 ∨ frame / 2 ^ 30 ≠ s.boot.podSlot then s
  else s.modDie (homeDie (paOff (frame * 65536))) fun k =>
    match k.hot.get none frame with
    | some h => { k with hot := k.hot.set none frame (some { h with shared := h.shared || h.leaf != leafPa }) }
    | none => { k with hot := k.hot.set none frame (some ⟨0, 0, false, [], leafPa, asid, va, false⟩) }

/-- What the walker of a die holds after a walk (R371, R379), and the compressed page that a leaf maps (R233). -/
def State.noteWalk (s : State) (d asid va leaf : Nat) (tables : List (Nat × Nat)) : State :=
  let s := s.modDie d fun k => { k with upper := addUppers k.upper asid va tables }
  let s := if (s.sched.roots.get none asid).isSome then s
    else s.modSched fun c => { c with roots := c.roots.set none asid (some (contextRoot (s.context asid))) }
  if bit leaf 9 then s.modMem fun m => { m with cmp := m.cmp.set false (bits leaf 16 36) true } else s

/-- A leaf with A set, and D where the access needs it (R377). -/
def leafUsed (e : Nat) (n : Need) : Nat := e ||| 2 ^ 7 ||| (if n.dirty then 2 ^ 8 else 0)

/-- Sets A, and D where the access needs it, in the leaf that a walk has found, by compare-and-swap (R377). Where another agent writes the entry between
the read and the compare-and-swap, the walk goes on from that level, with at most `left` attempts. The leaf is checked before its bits are set. -/
def settleLeaf (va : Nat) (n : Need) (runtime : Bool) (own : Option Nat) : Nat → State → Walk → Walk × State
  | 0, s, .leaf _ _ _ _ => (.fault, s)
  | left + 1, s, .leaf e level pa tables =>
    let e' := leafUsed e n
    if !permits e n runtime || e' == e then (.leaf e level pa tables, s)
    else
      let used (s : State) : State := s.writeHome pa (natBytes 8 e') (s.mem.mark pa 8)
      match s.sched.races with
      | [] => (.leaf e' level pa tables, used s)
      | w :: rest =>
        let s := (s.modSched fun c => { c with races := rest }).writeHome pa (natBytes 8 w.toNat) false
        if w.toNat = e then (.leaf e' level pa tables, used s)
        else settleLeaf va n runtime own left s (walkFrom s va own ([0, 1, 2, 3].drop level) (tables.headD (0, 0)).2 (tables.drop 1))
  | _, s, w => (w, s)

/-- A walk by the walker of a die, with the accessed and dirty bits it sets (R375, R377), at most 64 attempts in all. The whole walk is one step, in which
other agents write only what Sched.races says (DEDUCED, log entry 7). -/
def walk (s : State) (d asid va : Nat) (n : Need) (runtime : Bool) (own : Option Nat) : Except Xlate (Nat × Nat × Nat) × State :=
  match startTable s d asid va with
  | none => (.error (.fail .pageFault), s)
  | some (level, table) =>
    match settleLeaf va n runtime own 64 s (walkFrom s va own ([0, 1, 2, 3].drop level) table []) with
    | (.wait, s) => (.error .wait, s)
    | (.fault, s) => (.error (.fail .pageFault), s)
    | (.poison pa, s) => (.error (.poison pa), if s.lost pa then (s.readHome d pa 8).2 else s)
    | (.leaf e lv pa tables, s) =>
      if !permits e n runtime then (.error (.fail .protection), s)
      else (.ok (e, lv, pa), noteLeaf (s.noteWalk d asid va e tables) asid va e lv pa)

/-- A TLB entry serves the address: for a store or atomic only with D set (R377). -/
def TlbEntry.serves (t : TlbEntry) (asid va : Nat) (n : Need) : Bool :=
  t.asid == asid && t.base == va / 2 ^ levelShift t.level && (!n.dirty || bit t.leaf.toNat 8)

/-- Translates an address for a core's access, or for an engine of a die with `core` none (R373 to R379); `own` as in walkFrom. -/
def xlate (s : State) (core : Option Nat) (d asid : Nat) (runtime : Bool) (n : Need) (va : Word) (own : Option Nat := none) :
    Xlate × State :=
  let v := va.toNat
  if v / 2 ^ 54 ≠ 0 then (.fail .pageFault, s)
  else
    let l1 := match core with | some c => (s.core c).tlb | none => []
    match (l1 ++ (s.die d).tlb).find? fun t => t.serves asid v n with
    | some t =>
      if permits t.leaf.toNat n runtime then (.ok (leafAddr t.leaf.toNat t.level v), s)
      else (.fail .protection, s)
    | none =>
      match walk s d asid v n runtime own with
      | (.error e, s) => (e, s)
      | (.ok (leaf, level, pa), s) =>
        let t : TlbEntry := ⟨asid, level, v / 2 ^ levelShift level, wordN leaf, pa⟩
        let keep := fun (u : TlbEntry) => !(u.asid == asid && u.level == level && u.base == t.base)
        let s := s.modDie d fun k => { k with tlb := (t :: k.tlb.filter keep).take 16384 }
        let s := match core with
          | some c => s.modCore c fun k => { k with tlb := (t :: k.tlb.filter keep).take 1024 }
          | none => s
        (.ok (leafAddr leaf level v), s)

/-- Translates for an engine: a poisoned entry is a PAGE_FAULT and is logged INFO (R375); no cause where the walk must wait (R228). -/
def engineXlate (s : State) (d asid : Nat) (runtime : Bool) (n : Need) (va : Nat) (own : Option Nat := none) :
    Except (Option Cause) Nat × State :=
  match xlate s none d asid runtime n (wordN va) own with
  | (.ok pa, s) => (.ok pa, s)
  | (.fail c, s) => (.error (some c), s)
  | (.wait, s) => (.error none, s)
  | (.poison e, s) =>
    (.error (some .pageFault),
     (s.log d { LogRecord.blank with det := 13, resp := 10, addr := wordN e, place := memPlace (paSlot e) d }).2)

/-! ### Checks of a team's access (R235) -/

/-- The outcome of the checks: the physical address, a trap, or a wait for an engine (R228). -/
inductive Access where
  | ok (pa : Nat)
  | bad (r : Raise)
  | wait
deriving DecidableEq, Repr

/-- The checks of R235 on an access of n bytes by a team. -/
def checkAccess (s : State) (c : Nat) (m : Team) (need : Need) (atomic : Bool) (va : Word) (n : Nat) : Access × State :=
  if va.toNat % n ≠ 0 then (.bad ⟨.misaligned, va, 0⟩, s)
  else match xlate s (some c) (dieOf c) m.id.asid m.id.runtime need va with
    | (.fail k, s) => (.bad ⟨k, va, 0⟩, s)
    | (.poison e, s) => (.bad ⟨.machineCheck, wordN e, 0⟩, s)
    | (.wait, s) => (.wait, s)
    | (.ok pa, s) =>
      if isMgmt pa ∧ (n ≠ 8 ∨ atomic) then (.bad ⟨.protection, va, 0⟩, s)
      else if need.w ∧ s.mem.sealed pa then (.bad ⟨.sealViolation, va, 0⟩, s)
      else if s.blocked pa none then (.wait, s)
      else (.ok pa, s)

/-! ### Loads through the caches (R223 to R226) -/

/-- A cached sector may be used: filled under the present generation, or of sealed memory (R224, R226). -/
def Sector.fresh (s : State) (gen sector : Nat) (x : Sector) : Bool := x.gen == gen || s.mem.sealed (sector * 32)

/-- A sector as a die reads it: from its RDC for a line homed elsewhere, else at the home, filling the RDC. -/
def State.readDie (s : State) (d sector : Nat) : (List Byte × Bool) × State :=
  let pa := sector * 32
  if paSlot pa = s.boot.podSlot ∧ homeDie (paOff pa) = d then (s.warm d pa).readHome d pa 32
  else match ((s.die d).rdc.get none sector).filter (Sector.fresh s (s.die d).rdcGen sector) with
    | some x => ((x.data, x.mark), s)
    | none =>
      let (r, s) := (s.warm d pa).readHome d pa 32
      (r, s.modDie d fun k => { k with rdc := k.rdc.set none sector (some ⟨r.1, r.2, k.rdcGen, s.cycles, 0⟩) })

/-- A sector as a core reads it: from its L1, else through the die, filling the L1 unless `nt` (R237). -/
def State.readCore (s : State) (c t sector : Nat) (nt : Bool) : (List Byte × Bool) × State :=
  match ((s.core c).l1.get none sector).filter (Sector.fresh s (s.core c).l1Gen sector) with
  | some x => ((x.data, x.mark), s)
  | none =>
    let (r, s) := s.readDie (dieOf c) sector
    (r, if nt then s else s.modCore c fun k => { k with l1 := k.l1.set none sector (some ⟨r.1, r.2, k.l1Gen, s.cycles, t⟩) })

/-- The bytes that a store lays over the bytes at pa. -/
def overlay (pa : Nat) (acc : List Byte × Bool) (spa : Nat) (sdata : List Byte) (smark : Bool) : List Byte × Bool :=
  let hit := spa < pa + acc.1.length && pa < spa + sdata.length
  if hit then
    (((List.range acc.1.length).zip acc.1).map fun e =>
        if spa ≤ pa + e.1 ∧ pa + e.1 < spa + sdata.length then sdata.getD (pa + e.1 - spa) 0 else e.2,
     acc.2 || smark)
  else acc

/-- CUR: the present lease in granules (R347). -/
def Lease.cur (l : Lease) : Nat := if l.auto then ceilDiv l.lines 8 else l.decl

/-- The lines of the core's L1 share (R20). -/
def Core.shareLines (k : Core) : Nat := (2 ^ 20 - (k.part.map (·.l1Base)).getD 0) / 128

/-- The L1 share in granules, and the sum of the leases of the ACTIVE teams (R349). -/
def Core.shareGranules (k : Core) : Nat := k.shareLines / 8
def Core.leaseSum (k : Core) : Nat :=
  (k.residents.map fun e => if e.2.sched.state = .active then e.2.lease.cur else 0).foldl (· + ·) 0

/-- OVER ends once the active set fits the share (R347, R349). -/
def State.clearOver (s : State) (c : Nat) : State :=
  let k := s.core c
  if k.shareGranules < k.leaseSum then s
  else (k.residents.filter fun e => e.2.lease.overBit).foldl (fun s e =>
    s.modTeam c e.1 fun m => { m with lease := { m.lease with overBit := false } }) s

/-- A load of a team misses the L1 (R348): one of its victim tags may match, and a measured lease grows. -/
def State.missed (s : State) (c t sector : Nat) : State :=
  let k := s.core c
  match k.teams.get none t with
  | none => s
  | some m =>
    if !m.lease.victims.contains (sector / 4) then s
    else
      let l := { m.lease with victims := m.lease.victims.filter (· != sector / 4), hit := true }
      let up := { l with lines := l.lines + 1 }
      let fits := l.solo || decide (k.leaseSum + (up.cur - l.cur) ≤ k.shareGranules)
      s.setTeam c t (some { m with lease := if l.auto && fits then up else l })

/-- What a plain load of n bytes within one sector returns to a team: the cached or home bytes, over them the stores of
its core on their way home, over them its own region stores (R223, R225). -/
def State.loadPlain (s : State) (c t pa n : Nat) (nt : Bool) : (List Byte × Bool) × State :=
  let hit := (((s.core c).l1.get none (pa / 32)).filter (Sector.fresh s (s.core c).l1Gen (pa / 32))).isSome
  let s := if hit then s else s.missed c t (pa / 32)
  let (sec, s) := s.readCore c t (pa / 32) nt
  let r := ((sec.1.drop (pa % 32)).take n, sec.2)
  let r := (s.core c).inflight.foldl (fun a x => overlay pa a x.pa x.data x.mark) r
  let held := match (s.team c t).bind (·.region) with | some g => g.held | none => []
  (held.foldl (fun a x => overlay pa a x.pa x.data x.mark) r, s)

/-- The scope codes of R47. -/
def scTeam : Nat := 0
def scCore : Nat := 1
def scCluster : Nat := 2
def scDie : Nat := 3
def scPackage : Nat := 4
def scDomain : Nat := 5
def scSystem : Nat := 6

/-- The cache steps of an acquire (R269): generations advance. -/
def State.acquire (s : State) (c scope : Nat) : State :=
  let s := if scope ≥ scCluster then s.modCore c fun k => { k with l1Gen := k.l1Gen + 1 } else s
  if scope ≥ scDie then s.modDie (dieOf c) fun k => { k with rdcGen := k.rdcGen + 1 } else s

/-- The narrowest scope that covers two cores (R264, R292). -/
def scopeOver (p c : Nat) : Nat :=
  if p = c then scCore else if clusterOf p = clusterOf c then scCluster else if dieOf p = dieOf c then scDie else scPackage

/-- The scope of a hand-off to a core (R292): that of the queue, widened to cover the producer; one that is no core of the package is covered
by system scope alone. -/
def handOff (scope : Nat) (producer : Option Nat) (c : Nat) : Nat :=
  let n := match producer with | some p => scopeOver p c | none => scSystem
  if scope < n then n else scope

/-! ### Stores -/

/-- The RDC copy of the line of an address goes (R226). -/
def State.dropLine (s : State) (d pa : Nat) : State :=
  s.modDie d fun k => { k with rdc := k.rdc.keep fun u _ => u / 4 != pa / 128 }

/-- A store leaves the core (R223, R269): it is on its way home; the die's RDC copy of the line goes. -/
def State.leave (s : State) (c : Nat) (x : Store) : State :=
  let s := s.modCore c fun k => { k with inflight := k.inflight ++ [x] }
  if isMgmt x.pa then s else s.dropLine (dieOf c) x.pa

/-- Bytes laid over a cached sector. -/
def Sector.merge (x : Sector) (sector pa : Nat) (bs : List Byte) (mark : Bool) : Sector :=
  let r := overlay (sector * 32) (x.data, x.mark) pa bs mark
  { x with data := r.1, mark := if bs.length = 32 ∧ pa = sector * 32 then mark else r.2 }

/-- A write performed at its home: a management register, or memory; the L1 copy of the storing core follows (R223), and a copy of the line
that the die's RDC has filled on the way goes (R226). -/
def State.performStore (s : State) (c : Nat) (x : Store) : State :=
  if isMgmt x.pa then
    if paSlot x.pa = s.boot.podSlot then mgmtWrite s 3 (paOff x.pa - mgmtBase) (wordN (bytesN x.data)) else s
  else
    let s := ((s.warm (dieOf c) x.pa).writeHome x.pa x.data x.mark).dropLine (dieOf c) x.pa
    s.modCore c fun k =>
      match k.l1.get none (x.pa / 32) with
      | some y => { k with l1 := k.l1.set none (x.pa / 32) (some (y.merge (x.pa / 32) x.pa x.data x.mark)) }
      | none => k

/-- Performs at their homes the core's stores in flight that touch the sector of an address, in order: an access at the home
by the core then observes them (R262, R269). -/
def State.flushSector (s : State) (c pa : Nat) : State :=
  let (mine, rest) := (s.core c).inflight.partition fun x => x.pa / 32 == pa / 32
  mine.foldl (fun s x => s.performStore c x) (s.modCore c fun k => { k with inflight := rest })

/-- A load performed at its home by a team, its own region stores over it. -/
def State.loadHome (s : State) (c t pa n : Nat) : (List Byte × Bool) × State :=
  let (r, s) := ((s.flushSector c pa).warm (dieOf c) pa).readHome (dieOf c) pa n
  let held := match (s.team c t).bind (·.region) with | some g => g.held | none => []
  (held.foldl (fun a x => overlay pa a x.pa x.data x.mark) r, s)

/-- A load of a management register by a core (R407): performed once at its register, after the core's own stores to it. A register of a
lost package reads as marked zero, and the read is logged (R451). A read that takes a semaphore is an acquire at system scope (R402). -/
def State.loadMgmt (s : State) (c pa : Nat) (acq : Bool) (scope : Nat) : (List Byte × Bool) × State :=
  let s := s.flushSector c pa
  let off := paOff pa - mgmtBase
  if s.lost pa then s.readHome (dieOf c) pa 8
  else
    let (v, s) := if paSlot pa = s.boot.podSlot then mgmtRead s 3 off else s.freeWord
    let takes : Bool := decide (0x100 ≤ off ∧ off < 0x180) && v == 0
    ((natBytes 8 v.toNat, false), if takes then s.acquire c scSystem else if acq then s.acquire c scope else s)

/-- A load of n bytes at a translated address with an order: an acquire at cluster scope or wider is performed past the L1, one at die
scope or wider at the home (R269). -/
def State.load (s : State) (c t pa n : Nat) (nt acq : Bool) (scope : Nat) : (List Byte × Bool) × State :=
  if isMgmt pa then s.loadMgmt c pa acq scope
  else if acq ∧ scope ≥ scDie then
    let (r, s) := s.loadHome c t pa n
    (r, s.acquire c scope)
  else if acq ∧ scope = scCluster then
    let s := s.acquire c scope
    s.loadPlain c t pa n false
  else s.loadPlain c t pa n nt

/-- Drops the cached copies of lines: every L1 and RDC of the package. -/
def State.dropCopies (s : State) (p : Nat → Bool) : State :=
  { s with
    cores := s.cores.mapVals Core.init fun k => { k with l1 := k.l1.keep fun a _ => !p (a * 32) }
    dies := s.dies.mapVals Die.init fun k => { k with rdc := k.rdc.keep fun a _ => !p (a * 32) } }

/-- Registers the range that an engine command writes (R228): the directory recalls every cached copy. -/
def State.register (s : State) (ticket : Nat) (pieces : List (Nat × Nat)) : State :=
  let r : EngRange := ⟨ticket, pieces, []⟩
  if pieces.isEmpty then s
  else (s.dropCopies fun a => r.touches (a / 128)).modMem fun m => { m with ranges := m.ranges ++ [r] }

/-- An engine's write: at the home, with no cached copy left behind. -/
def State.engineWrite (s : State) (pa : Nat) (bs : List Byte) (mark : Bool) : State :=
  (s.writeHome pa bs mark).dropCopies fun a => decide (pa / 32 * 32 ≤ a ∧ a < pa + bs.length)

/-! ### Accesses of the device that may have to wait (R228) -/

/-- Performs an access of the device: an addition to a word, or a write; none where it must wait. One without a translation or to sealed
memory (R286), and an addition to a management register, have no effect. -/
def State.deviceTry (s : State) (x : DeviceOp) : Option State :=
  match engineXlate s x.die x.asid x.runtime (if x.add.isSome then Need.atomic else Need.store) x.va with
  | (.error none, _) => none
  | (.error (some _), s) => some s
  | (.ok pa, s) =>
    if s.blocked pa none then none
    else if s.mem.sealed pa then some s
    else match x.add with
      | some n =>
        let w := x.data.length
        if isMgmt pa then some s
        else some (s.engineWrite pa (natBytes w (bytesN (s.mem.read pa w) + n)) (s.mem.mark pa w))
      | none => some (s.engineWrite pa x.data x.mark)

/-- An access of the device: performed, or kept until what it waits for has ended. -/
def State.device (s : State) (x : DeviceOp) : State :=
  (s.deviceTry x).getD (s.modSched fun y => { y with deferred := y.deferred ++ [x] })

/-- The accesses that waited are tried again, in order. -/
def State.retryDevice (s : State) : State :=
  s.sched.deferred.foldl (fun s x => s.device x) (s.modSched fun y => { y with deferred := [] })

/-- Writes bytes at a virtual address as an engine of the device; bytes without a translation are dropped. -/
def State.deviceWrite (s : State) (d asid va : Nat) (bs : List Byte) (mark : Bool) : State :=
  s.device ⟨d, asid, true, va, none, bs, mark⟩

/-- Adds n to the word of w bytes at a virtual address by an atomic; no effect where the address has no translation. -/
def State.atomicAdd (s : State) (d asid : Nat) (va w n : Nat) : State :=
  s.device ⟨d, asid, contextRT (s.context asid), va, some n, List.replicate w 0, false⟩

/-- Releases one line of an engine's range. -/
def State.releaseLine (s : State) (ticket line : Nat) : State :=
  (s.modMem fun m => { m with ranges := m.ranges.map fun r =>
    if r.ticket = ticket then { r with released := insertNat line r.released } else r }).retryDevice

/-- Ends an engine's range. -/
def State.unregister (s : State) (ticket : Nat) : State :=
  (s.modMem fun m => { m with ranges := m.ranges.filter fun r => r.ticket != ticket }).retryDevice

/-! ### Compressed pages (R233, R234) -/

/-- The stored form of a line of a compressed page; `Memory` keeps the line that it decodes to, which is all that any reader sees (DEDUCED, log entry
112). -/
def Memory.storedForm (m : Memory) (line : Nat) : Stored := compressLine (m.read (128 * line) 128)

/-- The 128 bytes at a line's own place: its stored form, then zeros. -/
def Stored.image (f : Stored) : List Byte := (f.bytes ++ List.replicate 128 0).take 128

/-- A line leaves the L2 for memory: one of a compressed page takes its stored form there, so a poisoned sector of it, or a form that does
not decode to the line, poisons all four. -/
def Memory.writeBack (m : Memory) (line : Nat) : Memory :=
  if m.cmp.get false (line / 512) && (m.mark (128 * line) 128 || decodeLine (m.storedForm line) != some (m.read (128 * line) 128)) then
    m.markWrite (128 * line) 128 true
  else m

/-- A line leaves the L2 of a die: a dirty one is written back (R234, R433). -/
def State.dropL2 (s : State) (d line : Nat) : State :=
  let s := if ((s.die d).l2.get none line) = some true then s.modMem fun m => m.writeBack line else s
  s.modDie d fun k => { k with l2 := k.l2.set none line none }

/-- The dirty lines that the package's L2s hold of those named are written back, and stay cached (R256). -/
def State.cleanL2 (s : State) (named : Nat → Bool) : State :=
  let dirty := s.dies.flatMap fun e => e.2.l2.filterMap fun x => if x.2 = some true ∧ named x.1 then some x.1 else none
  let s := dirty.foldl (fun s u => s.modMem fun m => m.writeBack u) s
  { s with dies := s.dies.mapVals Die.init fun k =>
      { k with l2 := k.l2.mapEntries none fun u v => if named u then v.map (fun _ => false) else v } }

end Sys2Proof.Machine
end

