-- ==== Sys2Proof/Machine/Scratch.lean ====
section
/-!
DEFINITION. Scratchpad address values and their bounds (R21, R219), scratchpad reads and writes with the undo logs and
conflicts of regions (R420), arrival words (R241, R242).
-/
namespace Sys2Proof.Machine

/-- The places of a team that the control store does not hold (R297, R385): its handler block and its spill area. -/
def handlerBlock (k : Core) (m : Team) : Nat := (k.part.map (·.trapBase)).getD 0 + 256 * m.id.order
def spillArea (k : Core) (m : Team) : Nat := (k.part.map (·.trapBase)).getD 0 + 8192 + 1024 * m.id.order

/-- [off, off + n) lies in [base, base + size). -/
def within (off n base size : Nat) : Bool := base ≤ off && off + n ≤ base + size

/-- The core of a rank in the cluster of a core, if a peer access of the launch may name it (R219). -/
def peerCore (k : Core) (c : Nat) (m : Team) (rank : Nat) : Option Nat :=
  match k.part with
  | none => none
  | some p =>
    if p.clusters then (coresOfCluster (clusterOf c))[rank]?
    else if rank = m.id.rank then some c else none

/-- A place of a core store named by a scratchpad address value: the core, the offset, and whether PEER named it. -/
structure Place where
  core : Nat
  off : Nat
  peer : Bool
deriving DecidableEq, Repr

/-- The bounds of R21 and R219 on n bytes at a scratchpad address value; `wide`: the trap reserve may be named. -/
def scratchPlace (s : State) (c : Nat) (m : Team) (wide : Bool) (va : Word) (n : Nat) : Option Place :=
  let v := va.toNat
  let k := s.core c
  let off := v % 2 ^ 20
  match k.part with
  | none => none
  | some p =>
    if v / 2 ^ 24 ≠ 0 then none
    else if bit v 23 then
      match peerCore k c m (bits v 20 3) with
      | none => none
      | some q =>
        if within off n p.spBase p.spSize then
          let base := ((s.core q).part.map (·.spBase)).getD 0
          some ⟨q, base + (off - p.spBase), true⟩
        else none
    else if within off n m.id.regwin (windowBytes m.id.lanes m.id.vregs) || within off n p.spBase p.spSize ||
        (wide && within off n p.trapBase (p.l1Base - p.trapBase)) then some ⟨c, off, false⟩
    else none

/-- A team may name the trap reserve: it is in handler state (R21). -/
def Team.wide (m : Team) : Bool := m.trap.handler

/-- A store to the frame copies outside handler state (R298). -/
def frameStore (m : Team) (p : Place) (n : Nat) : Bool :=
  !p.peer && !m.trap.handler && p.off < m.id.regwin + 0x400 && m.id.regwin + 0x200 < p.off + n

/-- The checks of a scratchpad access by a team (R235): MISALIGNED, then SCRATCH_BOUNDS. -/
def checkScratch (s : State) (c : Nat) (m : Team) (store : Bool) (va : Word) (n : Nat) : Except Raise Place :=
  if va.toNat % n ≠ 0 then .error ⟨.misaligned, va, 0⟩
  else match scratchPlace s c m m.wide va n with
    | none => .error ⟨.scratchBounds, va, 0⟩
    | some p => if store && frameStore m p n then .error ⟨.scratchBounds, va, 0⟩ else .ok p

/-- The aligned 32-byte sectors that n bytes at an offset touch. -/
def sectorsOf (off n : Nat) : List Nat := (List.range ((off + n + 31) / 32 - off / 32)).map (off / 32 + ·)

/-- The address value of a sector of core q as a team of core c names it (R219, R420). -/
def sectorAddr (c q sector : Nat) : Nat :=
  if q = c then sector * 32 else 2 ^ 23 + rankOf (coreX q) (coreY q) * 2 ^ 20 + sector * 32

/-- A sector belongs to no register window: its first store in a region is logged (R420). -/
def Core.logged (k : Core) (sector : Nat) : Bool := k.windowEnd ≤ sector * 32

/-- The undo entries that writing places of a core store adds to a team's open region (R420). -/
def newUndo (s : State) (c : Nat) (g : Region) (q : Nat) (sectors : List Nat) : List Undo :=
  sectors.foldl (fun acc u =>
    if !(s.core q).logged u || (g.undo ++ acc).any (fun e => e.core == q && e.off == u * 32) then acc
    else acc ++ [⟨q, sectorAddr c q u, u * 32, (s.core q).markOf (u * 4), (List.range 4).map fun i => (s.core q).store.get 0 (u * 4 + i)⟩]) []

/-- A write to logged sectors by another agent than team (c, t) sets CONFLICT in the regions that logged them (R420). -/
def State.conflicts (s : State) (own : Option (Nat × Nat)) (q : Nat) (sectors : List Nat) : State :=
  let touched (g : Region) : Bool := g.undo.any fun e => e.core == q && sectors.contains (e.off / 32)
  { s with cores := s.cores.mapVals Core.init fun k =>
      { k with teams := k.teams.map fun e => (e.1, e.2.map fun m =>
          match m.region with
          | some g => if touched g then { m with region := some { g with conflict := true } } else m
          | none => m) } }
  |> fun s' =>
    match own with
    | none => s'
    | some (c, t) =>
      match (s.team c t).bind (·.region) with
      | some g => s'.modTeam c t fun m => { m with region := m.region.map fun x => { x with conflict := g.conflict } }
      | none => s'

/-- Bytes written to the frame copies of a team in handler state take effect at its `s.eret` (R298): they are noted. -/
def Core.noteFrame (k : Core) (off n : Nat) : Core :=
  { k with teams := k.teams.map fun e => (e.1, e.2.map fun m =>
      let f := m.id.regwin + 0x200
      if m.trap.handler ∧ off < f + 512 ∧ f < off + n then
        { m with trap := { m.trap with frame := (List.range 512).foldl (fun b i =>
            if off ≤ f + i ∧ f + i < off + n then setBit b i true else b) m.trap.frame } }
      else m) }

/-- An 8-byte unit of a window that is RES0: a reserved row of a frame (R298), or beyond the last register slot (R299). -/
def Core.reserved (k : Core) (unit : Nat) : Bool :=
  k.residents.any fun e =>
    let lo := e.2.id.regwin / 8
    let tail := lo + 128 + e.2.id.lanes * e.2.id.vregs
    decide ((lo + 77 ≤ unit ∧ unit < lo + 80) ∨ (lo + 112 ≤ unit ∧ unit < lo + 128) ∨
      (tail ≤ unit ∧ unit < lo + windowBytes e.2.id.lanes e.2.id.vregs / 8))

/-- A scratchpad write to a core store: the units that are RES0 ignore it (R7, R299). -/
def Core.put (k : Core) (off : Nat) (bs : List Byte) (mark : Bool) : Core :=
  let k := k.write off bs mark
  if k.windowEnd ≤ off then k
  else ((List.range ((off + bs.length + 7) / 8 - off / 8)).map (off / 8 + ·)).foldl (fun k u =>
    if k.reserved u then k.setUnit u ⟨0, false⟩ else k) k

/-- The scratchpad write of an engine (R420, R222). -/
def State.engineScratch (s : State) (q off : Nat) (bs : List Byte) (mark : Bool) : State :=
  if bs.isEmpty then s
  else (s.conflicts none q (sectorsOf off bs.length)).modCore q fun k => (k.put off bs mark).noteFrame off bs.length

/-- The scratchpad write of a team: it acts when its word issues, also on a register slot that a later word names, an order that R298 leaves
open (DESIGN CHOICE, log entry 96). Its region logs the sectors and loses MOVABLE (R419, R420). -/
def State.teamScratch (s : State) (c t : Nat) (p : Place) (bs : List Byte) (mark : Bool) : State :=
  let sectors := sectorsOf p.off bs.length
  let s := s.conflicts (some (c, t)) p.core sectors
  let s := match (s.team c t).bind (·.region) with
    | some g =>
      let add := newUndo s c g p.core sectors
      s.modTeam c t fun m => { m with region := some { g with undo := g.undo ++ add, movable := false, passes := false, peer := g.peer || p.peer } }
    | none => s
  s.modCore p.core fun k => (k.put p.off bs mark).noteFrame p.off bs.length

/-- An access that clears MOVABLE of the team's region (R419): a peer access, which the region also notes (R431). -/
def State.peerTouch (s : State) (c t : Nat) (p : Place) : State :=
  if p.peer then s.modTeam c t fun m => { m with region := m.region.map fun g => { g with movable := false, peer := true } } else s

/-! ### Arrival words (R241, R242) -/

/-- Repeats the subtraction of TARGET: COUNT and how many generations complete. -/
def generations (target count : Nat) : Nat × Nat :=
  if target = 0 then (count, 0) else (count % target, count / target)

/-- A contribution of b bytes to the arrival word at an offset, with its cause and whether marked data was written. -/
def State.contribute (s : State) (q off b cause : Nat) (poison : Bool) : State :=
  let k := s.core q
  let target := k.readN off 4
  let (count, gens) := generations target ((k.readN (off + 4) 4 + b) % 2 ^ 32)
  let gen := (k.readN (off + 8) 4 + gens) % 2 ^ 32
  let old := k.readN (off + 12) 4
  let cause' := if bits old 4 4 = 0 then cause else bits old 4 4
  let flags := old / 256 * 256 + cause' * 16 + bits old 2 2 * 4 + (bit old 1 || poison).toNat * 2 + (bit old 0 || cause != 0).toNat
  s.engineScratch q off (natBytes 4 target ++ natBytes 4 count ++ natBytes 4 gen ++ natBytes 4 flags)
    (k.read off 16).2

/-- Whether the generation of an arrival word has passed g (R244). -/
def Core.passed (k : Core) (off g : Nat) : Bool :=
  let d := (k.readN (off + 8) 4 + 2 ^ 32 - g % 2 ^ 32) % 2 ^ 32
  1 ≤ d && d < 2 ^ 31

end Sys2Proof.Machine
end

