-- ==== Sys2Proof/Machine/Region.lean ====
section
/-!
DEFINITION. Regions (R415 to R425): records and snapshots, stores that leave a core (R225, R427, R429), commit, discard
and restore, the recovery sequence of Speedwell.
-/
namespace Sys2Proof.Machine

/-- The launch modes (R335, R415). -/
def modeNone : Nat := 0
def modeRegion : Nat := 1
def modeSnapshot : Nat := 2
def modeDual : Nat := 3

/-- The launch mode of a core. -/
def Core.mode (k : Core) : Nat := (k.part.map (·.mode)).getD 0

/-- REGION_ID (R417). -/
def Team.regionId (m : Team) : Word :=
  match m.region with
  | none => wordN (m.seq % 2 ^ 32 * 2 ^ 32)
  | some g => wordN (m.seq % 2 ^ 32 * 2 ^ 32 + 2 ^ 31 + g.movable.toNat * 2 ^ 30 + g.record.snap.isSome.toNat * 2 ^ 29 +
      g.scope * 2 ^ 26 + g.moves * 2 ^ 24 + g.attempt * 2 ^ 20 + g.tag)

/-- LEASE (R347). -/
def Lease.reg (l : Lease) : Word :=
  wordN (l.overBit.toNat * 2 ^ 34 + l.solo.toNat * 2 ^ 33 + l.auto.toNat * 2 ^ 32 + l.decl * 2 ^ 16 + l.cur)

/-! ### Stores that leave the core (R225, R427, R429) -/

/-- The pixel that a marked lane store substitutes for, if the policy names it: the error-plane word and the bit (R429). -/
def Team.substitute (m : Team) (x : Store) : Option (Word × Nat × BitVec 32) :=
  match m.ctl.subst with
  | none => none
  | some b =>
    if m.ctl.policy.getLsbD 2 ∧ x.mark ∧ x.lane32 ∧ b.fb.toNat ≤ x.va.toNat ∧ x.va.toNat < b.fb.toNat + b.bytes then
      let o := x.va.toNat - b.fb.toNat
      some (word (b.eplane.toNat + 4 * (o / 128) : Int), o / 4 % 32, b.val)
    else none

/-- A MACHINE_CHECK that waits for the team's next switch marker (R385), its record logged. One that is raised in handler state
is a double fault (R388); the team ends at that marker. -/
def State.machineCheck (s : State) (c t : Nat) (r : LogRecord) : State :=
  let (r, s) := s.log (dieOf c) r
  s.modTeam c t fun m => m.modTrap fun x => { x with mchecks := x.mchecks ++ [(r, x.handler)] }

/-- A store of a team leaves its core: a marked one is substituted (R429) or reported (R427). A fault of the error plane
becomes a trap that waits for the team (DEDUCED, log entry 12). -/
def State.leaveTeam (s : State) (c : Nat) (m : Team) (x : Store) : State :=
  match m.substitute x with
  | some (plane, b, val) =>
    let s := s.leave c { x with data := natBytes 4 val.toNat, mark := false }
    match checkAccess s c m Need.atomic true plane 4 with
    | (.ok pa, s) =>
      let s := s.flushSector c pa
      s.performStore c { x with pa, data := natBytes 4 (bytesN (s.mem.read pa 4) ||| 2 ^ b), mark := s.mem.mark pa 4 }
    | (.bad r, s) =>
      s.modTeam c x.team fun m => m.modTrap fun y => { y with pending := y.pending ++ [⟨r, none, none⟩] }
    | (.wait, s) => s
  | none =>
    let s := s.leave c x
    if x.mark ∧ m.ctl.policy.getLsbD 1 then
      s.machineCheck c x.team (teamRecord s c m 13 6 (wordN x.pa))
    else s

/-- The error-plane word of a substituted store is registered by an engine: the store waits (R228). -/
def substBlocked (s : State) (c : Nat) (m : Team) (xs : List Store) : Bool :=
  xs.any fun x => match m.substitute x with
    | some (plane, _, _) => decide ((checkAccess s c m Need.atomic true plane 4).1 = .wait)
    | none => false

/-- The lines that a team's region stores pin (R225). -/
def Region.pinned (g : Region) : List Nat := sortNats (g.held.map fun h => h.pa / 128)

/-- The lines that a team's lease holds (R225): 8 per granule. -/
def Lease.capacity (l : Lease) : Nat := if l.auto then l.lines else l.decl * 8

/-- Holding stores to these lines would overflow the region buffer (R225). The word that an overflow held is let through as the first of its
new region (DEDUCED, log entry 13). -/
def overflows (k : Core) (m : Team) (g : Region) (lines : List Nat) : Bool :=
  let mine := sortNats (g.pinned ++ lines)
  let all := (k.residents.map fun e => match e.2.region with | some r => r.pinned.length | none => 0).foldl (· + ·) 0
  !g.passes && mine.length != g.pinned.length &&
  (mine.length > m.lease.capacity || (all + (mine.length - g.pinned.length)) * 2 > k.shareLines)

/-! ### Records (R418, R424) -/

/-- The accumulator rows of a team's window, as they stand. -/
def windowRows (k : Core) (lo hi : Nat) : List AccUndo :=
  (List.range (hi - lo)).map fun i =>
    ⟨lo + i, (List.range 32).map fun j => k.acc.get 0 ((lo + i) * 32 + j),
     (List.range 64).map fun j => k.accMarks.get false ((lo + i) * 64 + j)⟩

/-- Puts accumulator rows back. -/
def Core.putRows (k : Core) (rows : List AccUndo) : Core :=
  rows.foldl (fun k r =>
    { k with
      acc := ((List.range 32).zip r.data).foldl (fun a e => a.set 0 (r.row * 32 + e.1) e.2) k.acc
      accMarks := ((List.range 64).zip r.marks).foldl (fun a e => a.set false (r.row * 64 + e.1) e.2) k.accMarks }) k

/-- The 8-byte units of a team's window. -/
def Team.units (m : Team) : List Nat :=
  (List.range (windowBytes m.id.lanes m.id.vregs / 8)).map (m.id.regwin / 8 + ·)

/-- What a core store holds of a team outside its window: its handler block and its spill area, as 32-byte sectors. -/
def reserveSectors (k : Core) (m : Team) : List Nat :=
  (List.range 8).map (handlerBlock k m / 32 + ·) ++ (List.range 32).map (spillArea k m / 32 + ·)

/-- A snapshot of a team (R424). -/
def snapshotOf (k : Core) (m : Team) : Snapshot :=
  { window := m.units.map k.dword, acc := windowRows k m.regs.accBase m.regs.accLimit, ctl := m.ctl,
    trap := m.trap.regs, slongs := m.regs.slongs, klongs := m.regs.klongs, lease := m.lease, accBase := m.regs.accBase,
    accLimit := m.regs.accLimit, outer := m.trap.outer,
    reserve := (reserveSectors k m).map fun u => (u, (List.range 4).map fun i => k.store.get 0 (4 * u + i), k.sectorMarks.get false u) }

/-- A team as a snapshot has it: what it declared of its lease, the accumulator window, outer trap values. The lease bits that tell how
the team is scheduled now stay (R347). -/
def Snapshot.restore (x : Snapshot) (m : Team) : Team :=
  { m with
    lease := { x.lease with overBit := m.lease.overBit, solo := m.lease.solo }
    regs := { m.regs with slongs := x.slongs, klongs := x.klongs, accBase := x.accBase, accLimit := x.accLimit }
    ctl := x.ctl
    trap := { m.trap with regs := x.trap, outer := x.outer } }

/-- The region record of a team at an entry address (R418). -/
def recordOf (s : State) (c : Nat) (m : Team) (entry smask : Word) (first count : Nat) (snap : Bool) : Record :=
  let k := s.core c
  { rid := m.regionId, entry, smask, sregs := (List.range 64).map fun i => k.sreg m i, count, first,
    lanes := (List.range count).flatMap fun j => (List.range m.id.lanes).map fun l => k.vreg m (first + j) l,
    fpflags := m.regs.fpflags, fpctl := m.regs.fpctl, k := m.regs.k, kmark := m.regs.kmark, home := physCore s c,
    live := m.ctl.live, preds := m.ctl.preds, predMarks := m.ctl.predMarks, pending := m.trap.pending,
    snap := if snap then some (snapshotOf k m) else none }

/-! ### The checkpoint areas (R416)

No program, host or engine reaches them, so what they hold is kept as data: the record, the logs and the snapshot in Region, the copies in
Snapshot. The functions below say where it lies and how (DEDUCED, log entry 112). -/

/-- The physical address of a core's checkpoint area, in the reserved memory of its die (R406, R416). -/
def State.checkpointArea (s : State) (c : Nat) : Nat :=
  s.boot.podSlot * 2 ^ 46 + dieOf c * 0x2000000000 + 0x1FC0000000 + 0x20000000 + 0x400000 * (16 * (coreY c % 8) + coreX c % 16)
/-- The place of a window byte's copy: the window shadow. -/
def State.shadowAt (s : State) (c off : Nat) : Nat := s.checkpointArea c + off
/-- The place of an accumulator row's copy: the mirror. -/
def State.mirrorAt (s : State) (c row : Nat) : Nat := s.checkpointArea c + 0x100000 + 256 * row
/-- The places of a team's region record, scratchpad undo log and control image, by its rank among the launch's teams of the core. -/
def State.recordAt (s : State) (c : Nat) (m : Team) : Nat := s.checkpointArea c + 0x140000 + 0x800 * m.id.order
def State.undoAt (s : State) (c : Nat) (m : Team) : Nat := s.checkpointArea c + 0x150000 + 0x10000 * m.id.order
def State.imageAt (s : State) (c : Nat) (m : Team) : Nat := s.checkpointArea c + 0x350000 + 0x4000 * m.id.order

/-- The 2 KiB of a region's record (R418). A scalar register that SMASK does not name has zeros. -/
def Region.bytes (g : Region) : List Byte :=
  let r := g.record
  let attributes := r.first + r.count * 2 ^ 8 + g.attempt * 2 ^ 20 + g.moves * 2 ^ 24 + g.scope * 2 ^ 26 + g.movable.toNat * 2 ^ 29 +
    r.snap.isSome.toNat * 2 ^ 30 + g.valid.toNat * 2 ^ 31
  let pmark := ((List.range 7).map fun i => if r.predMarks.getD i 0 = 0 then 0 else 2 ^ i).foldl (· + ·) 0
  let smark := ((List.range 64).map fun i => (r.sregs.getD i ⟨0, false⟩).mark.toNat * 2 ^ i).foldl (· + ·) 0
  natBytes 8 r.rid.toNat ++ natBytes 8 r.entry.toNat ++ natBytes 8 r.smask.toNat ++ natBytes 4 attributes ++
    natBytes 4 (g.undo.length + g.accLog.length * 2 ^ 16) ++ natBytes 8 r.fpflags.toNat ++
    natBytes 8 (r.k.toNat + r.kmark.toNat * 2 ^ 8 + pmark * 2 ^ 16) ++ natBytes 8 smark ++ natBytes 8 r.home ++ natBytes 64 0 ++
    natBytes 128 r.live.toNat ++ ((List.range 7).flatMap fun i => natBytes 128 (r.preds.getD i 0).toNat) ++
    ((List.range 64).flatMap fun i => natBytes 8 (if r.smask.getLsbD i then (r.sregs.getD i ⟨0, false⟩).val.toNat else 0)) ++
    natBytes 8 r.fpctl.toNat ++ natBytes 0x178 0

/-- Opens a region (R439, R441). -/
def State.openRegion (s : State) (c t : Nat) (tag scope : Nat) (movable : Bool) (r : Record) : State :=
  let g : Region :=
    { tag := tag, scope := scope, movable := movable, moves := 0, attempt := 0, valid := false, noRecord := false,
      conflict := false, extra := false, overflow := false, passes := false, held := [], undo := [], accLog := [], record := r, recovery := .idle,
      causes := [], check := none, errors := [], moveSince := 0, opened := s.ticket, unreadable := false, peer := false }
  s.modTeam c t fun m => { m with region := some g }

/-! ### Discard (R389, R423) -/

/-- Writes the undo log back in reverse order (R423). -/
def State.undoScratch (s : State) (log : List Undo) : State :=
  log.reverse.foldl (fun s e => s.modCore e.core fun k =>
    let k := ((List.range 4).zip e.data).foldl (fun k d => { k with store := k.store.set 0 (e.off / 8 + d.1) d.2 }) k
    { k with sectorMarks := k.sectorMarks.set false (e.off / 32) e.mark }) s

/-- Drops what a region holds back, its outstanding results and the team's queued matrix commands; without CONFLICT its logs are written back
(R180, R389, R423). -/
def State.discard (s : State) (c t : Nat) : State :=
  match (s.team c t).bind (·.region) with
  | none => s
  | some g =>
    let s := if g.conflict then s
      else (s.undoScratch g.undo).modCore c fun k => k.putRows g.accLog.reverse
    (s.modCore c fun k => { k with matrix := k.matrix.filter fun x => x.team != t }).modTeam c t fun m =>
      { m with region := some { g with held := [], undo := [], accLog := [] }, pend := m.pend.filter fun p => p.ticket < g.opened }

/-! ### Restore (R423) -/

/-- The control state of a restored team without a snapshot: no block, no split, no latch. -/
def Ctl.restored (x : Ctl) (r : Record) : Ctl :=
  { x with live := r.live, preds := r.preds, predMarks := r.predMarks, splits := [], joins := [], spills := [],
           queue := [], running := none, hqueue := [], hrunning := none }

/-- Restores the record's registers into the core store: the whole window of a snapshot, else the live-ins. -/
def Core.restoreWindow (k : Core) (m : Team) (r : Record) : Core :=
  match r.snap with
  | some x => x.reserve.foldl (fun k e => { k with
      store := ((List.range 4).zip e.2.1).foldl (fun y d => y.set 0 (4 * e.1 + d.1) d.2) k.store
      sectorMarks := k.sectorMarks.set false e.1 e.2.2 }) (((m.units.zip x.window).foldl (fun k e => k.setUnit e.1 e.2) k).putRows x.acc)
  | none =>
    let k := ((List.range 64).zip r.sregs).foldl (fun k e => if r.smask.getLsbD e.1 then k.setSreg m e.1 e.2 else k) k
    ((List.range (r.count * m.id.lanes)).zip r.lanes).foldl
      (fun k e => k.setVreg m (r.first + e.1 / m.id.lanes) (e.1 % m.id.lanes) e.2) k

/-- The team as the record of its region left it, ready to issue from ENTRY (R423). -/
def State.restoreRecord (s : State) (c t : Nat) : State :=
  match s.team c t with
  | none => s
  | some m =>
    match m.region with
    | none => s
    | some g =>
      let r := g.record
      let n := match r.snap with
        | some x => x.restore m
        | none => { m with
            regs := { m.regs with
              slongs := m.pend.foldl (fun b (p : LongRes) => p.sregs.foldl (fun b (e : Nat × Marked) => setBit b e.1 true) b) 0
              klongs := m.pend.foldl (fun b (p : LongRes) => p.ks.foldl (fun b (e : Nat × Bool × Bool) => setBit b e.1 true) b) 0 }
            ctl := m.ctl.restored r }
      let m' := { n with
        regs := { n.regs with spc := r.entry, k := r.k, kmark := r.kmark, fpctl := r.fpctl, fpflags := r.fpflags }
        trap := { n.trap with pending := r.pending }
        sched := { m.sched with hold := none, parked := false } }
      (s.modCore c fun k => k.restoreWindow m r).setTeam c t (some m')

/-! ### The recovery sequence (R423, R424) -/

/-- A replayable detection for a team with an open region: HALT (R423). -/
def State.halt (s : State) (c t : Nat) (r : LogRecord) : State :=
  s.modTeam c t fun m => { m with region := m.region.map fun g => { g with recovery := .halt, causes := g.causes ++ [r] } }

/-- A detection is replayable for a team (R414, R421). -/
def Team.replayable (m : Team) (k : Core) : Bool :=
  k.mode != modeNone && (match m.region with | some g => !g.noRecord | none => false)

/-- No attempt is left to a region after its present one (R424, R442, R469). -/
def Region.lastAttempt (g : Region) : Bool :=
  if g.movable then g.attempt ≥ 2 && (g.moves ≥ 2 || g.extra)
  else if g.record.snap.isSome then g.extra
  else g.attempt ≥ 2

/-- Issue is stopped: a recovery is between HALT and REPLAY (R423), or the region buffer waits for its snapshot (R424). -/
def Team.halted (m : Team) : Bool :=
  match m.region with
  | some g => g.overflow || g.recovery == .halt || g.recovery == .discard || g.recovery == .restore
  | none => false

/-- A word that would overflow the region buffer is held, and the team parks (R424). -/
def State.overflow (s : State) (c t : Nat) : State :=
  s.modTeam c t fun m => { m with region := m.region.map fun g => { g with overflow := true } }

/-! ### Commit (R422, R288) -/

/-- The outcome of a commit. -/
inductive Commit where
  /-- committed; the team is now on core c -/
  | done (s : State) (c : Nat)
  /-- the commit waits (R422 step 1; a DUAL mismatch, R431) -/
  | wait
  /-- a page was sealed since a store was held: the region was discarded and restored (R288) -/
  | sealed (s : State)
  /-- the same, and the region carries CONFLICT: the team must end with this record (R288) -/
  | fatal (s : State) (r : LogRecord)

/-- Copies sectors outside the windows from one core store to the same places of another, with their marks. -/
def Core.copySectors (j k : Core) (sectors : List Nat) : Core :=
  sectors.foldl (fun j u => { j with
    store := (List.range 4).foldl (fun m i => m.set 0 (u * 4 + i) (k.store.get 0 (u * 4 + i))) j.store
    sectorMarks := j.sectorMarks.set false u (k.sectorMarks.get false u) }) j

/-- Copies what belongs to a team alone from one core store to another: window, accumulator window, its part of the trap reserve. -/
def Core.copyTeam (j k : Core) (m : Team) : Core :=
  ((m.units.foldl (fun j u => j.setUnit u (k.dword u)) j).putRows (windowRows k m.regs.accBase m.regs.accLimit)).copySectors k
    (reserveSectors k m)

/-- Moves a team back to the core that its region was opened on (R424). -/
def State.goHome (s : State) (c t h : Nat) : State :=
  match s.team c t with
  | none => s
  | some m =>
    let k := s.core c
    let s := s.modCore h fun j => j.copyTeam k m
    let s := s.modCore c fun j => { j with teams := j.teams.set none t none, part := none }
    s.setTeam h t (some { m with home := none })

/-- Every earlier long result has returned and every earlier store has left (R303, R422). -/
def drained (s : State) (c t : Nat) (m : Team) : Bool :=
  m.pend.isEmpty && (s.core c).inflight.all (fun x => x.team != t)

/-- The stores of a team are performed at home (R269). -/
def storesHome (s : State) (c t : Nat) : Bool := (s.core c).inflight.all fun x => x.team != t

/-- The scratchpad sectors that a moved region has written go home with it (DEDUCED, log entry 41). -/
def State.sectorsHome (s : State) (c h : Nat) (sectors : List Nat) : State :=
  let k := s.core c
  s.modCore h fun j => j.copySectors k sectors

/-- Commits the open region of a team (R422). The stores of a moved region leave from the core that the team has gone home to. -/
def commit (s : State) (c t : Nat) (m : Team) (g : Region) : Commit :=
  let stores := g.held.map fun h => ({ pa := h.pa, data := h.data, mark := h.mark, team := t, lane32 := h.lane32, va := h.va } : Store)
  if !drained s c t m || m.halted || m.mismatch || substBlocked s c m stores then .wait
  else match g.held.find? fun h => s.mem.sealed h.pa with
    | some h =>
      let rec0 := { teamRecord s c m 0 10 (wordN h.pa) with spc := g.record.entry }
      if g.conflict then .fatal s { rec0 with resp := 7, cause := 8 }
      else
        let s := (s.log (dieOf c) rec0).2
        .sealed ((s.discard c t).restoreRecord c t)
    | none =>
      let done (s : State) (c : Nat) : Commit := .done (stores.foldl (fun s x => s.leaveTeam c m x) s) c
      let s := s.modTeam c t fun m => { m with region := none, seq := m.seq + 1 }
      match m.home with
      | some h =>
        let written := g.undo.filterMap fun e => if e.core = c then some (e.off / 32) else none
        done ((s.sectorsHome c h written).goHome c t h) h
      | none => done s c

/-! ### Release and acquire of a team -/

/-- A release of a team at a scope may be performed: what happens before it has been (R266, R269, R448). Loads are performed when they
issue, so only stores can be on their way; those of the other teams of the core, which the team may have observed, are waited for too
(DEDUCED, log entry 108). -/
def released (s : State) (c scope : Nat) : Bool := decide (scope ≤ scCore) || (s.core c).inflight.isEmpty

/-- An engine word of a core observes every store that happens before it (R249, R254, R290): none is on its way from the core. -/
def settled (s : State) (c : Nat) : Bool := (s.core c).inflight.isEmpty

end Sys2Proof.Machine
end

