-- ==== Sys2Proof/Machine/Launch.lean ====
section
/-!
DEFINITION. Queue descriptors (R327), the end of a team (R389) and of a launch (R339), making a team resident (R339).
-/
namespace Sys2Proof.Machine

/-! ### The queue table (R327) -/

/-- The physical address of queue q's descriptor. -/
def State.queuePa (s : State) (q : Nat) : Nat := s.boot.qtBase + 64 * q
/-- The descriptor's dwords. -/
def State.queueDesc (s : State) (q : Nat) : List Word := dwordsOf (s.mem.read (s.queuePa q) 64)
def qBase (d : List Word) : Nat := dw d 0
def qHead (d : List Word) : Nat := field d 0x08 0 32
def qTail (d : List Word) : Nat := field d 0x0C 0 32
def qAsid (d : List Word) : Nat := field d 0x10 16 16
def qLog (d : List Word) : Nat := field d 0x10 8 5
def qScope (d : List Word) : Nat := field d 0x10 5 3
def qPrio (d : List Word) : Nat := field d 0x10 0 5
def qGraph (d : List Word) : Nat := field d 0x14 16 12
def qKind (d : List Word) : Nat := field d 0x14 0 2
def qNode (d : List Word) : Nat := dw d 3
def qStats (d : List Word) : Nat := dw d 4
def qSignal (d : List Word) : Nat := dw d 6
def qCount (d : List Word) : Nat := (qTail d + 2 ^ 32 - qHead d) % 2 ^ 32

/-- The descriptor breaks a rule of R327: the queue is treated as unused. -/
def queueBroken (d : List Word) : Bool :=
  field d 0x10 13 3 != 0 || field d 0x14 28 4 != 0 || field d 0x14 2 14 != 0 || field d 0x2C 8 24 != 0 || dw d 7 != 0 ||
  (qKind d == 1 && qNode d != 0) || (qKind d != 2 && qSignal d != 0) || qKind d == 3 || qScope d == 7 ||
  decide (23 < qPrio d) || decide (20 < qLog d)

/-- More entries than the array holds (R328). -/
def queueOverfull (d : List Word) : Bool := decide (2 ^ qLog d < qCount d)

/-- Writes a device-written field of a queue's descriptor. -/
def State.queueField (s : State) (q off w v : Nat) : State :=
  s.modMem fun m => m.write (s.queuePa q + off) (natBytes w v) (m.mark (s.queuePa q + off) w)

/-- Counts n in a counter of a queue's statistics block (R366). -/
def State.count (s : State) (q off n : Nat) : State :=
  let d := s.queueDesc q
  if qStats d = 0 ∨ n = 0 then s else s.atomicAdd (q % 4) (qAsid d) (qStats d + off) 8 n

/-! ### Rings (R357, R358) -/

/-- Marks a ring BROKEN: bit 1 of offset 0x18 of its header. -/
def State.breakRing (s : State) (c : Nat) (m : Team) (addr : Nat) : State :=
  match scratchPlace s c m true (wordN addr) 64 with
  | none => s
  | some p =>
    let k := s.core p.core
    s.engineScratch p.core (p.off + 0x18) (natBytes 4 (k.readN (p.off + 0x18) 4 ||| 2)) false

/-- Takes a producer's bit from a ring's PMASK. -/
def State.closeRing (s : State) (c : Nat) (m : Team) (addr bitNo : Nat) : State :=
  match scratchPlace s c m true (wordN addr) 64 with
  | none => s
  | some p =>
    let k := s.core p.core
    let v := k.readN (p.off + 0x10) 8
    s.engineScratch p.core (p.off + 0x10) (natBytes 8 (if bit v bitNo then v - 2 ^ bitNo else v)) false

/-! ### The end of a launch (R339) -/

/-- The completion of a launch on this package: 1 is added to its completion word. -/
def State.complete (s : State) (queue asid : Nat) (desc : List Word) : State :=
  if dw desc 6 = 0 then s else s.atomicAdd (queue % 4) asid (dw desc 6) 8 1

/-- A core that its launch has left: its teams, barriers, engines' work for it and its partition go; what belongs to the core
itself stays. -/
def Core.leave (k : Core) : Core :=
  { k with part := none, teams := [], barriers := [], matrix := [], matrixTurn := 0, streams := [], divider := none,
           admitHold := none }

/-- Frees the cores that a launch holds. -/
def State.freeCores (s : State) (l : Nat) : State :=
  { s with cores := s.cores.mapVals Core.init fun k =>
      if (k.part.map (·.launch)) = some l then k.leave else k }

/-- The launch's last team has retired on this package (R339): completion, its cores are freed. -/
def State.finishLaunch (s : State) (l : Nat) (x : Launch) : State :=
  let s := s.complete x.queue x.asid x.desc
  let s := if x.graph = 0 then s else s.setQueue x.queue { s.queue x.queue with instance_ := none }
  (s.freeCores l).setLaunch l none

/-- A launch whose teams have all left ends once every store of its cores is performed at home (R339, R463). -/
def State.launchDone (s : State) (l : Nat) : State :=
  match s.launch l with
  | none => s
  | some x =>
    if x.live = 0 && s.cores.all (fun e => (e.2.part.map (·.launch)) != some l || e.2.inflight.isEmpty) then s.finishLaunch l x else s

/-- A team has left its core: when it was the launch's last, the launch ends. -/
def State.teamGone (s : State) (l : Nat) : State :=
  match s.launch l with
  | none => s
  | some x => (s.setLaunch l (some { x with live := x.live - 1 })).launchDone l

/-- A store of a core has been performed: the launch that holds the core may end with it. -/
def State.launchDrained (s : State) (c : Nat) : State :=
  match (s.core c).part with
  | none => s
  | some p => s.launchDone p.launch

/-- The issuer of collectives has ended: a slot that has ended is freed, another when it ends (R461). -/
def State.orphan (s : State) (launch t : Nat) : State :=
  s.modSched fun x => { x with collectives := x.collectives.mapEntries none fun _ v =>
    match v with
    | some y => if y.launch = launch ∧ y.team = t then (if y.code.isSome then none else some { y with orphan := true }) else v
    | none => none }

/-- Takes a team from its core, with what it had queued there; the core that a moved region ran on is freed, and the stores on their way
from it count with the home core's. -/
def State.removeTeam (s : State) (c t : Nat) : State :=
  match s.team c t with
  | none => s
  | some m =>
    let sent := (s.core c).inflight
    let s := s.modCore c fun k =>
      { k with
        teams := k.teams.set none t none
        part := if m.home.isSome then none else k.part
        matrix := k.matrix.filter fun x => x.team != t
        divider := match k.divider with | some (u, a, b) => if u = t then none else some (u, a, b) | none => none
        admitHold := if k.admitHold = some t then none else k.admitHold
        inflight := if m.home.isSome then [] else k.inflight }
    let s := match m.home with
      | some h => s.modCore h fun k => { k with inflight := k.inflight ++ sent }
      | none => s
    ((s.orphan m.id.launch t).clearOver c).teamGone m.id.launch

/-- A team retires through `s.exit` or absorption (R317, R325, R358): its open rings are closed. -/
def State.retire (s : State) (c t : Nat) : State :=
  match s.team c t with
  | none => s
  | some m => (m.rings.foldl (fun s r => s.closeRing c m r.1 r.2) s).removeTeam c t

/-- The end of a team under R389: the region is discarded, its rings become BROKEN, one record reports the end. -/
def State.endTeam (s : State) (c t : Nat) (r : LogRecord) : State :=
  match s.team c t with
  | none => s
  | some m =>
    let s := s.discard c t
    let (_, s) := s.log (dieOf c) r
    (m.rings.foldl (fun s x => s.breakRing c m x.1) s).removeTeam c t

/-- The record of a team ended for a trap cause (R389). -/
def endRecord (s : State) (c : Nat) (m : Team) (cause : Nat) : LogRecord :=
  { teamRecord s c m 0 6 0 with cause }

/-! ### A team made resident (R339) -/

/-- The lease at a team's start (R348). -/
def Lease.start (auto : Bool) (g now : Nat) : Lease :=
  { overBit := false, solo := false, auto, decl := g, lines := g * 8, victims := [], hit := false, raised := false, decayed := now }

/-- A fresh team: every register zero but SPC and s0, every lane live. -/
def Team.start (id : TeamId) (lease : Lease) (now : Nat) : Team :=
  { id
    regs := { spc := id.entry, k := 1, kmark := 0, fpctl := 0, fpflags := 0, slongs := 0, klongs := 0, accBase := 0, accLimit := 0,
              pstat := 0, bkpt := [0, 0, 0, 0] }
    ctl := Ctl.init (maskBelow id.lanes)
    trap := { regs := ⟨0, 0, 0, 0, 0⟩, handler := false, split := none, lanes := 0, frame := 0, outer := [], pending := [], mchecks := [], preempt := none,
              record := none, skipDebug := false, yielded := false }
    lease
    sched := { state := .ready, since := now, lastScalar := now, lastLane := now, parked := false, yielding := false,
               hold := none, holdW := false, holdSince := 0, holdUntil := 0, empties := 0, lowPoll := false,
               spin := Spin.init, started := true }
    seq := 0, region := none, pend := [], rings := [], wdq := 0, tally := [], mismatch := false, home := none }

/-- The partition of a core set up (R20, R155, R220): windows in ascending TEAM_INDEX, every byte of scratchpad, trap reserve
and accumulator memory zero, every mark clear, every barrier uninitialised, the instruction caches empty. -/
def Core.setUp (k : Core) (p : Partition) : Core :=
  { k with store := [], unitMarks := [], sectorMarks := [], acc := [], accMarks := [], part := some p, teams := [],
           barriers := [], matrix := [], matrixTurn := 0, streams := [], divider := none, l1 := [], l1Gen := k.l1Gen + 1,
           icache := [], lcache := [], admitHold := none }

/-- A team placed in its partition with its argument in s0. -/
def Core.place (k : Core) (m : Team) (args : Word) : Core :=
  { k with teams := k.teams.set none m.id.index (some m) }.setSreg m 0 ⟨args, false⟩

end Sys2Proof.Machine
end

