-- ==== Sys2Proof/Machine/Splits.lean ====
section
/-!
DEFINITION. The split table, join records and spill area of a team (R308 to R313), the start and the retirement of lane
blocks (R301, R302, R386).
-/
namespace Sys2Proof.Machine

/-! ### The spill area (R308) -/

/-- Writes the next spill entry: LPC, NOREC, REC. -/
def spillOut (k : Core) (m : Team) (p : Split) : Core × Team :=
  let i := m.ctl.spills.length
  let off := spillArea k m + 16 * i
  let rec' := match p.join with | some r => r | none => 64
  (k.write off (natBytes 8 (p.lpc.toNat % 2 ^ 54) ++ natBytes 8 rec') false,
   m.modCtl fun x => { x with spills := x.spills ++ [⟨p.mask, p.longs, p.handler⟩] })

/-- The split that the last spill entry holds. -/
def spillIn (k : Core) (m : Team) : Option Split :=
  match m.ctl.spills.getLast? with
  | none => none
  | some e =>
    let off := spillArea k m + 16 * (m.ctl.spills.length - 1)
    let v := k.readN (off + 8) 8
    some { Split.fresh e.mask (wordN (k.readN off 8 % 2 ^ 54)) (if bit v 6 then none else some (v % 64)) e.handler with
           longs := e.longs }

/-! ### Join records (R310) -/

/-- Tests a record after a park or the end of a member, and the records around it. Fuel bounds the nesting of records. -/
def Ctl.testJoin : Nat → Ctl → Nat → Ctl
  | 0, x, _ => x
  | fuel + 1, x, r =>
    match x.joinRec r with
    | none => x
    | some j =>
      if j.members = 0 then
        let x := x.setJoin r none
        match j.outer with
        | none => x
        | some q =>
          match x.joinRec q with
          | none => x
          | some o => (x.setJoin q (some { o with members := o.members - 1 })).testJoin fuel q
      else if j.parked = j.members then
        let x := x.setJoin r none
        if j.lanes &&& x.live = 0 then
          match j.outer with
          | none => x
          | some q =>
            match x.joinRec q with
            | none => x
            | some o => (x.setJoin q (some { o with members := o.members - 1 })).testJoin fuel q
        else match x.freeSplit with
          | none => x
          | some i =>
            x.setSplit i (some { Split.fresh (j.lanes &&& x.live) (j.jaddr + 12) j.outer j.handler with longs := j.longs })
      else x

/-- A member of a record ends (R310). -/
def Ctl.memberEnd (x : Ctl) (r : Option Nat) : Ctl :=
  match r with
  | none => x
  | some r =>
    match x.joinRec r with
    | none => x
    | some j => (x.setJoin r (some { j with members := j.members - 1 })).testJoin 65 r

/-- A split parks at its record's join address (R310). -/
def Ctl.park (x : Ctl) (i : Nat) (p : Split) (r : Nat) : Ctl :=
  match x.joinRec r with
  | none => x
  | some j =>
    ((x.setSplit i none).setJoin r (some { j with
      parked := j.parked + 1, lanes := j.lanes ||| p.mask, longs := j.longs ||| p.longs })).testJoin 65 r

/-- Reloads spilled splits, last in first out, while an index is free (R311). A split without a live lane ends instead. -/
def refill (k : Core) : Nat → Team → Team
  | 0, m => m
  | fuel + 1, m =>
    match m.ctl.freeSplit, spillIn k m with
    | some i, some p =>
      let m := m.modCtl fun x => { x with spills := x.spills.dropLast }
      if p.mask &&& m.ctl.live = 0 then refill k fuel (m.modCtl fun x => x.memberEnd p.join)
      else refill k fuel (m.modCtl fun x => x.setSplit i (some p))
    | _, _ => m

/-- Frees a split whose lanes have finished or exited (R312). -/
def endSplit (k : Core) (m : Team) (i : Nat) : Team :=
  match m.ctl.split i with
  | none => m
  | some p => refill k 65 (m.modCtl fun x => (x.setSplit i none).memberEnd p.join)

/-- Removes lanes from the live mask (R312); the splits that are left empty end. -/
def exitLanes (k : Core) (m : Team) (lanes : Mask) : Team :=
  let m := m.modCtl fun x => { x with live := x.live &&& ~~~lanes }
  (List.range 16).foldl (fun m i =>
    match m.ctl.split i with
    | some p => if p.mask &&& m.ctl.live = 0 then endSplit k m i else m
    | none => m) m

/-! ### Blocks (R301, R302, R386) -/

/-- No split, record or spilled split of the blocks of a side is left. -/
def Ctl.empty (x : Ctl) (handler : Bool) : Bool :=
  !(x.splits.any fun e => match e.2 with | some p => p.handler == handler | none => false) &&
  !(x.joins.any fun e => match e.2 with | some j => j.handler == handler | none => false) &&
  !(x.spills.any fun e => e.handler == handler)

/-- Starts the next user block: at index 0 with the live mask; a block with no live lane retires at once. -/
def Ctl.startUser (x : Ctl) : List Block → Ctl
  | [] => { x with queue := [], running := none }
  | b :: r =>
    if x.live = 0 then x.startUser r
    else { x with queue := r, running := some ⟨b, x.live⟩ }.setSplit 0 (some (Split.fresh x.live b.addr none false))

/-- Makes room for a handler split: the user split with the highest index is spilled when no index is free (R386). -/
def makeRoom (k : Core) (m : Team) : Core × Team :=
  match m.ctl.freeSplit with
  | some _ => (k, m)
  | none =>
    match (List.range 16).reverse.find? fun i => match m.ctl.split i with | some p => !p.handler | none => false with
    | none => (k, m)
    | some i =>
      match m.ctl.split i with
      | none => (k, m)
      | some p => let (k, m) := spillOut k m p; (k, m.modCtl fun x => x.setSplit i none)

/-- The lanes in which a handler block starts (R386). -/
def Team.handlerMask (m : Team) : Mask :=
  if m.trap.split.isSome ∧ m.trap.outer.isEmpty then m.trap.lanes &&& m.ctl.live else m.ctl.live

/-- Starts the next handler block (R386). -/
def startHandler (k : Core) (m : Team) : List Block → Core × Team
  | [] => (k, m.modCtl fun x => { x with hqueue := [], hrunning := none })
  | b :: r =>
    let mask := m.handlerMask
    if mask = 0 then startHandler k m r
    else
      let (k, m) := makeRoom k m
      (k, m.modCtl fun x =>
        let x := { x with hqueue := r, hrunning := some ⟨b, mask⟩ }
        match x.freeSplit with
        | some i => x.setSplit i (some (Split.fresh mask b.addr none true))
        | none => x)

/-- Every lane long result has returned. -/
def Team.laneIdle (m : Team) : Bool := m.pend.all fun p => !p.lane

/-- Retires a block whose lanes have all finished and whose long results have returned, and starts the next (R302, R386). -/
def settle (k : Core) (m : Team) : Core × Team :=
  if m.trap.handler then
    if m.ctl.empty true && (m.ctl.hrunning.isNone || m.laneIdle) then startHandler k m m.ctl.hqueue else (k, m)
  else if m.ctl.empty false && (m.ctl.running.isNone || m.laneIdle) then (k, m.modCtl fun x => x.startUser x.queue)
  else (k, m)

/-- Retires and starts the blocks of a team. -/
def State.settle (s : State) (c t : Nat) : State :=
  match s.team c t with
  | none => s
  | some m =>
    let (k, m) := Machine.settle (s.core c) m
    (s.setCore c k).setTeam c t (some m)

/-- No block of the team's present side is queued or running (R317, R386). -/
def Team.blocksDone (m : Team) : Bool :=
  if m.trap.handler then m.ctl.hqueue.isEmpty && m.ctl.hrunning.isNone
  else m.ctl.queue.isEmpty && m.ctl.running.isNone

end Sys2Proof.Machine
end

