-- ==== Sys2Proof/Machine/Ops.lean ====
section
/-!
DEFINITION. The switch marker (R303), taking a trap and returning from one (R384 to R390), control images (R392): the
operations that change which stream of a team runs.
-/
namespace Sys2Proof.Machine

/-! ### The frame copies (R298) -/

/-- The declaration at 0x220 (R298). -/
def Team.declaration (m : Team) : Word :=
  wordN (m.id.trapres.toNat * 2 ^ 31 + m.id.sregs * 2 ^ 24 + m.id.vregs * 2 ^ 16 + m.id.lanes)

/-- SMARK: bit i is the mark of si. -/
def Core.smark (k : Core) (m : Team) : Word :=
  (List.range 64).foldl (fun w i => if (k.sreg m i).mark then setBit w i true else w) 0

/-- Word i of a mask of lanes (R300). -/
def maskWord (x : Mask) (i : Nat) : Word := wordN (bits x.toNat (64 * i) 64)

/-- The dwords at 0x200 to 0x3FF of the frame. -/
def frameDwords (k : Core) (m : Team) : List Word :=
  [m.regs.spc, wordN (m.regs.k.toNat + m.regs.kmark.toNat * 256), m.regs.fpctl, m.regs.fpflags, m.declaration,
   m.lease.reg, m.regionId, wordN m.id.index, m.trap.regs.cause, m.trap.regs.spc, m.trap.regs.lpc, m.trap.regs.addr,
   k.smark m, 0, 0, 0] ++ (List.range 16).map (maskWord m.trap.regs.mask) ++ (List.range 16).map (maskWord m.ctl.live) ++
  List.replicate 16 0

/-- Writes the frame copies. -/
def Core.writeFrame (k : Core) (m : Team) : Core :=
  ((List.range 64).zip (frameDwords k m)).foldl (fun k e => k.setUnit (m.id.regwin / 8 + 64 + e.1) ⟨e.2, false⟩) k

/-! ### Latches and long-result marks -/

/-- Every latch of every split emptied. -/
def Ctl.emptyLatches (x : Ctl) : Ctl :=
  { x with splits := x.splits.map fun e => (e.1, e.2.map fun p => { p with latches := [none, none, none] }) }

/-- Every long-result mark of the lane side cleared. -/
def Ctl.clearLongs (x : Ctl) : Ctl :=
  { x with
    splits := x.splits.map fun e => (e.1, e.2.map fun p => { p with longs := 0 })
    joins := x.joins.map fun e => (e.1, e.2.map fun j => { j with longs := 0 })
    spills := x.spills.map fun e => { e with longs := 0 } }

/-! ### Waiting words -/

/-- The held word has taken an effect that a second issue would repeat: a barrier arrival, a regroup offer. -/
def Hold.engaged : Hold → Bool
  | .barrier _ _ => true
  | .regroup _ _ _ _ _ => true
  | _ => false

/-- A split that a waiting trap keeps stopped (R388). -/
def Team.stopped (m : Team) (i : Nat) : Bool :=
  m.trap.pending.any fun p => match p.lane with | some (j, _) => j == i | none => false

/-- The team has a trap handler (R385). -/
def Team.hasHandler (m : Team) : Bool := m.id.strapvec != 0 && m.id.trapres

/-! ### Taking a trap (R385) -/

/-- TRAP_CAUSE (R384). -/
def causeWord (code : Cause) (lane : Option Nat) (resume nested : Bool) : Word :=
  wordN (nested.toNat * 2 ^ 15 + resume.toNat * 2 ^ 14 + (match lane with | some i => 2 ^ 13 + i * 2 ^ 8 | none => 0) + code.code)

/-- Steps 3 to 6 of the delivery of a trap to a team with a handler (R385): `lane`: the trapping split and its word. -/
def deliver (s : State) (c t : Nat) (m : Team) (code : Cause) (addr : Word) (mask : Mask) (lane : Option (Nat × Word))
    (spc : Word) : State :=
  let nested := m.trap.handler
  let k := s.core c
  let k := if nested then k else k.writeFrame { m with regs := { m.regs with spc := spc } }
  let trap : TeamTrap := { m.trap with
    regs := ⟨causeWord code (lane.map (·.1)) false nested, spc, match lane with | some l => l.2 | none => 0, addr, mask⟩
    handler := true
    split := if nested then m.trap.split else lane.map (·.1)
    lanes := if nested then m.trap.lanes
      else match lane with
        | some (i, _) => match m.ctl.split i with | some p => p.mask &&& m.ctl.live | none => 0
        | none => 0
    frame := if nested then m.trap.frame else 0
    outer := if nested then m.trap.regs :: m.trap.outer else [] }
  let m := { m with
    regs := { m.regs with spc := m.id.strapvec }
    ctl := m.ctl.emptyLatches
    trap
    sched := { m.sched with hold := none, parked := false, spin := Spin.init } }
  let k := k.setSreg m 63 ⟨wordN (handlerBlock k m), false⟩
  let k := match lane with
    | some _ => (List.range m.id.lanes).foldl (fun k l => k.setVreg m 239 l ⟨if mask.getLsbD l then 1 else 0, false⟩) k
    | none => k
  (s.setCore c k).setTeam c t (some m)

/-- Copies a record to bytes 0xC0 to 0xFF of the team's handler block (R437): the state, and the offset of the copy. -/
def copyRecord (s : State) (c : Nat) (m : Team) (r : LogRecord) : State × Word :=
  let off := handlerBlock (s.core c) m + 0xC0
  (s.engineScratch c off r.bytes false, wordN off)

/-- Delivers a trap of a word to a team without an open region, or ends the team (R385 step 1, R388, R389). -/
def trapTeam (s : State) (c t : Nat) (m : Team) (x : Trap) : State :=
  let spc := match x.lane, x.spc with | none, some a => a | _, _ => m.regs.spc
  let det := if x.what.cause = .machineCheck then 13 else 0
  let at_ := match x.lane with | some l => l.2 | none => spc
  if m.trap.handler ∨ !m.hasHandler then
    s.endTeam c t { endRecord s c m x.what.cause.code with det, spc := at_, addr := if det = 13 then x.what.addr else 0 }
  else if x.what.cause = .machineCheck then
    let (r, s) := s.log (dieOf c) { teamRecord s c m 13 6 x.what.addr with spc := at_ }
    let (s, a) := copyRecord s c m r
    deliver s c t m .machineCheck a x.what.lanes x.lane spc
  else deliver s c t m x.what.cause x.what.addr x.what.lanes x.lane spc

/-- The order in which waiting traps are delivered: the scalar stream's, then splits ascending (R388). -/
def Trap.before (a b : Trap) : Bool :=
  match a.lane, b.lane with
  | none, some _ => true
  | some i, some j => i.1 < j.1
  | _, none => false

/-- Delivers a waiting trap to a team outside handler state (R388). -/
def deliverPending (s : State) (c t : Nat) : State :=
  match s.team c t with
  | none => s
  | some m =>
    if m.trap.handler then s
    else match sortBy Trap.before m.trap.pending with
      | [] => s
      | x :: rest => trapTeam s c t (m.modTrap fun y => { y with pending := rest }) x

/-- Commits the open region of a team, if it has one, and goes on where the team then is. -/
def afterCommit (s : State) (c t : Nat) (k : State → Nat → State) : State :=
  match s.team c t with
  | none => s
  | some m =>
    match m.region with
    | none => k s c
    | some g =>
      match commit s c t m g with
      | .done s c => k s c
      | .wait => s
      | .sealed s => s
      | .fatal s r => s.endTeam c t r

/-- A trap that will end a team without handler must wait: earlier words of its open region have not passed their checks (R425). -/
def Team.unchecked (s : State) (c t : Nat) (m : Team) : Bool := m.region.isSome && !m.trap.handler && !m.hasHandler && !drained s c t m

/-- Delivers a waiting trap; an open region commits first (R425). -/
def deliverNext (s : State) (c t : Nat) : State :=
  match s.team c t with
  | none => s
  | some m =>
    if m.trap.pending.isEmpty || Team.unchecked s c t m then s
    else if !m.hasHandler then deliverPending s c t
    else afterCommit s c t fun s c => deliverPending s c t

/-- A word raises a trap (R385, R388, R389, R425). A region that is open commits first, for a team that goes on; while the commit
waits, the word stays at its place and is tried again. Words of one cycle leave their traps waiting. -/
def raise (s : State) (c t : Nat) (m : Team) (x : Trap) : State :=
  let park (s : State) : State := s.modTeam c t fun m =>
    if x.lane.isNone then { m with sched := { m.sched with hold := some .drain, holdSince := s.cycles } } else m
  let engaged := match m.sched.hold with | some h => h.engaged | none => false
  if Team.unchecked s c t m then park s
  else if m.trap.handler ∨ !m.hasHandler then trapTeam s c t m x
  else if s.gather || (x.lane.isSome && engaged) then
    s.setTeam c t (some (m.modTrap fun y => { y with pending := y.pending ++ [x] }))
  else match m.region with
    | none => trapTeam s c t m x
    | some g =>
      match commit s c t m g with
      | .done s c =>
        match s.team c t with
        | some m => trapTeam s c t m x
        | none => s
      | .wait => park s
      | .sealed s => s
      | .fatal s r => s.endTeam c t r

/-! ### Control images (R392, R393) -/

/-- The key of save record k of an address space. -/
def recordKey (asid k : Nat) : Nat := asid * 2 ^ 32 + k

/-- SAVEBASE + 4 MiB × k: the virtual address of a save record (R391). -/
def TeamId.recordVa (x : TeamId) (k : Nat) : Word := word (x.saveBase + 2 ^ 22 * k : Int)

/-- The team's control image, and the header it is written with: 16 bytes that the manual does not state (DESIGN CHOICE, log entry 14). -/
def imageOf (s : State) (m : Team) (spc : Word) : Image × State :=
  let (a, s) := s.freeWord
  let (b, s) := s.freeWord
  ({ header := natBytes 8 a.toNat ++ natBytes 8 b.toNat, ctl := m.ctl.emptyLatches, lease := m.lease,
     window := m.regs.accLimit - m.regs.accBase, pending := m.trap.pending, outer := m.trap.outer, lanes := m.id.lanes,
     seq := m.seq, rings := m.rings, wdq := m.wdq, regs := m.regs, spc, trap := m.trap.regs, split := m.trap.split,
     splitLanes := m.trap.lanes, frame := m.trap.frame, nested := m.trap.handler }, s)

/-- The 16 KiB of a control image as its save record receives them: the header, then bytes whose layout is not program-visible (R392; DESIGN
CHOICE, log entry 14). -/
def State.writeImage (s : State) (d asid va : Nat) (header : List Byte) : State :=
  let n := s.free
  let line (i : Nat) : List Byte :=
    (if i = 0 then header else []) ++ ((List.range (if i = 0 then 14 else 16)).flatMap fun j => natBytes 8 (Config.freeWord (n + 16 * i + j)).toNat)
  (List.range 128).foldl (fun s i => s.deviceWrite d asid (va + 128 * i) (line i) false) { s with free := n + 2048 }

/-- PREEMPT delivered to a team at a switch marker (R388, R392): the image is written, then the trap is taken. The save is an acquire at
system scope (R293); for its release half the marker has waited. -/
def preemptTeam (s : State) (c t : Nat) (m : Team) (k : Nat) (spc : Word) : State :=
  let (x, s) := imageOf s m spc
  let va := m.id.recordVa k
  let s := s.modSched fun y => { y with images := y.images.set none (recordKey m.id.asid k) (some x) }
  let s := s.writeImage (dieOf c) m.id.asid va.toNat x.header
  let m := m.modTrap fun y => { y with preempt := none, record := some k, pending := [] }
  deliver (s.acquire c scSystem) c t m .preempt va 0 none spc

/-! ### The switch marker (R303) -/

/-- The MACHINE_CHECK that a marker delivers (R385, R388): in handler state only one raised there. -/
def TeamTrap.dueCheck (x : TeamTrap) : Option (LogRecord × Bool) := if x.handler then x.mchecks.find? (·.2) else x.mchecks.head?

/-- The traps of the team as a whole that are taken at a marker, the next scalar word being at `spc` (R385). -/
def teamTraps (s : State) (c t : Nat) (spc : Word) : State :=
  match s.team c t with
  | none => s
  | some m =>
    match m.trap.dueCheck with
    | some (r, inHandler) =>
      let m := m.modTrap fun y => { y with mchecks := y.mchecks.erase (r, inHandler) }
      if m.trap.handler ∨ !m.hasHandler then s.endTeam c t { endRecord s c m 16 with det := r.det, addr := r.addr }
      else
        let (s, a) := copyRecord s c m r
        -- a persistent matrix fault names its command (R166)
        deliver s c t m .machineCheck a 0 none (if r.det = 2 then r.spc else spc)
    | none =>
      match m.trap.preempt with
      | none => s
      | some k =>
        if m.trap.handler && !m.blocksDone then s else preemptTeam s c t m k spc

/-- A save that is asked for is a release at system scope (R293): the stores that happen before it are home. -/
def Team.saveReleased (s : State) (c : Nat) (m : Team) : Bool := m.trap.preempt.isNone || released s c scSystem

/-- The waits of a parked team have ended (R303 step 2). -/
def Team.released (s : State) (c t : Nat) (m : Team) : Bool := m.sched.parked && !m.halted && drained s c t m && m.saveReleased s c

/-- A team leaves the active set (R350): SOLO and OVER end with it. -/
def State.deactivate (s : State) (c t : Nat) (st : TeamState) : State :=
  (s.modTeam c t fun m => { m with
    lease := { m.lease with overBit := false, solo := false }
    sched := { m.sched with state := st, since := s.cycles } }).clearOver c

/-- A raised lease that does not fit takes its team from the active set; a team alone there stays, with SOLO when its lease is above the share
(R351). -/
def State.raisedLease (s : State) (c t : Nat) : State :=
  match s.team c t with
  | none => s
  | some m =>
    if !m.lease.raised then s
    else
      let k := s.core c
      let s := s.modTeam c t fun m => { m with lease := { m.lease with raised := false } }
      let others := k.residents.any fun e => e.1 != t && e.2.sched.state == .active
      if !decide (k.shareGranules < k.leaseSum) then s
      else if others then s.deactivate c t .ready
      else s.modTeam c t fun m => { m with lease := { m.lease with solo := true } }

/-- Steps 3 to 5 of a switch marker. A team trap first commits an open region (R392, R425). -/
def markerRelease (s : State) (c t : Nat) : State :=
  match s.team c t with
  | none => s
  | some m =>
    if !m.released s c t then s
    else
      let k := if m.trap.handler then s.core c else (s.core c).writeFrame m
      let m' := { m with
        regs := { m.regs with slongs := 0, klongs := 0 }
        ctl := m.ctl.emptyLatches.clearLongs
        sched := { m.sched with parked := false }
        tally := [] }
      let s' := (s.setCore c k).setTeam c t (some m')
      let s' := (m.tally.foldl (fun s e => s.count e.1 e.2.1 e.2.2) s').raisedLease c t
      if m.trap.dueCheck.isNone && m.trap.preempt.isNone then s' else afterCommit s' c t fun s c => teamTraps s c t m.regs.spc

/-! ### Return from a trap (R390) -/

/-- A byte of the frame copies, if the handler wrote it; else the byte given. -/
def frameByte (k : Core) (m : Team) (i old : Nat) : Nat :=
  if m.trap.frame.getLsbD i then (k.byte (m.id.regwin + 0x200 + i)).toNat else old

/-- n bytes of the frame copies at offset 0x200 + i, over the value they stand for. -/
def frameField (k : Core) (m : Team) (i n old : Nat) : Nat :=
  ((List.range n).map fun j => frameByte k m (i + j) (bits old (8 * j) 8) * 2 ^ (8 * j)).foldl (· + ·) 0

/-- A write of FPCTL (R120): RES0 bits are ignored, and a reserved RM leaves RM. -/
def fpctlWrite (old v : Word) : Word :=
  let rm := if bits v.toNat 0 3 ≤ 4 then bits v.toNat 0 3 else bits old.toNat 0 3
  wordN (bits v.toNat 8 5 * 2 ^ 8 + rm)

/-- A write of FPFLAGS (R121). -/
def fpflagsWrite (v : Word) : Word := wordN (bits v.toNat 0 5)

/-- The handler's writes to the frame take effect (R390 step 2). -/
def applyFrame (k : Core) (m : Team) : Core × Team :=
  let km := frameField k m 0x08 2 (m.regs.k.toNat + m.regs.kmark.toNat * 256)
  let smark := frameField k m 0x60 8 (k.smark m).toNat
  let live := frameField k m 0x100 128 m.ctl.live.toNat
  let regs := { m.regs with
    k := BitVec.ofNat 8 (km % 256) ||| 1
    kmark := BitVec.ofNat 8 (km / 256) &&& 0xFE
    fpctl := fpctlWrite m.regs.fpctl (wordN (frameField k m 0x10 8 m.regs.fpctl.toNat))
    fpflags := fpflagsWrite (wordN (frameField k m 0x18 8 m.regs.fpflags.toNat)) }
  let m := { m with regs, trap := { m.trap with frame := 0 } }
  let k := (List.range 64).foldl (fun k i => k.setSreg m i ⟨(k.sreg m i).val, bit smark i⟩) k
  (k, exitLanes k m (m.ctl.live &&& ~~~BitVec.ofNat 1024 live))

/-- The bytes of the image header as memory holds them now; an error where they cannot be read: true while the read must wait (R228), false
where it faults, the bytes carry a mark or their package is lost (R451). -/
def headerBytes (s : State) (d asid : Nat) (va : Word) : Except Bool (List Byte) :=
  match engineXlate s d asid true Need.load va.toNat with
  | (.ok pa, _) =>
    if s.blocked pa none then .error true
    else if (s.readHome d pa 16).1.2 then .error false
    else .ok (s.readHome d pa 16).1.1
  | (.error none, _) => .error true
  | (.error (some _), _) => .error false

/-- RESUME of TRAP_CAUSE (R384): the next `s.eret` restores the control image. -/
def Team.resumes (m : Team) : Bool := m.trap.regs.cause.getLsbD 14

/-- The header of the control image that a team's `s.eret` would check. -/
def Team.header (s : State) (c : Nat) (m : Team) : Except Bool (List Byte) :=
  headerBytes s (dieOf c) m.id.asid (m.id.recordVa (m.trap.record.getD 0))

/-- The team as its control image says, its save record freed (R393 step 4). -/
def restoreImage (s : State) (m : Team) (key : Nat) (x : Image) : State × Team :=
  let s := s.modSched fun y => { y with images := y.images.set none key none, records := y.records.filter (· != (m.id.asid, key % 2 ^ 32)) }
  let keep := if x.nested then { m.regs with k := x.regs.k, kmark := x.regs.kmark, fpctl := x.regs.fpctl, fpflags := x.regs.fpflags }
    else m.regs
  (s, { m with
    ctl := { x.ctl with live := if x.nested then x.ctl.live else x.ctl.live &&& m.ctl.live }
    lease := x.lease
    regs := { keep with pstat := x.regs.pstat, bkpt := x.regs.bkpt }
    trap := { m.trap with regs := x.trap, split := x.split, lanes := x.splitLanes, pending := x.pending, outer := x.outer,
                          frame := x.frame, handler := x.nested, record := none } })

/-- What `s.eret` does in handler state once its waits have ended (R390 steps 2 to 6). -/
def returnFromTrap (s : State) (c t : Nat) (m : Team) : State :=
  let k := s.core c
  let m := { m with regs := { m.regs with slongs := 0, klongs := 0 }, ctl := m.ctl.emptyLatches.clearLongs }
  if m.resumes then
    let key := recordKey m.id.asid (m.trap.record.getD 0)
    match s.sched.images.get none key with
    | none => s.endTeam c t (endRecord s c m 17)
    | some x =>
      if (match m.header s c with | .ok bs => bs != x.header | .error _ => true) || x.lanes != m.id.lanes then
        s.endTeam c t (endRecord s c m 17)
      else
        let (k, m) := if x.nested then (k, m) else applyFrame k m
        let (s, m) := restoreImage (s.setCore c k) m key x
        let m := { m with regs := { m.regs with spc := x.spc }, trap := { m.trap with skipDebug := true } }
        let m := exitLanes k m 0
        deliverNext (s.setTeam c t (some m)) c t
  else match m.trap.outer with
    | r :: rest =>
      s.setTeam c t (some { m with
        regs := { m.regs with spc := m.trap.regs.spc }
        trap := { m.trap with regs := r, outer := rest } })
    | [] =>
      let (k, m) := applyFrame k m
      let lpc := m.trap.regs.lpc
      let ctl := match m.trap.split with
        | none => m.ctl
        | some i =>
          match m.ctl.split i with
          | some p => m.ctl.setSplit i (some { p with lpc, skipDebug := true })
          | none => m.ctl
      let m := { m with
        ctl
        regs := { m.regs with spc := m.trap.regs.spc }
        trap := { m.trap with handler := false, split := none, lanes := 0, skipDebug := true } }
      let s := (s.setCore c k).setTeam c t (some m)
      if !m.trap.pending.isEmpty then deliverNext s c t
      else if m.trap.dueCheck.isNone && m.trap.preempt.isNone then s
      else afterCommit s c t fun s c => teamTraps s c t m.regs.spc

end Sys2Proof.Machine
end

