-- ==== Sys2Proof/WellFormed.lean ====
section
/-!
DEFINITION. Well-formed words: what of a word's encoding the decoder refuses (the ILLEGAL_INSTRUCTION rank of
R43), each refusal by its own name. `Instr.check` answers none for a word that decodes.
-/
namespace Sys2Proof

/-- Why an encoding is refused: the cases of the first rank of R43. -/
inductive Reject where
  /-- the major opcode is unassigned (R44, R49) -/
  | major
  /-- the fn code or sub7 operation of a major is unassigned (R45, R46) -/
  | operation
  /-- a variant, condition or selector that the entry does not define -/
  | variant
  /-- a RES0 field is not zero (R7, R31, R40) -/
  | reserved
  /-- rm is 0b101 or 0b110 (R40) -/
  | rounding
  /-- hl is 0b11, or not zero with hs none (R38) -/
  | latch
  /-- a latch read or hold names a source that the word does not read (R38) -/
  | source
  /-- an illegal size or order combination (R32, R240, R276) -/
  | access
  /-- an illegal scope (R47, R240, R272, R281, R285) -/
  | scope
  /-- kg 0b000 with kn 1 (R31) -/
  | guard
  /-- a type code that the major does not accept (R39) -/
  | type
  /-- a narrow format code or element index out of range (R143) -/
  | format
  /-- no word of either stream encodes an event, or the bits are no whole word (R28) -/
  | noWord
deriving DecidableEq, Repr

/-- How an eight-bit operand field is used: as an operand of R35, or as that many plain low bits. -/
inductive FieldUse where
  | op
  | bits (n : Nat)
deriving DecidableEq, Repr

/-- How a lane word uses its fields (R34, and the field table of its entry). `tys` has bit c set when
type code c is accepted; `imm` is the mask of the bits of imm33 in use. -/
structure LaneUse where
  tys : Nat := 0xFF
  vd : FieldUse := .bits 0
  a : FieldUse := .bits 0
  b : FieldUse := .bits 0
  c : FieldUse := .bits 0
  pd : Bool := false
  rm : Bool := false
  sat : Bool := false
  x : Bool := false
  imm : Nat := 0
deriving DecidableEq, Repr

/-- All 33 bits of imm33. -/
def immAll : Nat := 0x1FFFFFFFF

/-- `bits n`: every bit of the value above the low n is RES0. -/
def overBits (n : Nat) (v : Nat) : Bool := v / 2 ^ n != 0

/-- A binary class I word: b is an operand, or imm33 with x (R40, R106). -/
def LaneUse.binary (f : Lane) (sat : Bool) : LaneUse :=
  { vd := .op, a := .op, b := if f.x then .bits 0 else .op, sat, x := true, imm := if f.x then immAll else 0 }

/-- Whether `v.ldacc` or `v.stacc` converts (R178): every form but the element's own type. -/
def accConverts (f : Lane) : Bool :=
  if f.x then f.ty != 0 else f.ty != 1 && f.ty != 4

/-- The fields that a lane word uses, instruction by instruction. -/
def laneUse : Instr → Option LaneUse
  | .vAdd f => some (LaneUse.binary f true)
  | .vSub f => some (LaneUse.binary f true)
  | .vMul f => some (LaneUse.binary f true)
  | .vMulh f => some (LaneUse.binary f false)
  | .vAnd f => some (LaneUse.binary f false)
  | .vOr f => some (LaneUse.binary f false)
  | .vXor f => some (LaneUse.binary f false)
  | .vAndn f => some (LaneUse.binary f false)
  | .vShl f => some (LaneUse.binary f false)
  | .vShr f => some (LaneUse.binary f false)
  | .vSra f => some (LaneUse.binary f false)
  | .vMin f => some (LaneUse.binary f false)
  | .vMax f => some (LaneUse.binary f false)
  | .vClz _ => some { vd := .op, a := .op }
  | .vPopc _ => some { vd := .op, a := .op }
  | .vBrev _ => some { vd := .op, a := .op }
  | .vBfx f => some (LaneUse.binary f false)
  | .vBfi f => some { LaneUse.binary f false with c := .op }
  | .vIleave f => some { tys := 0xA, vd := .op, a := .op, b := .op, c := if f.x then .op else .bits 0, x := true }
  | .vDeleave _ => some { tys := 0xA, vd := .op, a := .op, x := true, imm := 3 }
  | .vIcmp f => some { LaneUse.binary f false with vd := .bits 3, pd := true }
  | .vSel _ => some { vd := .op, a := .op, b := .op, pd := true, imm := 1 }
  | .vPop _ => some { a := .bits 3, b := .bits 3, pd := true }
  | .vMovi _ => some { vd := .op, imm := immAll }
  | .vMoviHi _ => some { tys := 8, vd := .op, x := true, imm := 0xFFFFFFFF }
  | .vMov _ => some { vd := .op, a := .op }
  | .vImad f => some { LaneUse.binary f true with c := .op }
  | .vFadd _ => some { tys := 0x7F, vd := .op, a := .op, b := .op, rm := true }
  | .vFsub _ => some { tys := 0x7F, vd := .op, a := .op, b := .op, rm := true }
  | .vFmul _ => some { tys := 0x7F, vd := .op, a := .op, b := .op, rm := true }
  | .vFfma _ => some { tys := 0x7F, vd := .op, a := .op, b := .op, c := .op, rm := true, imm := 3 }
  | .vFmin _ => some { tys := 0x7F, vd := .op, a := .op, b := .op, x := true }
  | .vFmax _ => some { tys := 0x7F, vd := .op, a := .op, b := .op, x := true }
  | .vFsgn _ => some { tys := 0x7F, vd := .op, a := .op, b := .op, imm := 3 }
  | .vFcmp _ => some { tys := 0xF, vd := .bits 3, a := .op, b := .op, pd := true, x := true }
  | .vFclass f => some { tys := 0xF, vd := .op, a := .op, pd := true, imm := if f.pd = 0 then 0 else 0x3FF }
  | .vFdiv _ => some { tys := 0xF, vd := .op, a := .op, b := .op, rm := true }
  | .vFsqrt _ => some { tys := 0xF, vd := .op, a := .op, rm := true }
  | .vFrcp _ => some { tys := 2, vd := .op, a := .op }
  | .vFrsq _ => some { tys := 2, vd := .op, a := .op }
  | .vFex2 _ => some { tys := 2, vd := .op, a := .op }
  | .vFlg2 _ => some { tys := 2, vd := .op, a := .op }
  | .vFsin _ => some { tys := 2, vd := .op, a := .op }
  | .vFcos _ => some { tys := 2, vd := .op, a := .op }
  | .vFcvt _ => some { tys := 0xF, vd := .op, a := .op, rm := true, imm := 3 }
  | .vIcvt _ => some { tys := 0xF, vd := .op, a := .op, rm := true, imm := 0xF }
  | .vFround _ => some { tys := 0xF, vd := .op, a := .op, rm := true, x := true }
  | .vFscale f => some { tys := 0xF, vd := .op, a := .op, b := if f.x then .bits 0 else .op, rm := true, x := true, imm := if f.x then immAll else 0 }
  | .vQdec f => some { tys := 0xF, vd := .op, a := .op, b := .op, c := if f.x then .op else .bits 0, rm := true, x := true, imm := 0xF }
  | .vMxdec f => some { tys := 0xF, vd := .op, a := .op, b := if bits f.imm.toNat 0 4 < 2 then .bits 0 else .op, rm := true, imm := 0x3FF }
  | .vPack f => some { tys := 0xF, vd := .op, a := .op, b := if bits f.imm.toNat 0 4 < 2 then .bits 0 else .op, c := if f.x then .op else .bits 0, pd := true, sat := bits f.imm.toNat 0 4 < 4, x := bits f.imm.toNat 0 4 == 8, imm := 0x3FF }
  | .vPackScale _ => some { tys := 0xF, vd := .op, a := .op, imm := 0x40F }
  | .vLdacc f => some { tys := if f.x then 0xF else 0x7F, vd := .op, a := .op, rm := accConverts f, x := true, imm := 0xFFFF }
  | .vStacc f => some { tys := if f.x then 0xF else 0x7F, a := .op, b := .op, rm := accConverts f, x := true, imm := 0xFFFF }
  | .vTrace _ => some { tys := 1, vd := .op, a := .op, b := .op }
  | .vTex f => some { tys := 1, vd := .op, a := .op, b := .op, c := if f.x then .op else .bits 0, x := true }
  | .vLd _ => some { vd := .op, a := .op, x := true, imm := 0x3FFFFFF }
  | .vSt _ => some { tys := 0x1F, a := .op, b := .op, x := true, imm := 0x3FFFFFF }
  | .vLdsp f => some { vd := .op, a := .op, x := true, imm := if f.x then 0x1C1FFFFF else 0x1FFFFF }
  | .vStsp f => some { tys := 0x1F, a := .op, b := .op, x := true, imm := if f.x then 0x1C1FFFFF else 0x1FFFFF }
  | .vAtom _ => some { tys := 7, vd := .op, a := .op, b := .op, imm := 0x1E3FFFFFF }
  | .vCas _ => some { tys := 3, vd := .op, a := .op, b := .op, c := .op, pd := true, imm := 0x3FFFFFF }
  | .vAtomsp f => some { tys := 7, vd := .op, a := .op, b := .op, x := true, imm := if f.x then 0x1FC1FFFFF else 0x1E01FFFFF }
  | .vBr _ => some { tys := 1, imm := immAll }
  | .vJmp _ => some { tys := 1, imm := 0x1FFFF0000 }
  | .vJoin _ => some { tys := 1 }
  | .vLend _ => some { tys := 1 }
  | .vExit _ => some { tys := 1 }
  | .vVote f => some { tys := 0xF, vd := if f.x then .bits 6 else .op, a := .bits 3, x := true, imm := if f.ty = 0 then 0x1F else 0x10 }
  | .vShuf f => some { tys := 0xF, vd := .op, a := .op, b := if f.ty = 0 then .op else .bits 0, c := .op, pd := true, imm := if f.ty = 0 then 0 else 0x3FF }
  | .vMfs _ => some { tys := 1, vd := .op, imm := 0xFFF }
  | .vTrap _ => some { tys := 1, imm := immAll }
  | .vCsacc _ => some { tys := 0xF, vd := .op, a := .op }
  | .vChk f => some { LaneUse.binary f false with vd := .bits 4, c := .bits 8 }
  | .sAdd _ | .sSub _ | .sAnd _ | .sOr _ | .sXor _ | .sAndn _
  | .sShl _ | .sShr _ | .sSra _ | .sRot _ | .sMin _ | .sMinN _
  | .sMax _ | .sMaxN _ | .sMul _ | .sMulh _ | .sMulhN _ | .sDiv _
  | .sDivN _ | .sRem _ | .sRemN _ | .sClz _ | .sCtz _ | .sPopc _
  | .sBrev _ | .sBfx _ | .sBfi _ | .sIleave _ | .sIleave3 _ | .sDeleave _
  | .sDeleave3 _ | .sSel _ _ _ | .sCmp _ _ | .sKop _ _ | .sFopAdd _ | .sFopSub _
  | .sFopMul _ | .sFopDiv _ | .sFopSqrt _ | .sFopMin _ | .sFopMax _ | .sFopAbs _
  | .sFopNeg _ | .sFfma _ _ | .sFcmp _ _ | .sFcvt _ _ | .sAddImm _ | .sAndImm _
  | .sOrImm _ | .sXorImm _ | .sShlImm _ | .sShrImm _ | .sSraImm _ | .sRotImm _
  | .sMulImm _ | .sCmpImm _ _ _ _ _ | .sLui _ | .sAddpc _ | .sBr _ | .sJmp _ _
  | .sCall _ | .sLd _ | .sSt _ | .sLdsp _ | .sStsp _ | .sCopy _
  | .sStream _ | .sPrefL1 _ | .sPrefL2 _ | .sCacheL1inv _ | .sCacheRdcinv _ | .sCacheL2wb _
  | .sCacheIcinv _ | .sAwset _ | .sAwwait _ | .sFenceAcq _ _ | .sFenceRel _ _ | .sFenceAcqrel _ _
  | .sBarSync _ | .sBarArrive _ | .sBarInit _ | .sSeal _ _ | .sUnseal _ _ | .sAtom _ _ _
  | .sAtomAcq _ _ _ | .sAtomRel _ _ _ | .sAtomAcqrel _ _ _ | .sCas _ _ _ _ | .sMma _ _ | .sMloop _ _
  | .sAwin _ _ | .sAclr _ | .sBeam _ | .sRet _ | .sJr _ | .sLrunUniforms _ _
  | .sLrun _ | .sLwait _ | .sExit _ | .sRegroup _ _ | .sMfs _ | .sMts _
  | .sNop _ | .sWdq _ | .sQpush _ | .sQpushNw _ | .sQpushOpen _ | .sQpushClose _
  | .sQpop _ _ | .sQpoll _ _ | .sLease _ | .sYield _ | .sLaunch _ | .sTrap _
  | .sEret _ | .sTlbiVa _ _ | .sTlbiAsid _ _ | .sTlbiAll _ _ | .sMfp _ | .sMtp _
  | .sRegion _ _ | .sCommit _ | .sCkpt _ | .sCschk _ _ | .sPoisqRegs _ | .sPoisqLine _
  | .sPoisqSp _ | .sPoisqClr _ | .sPoisqPol _ | .sColl _ | .sCwait _ | .longResultReturn _ _ _ _
  | .switchMarkerRelease _ _ | .regroupOfferTimeout _ _ | .scalarDividerComplete _ | .teamAdmission _ | .overBudgetAdmission _ | .teamBlocked _ _
  | .teamUnblocked _ _ | .qpollBackoffEnd _ _ | .leaseDecay _ _ | .queueTailSeen _ | .queueReevaluation _ | .launchPlacement _
  | .partitionSetupComplete _ | .replicaDescriptorReceived _ | .replicaReady _ _ | .replicaStart _ | .replicaAbort _ | .wdqServe _ _
  | .awwaitTimeout _ _ | .copyStart _ | .copyComplete _ _ | .streamTileFill _ _ | .streamTileDrain _ _ | .engineLineRelease _ _
  | .storePerformedAtHome _ _ _ | .matrixStep _ _ | .mloopWaitTimeout _ | .beamQueryStart _ | .splitRecordAnswer _ | .hitRecordRetry _
  | .barrierSyncTimeout _ _ | .queueWaitTimeout _ _ | .recordQueueOperation _ _ | .terminationRound _ | .terminationTokenPass _ | .preq _ _ _
  | .pcancel _ _ _ | .pkill _ _ _ | .groupResume _ _ | .hotnessDecay _ | .migrationExamine _ _ _ | .errorDetection _
  | .regionRecordValid _ _ | .speedwellDiscard _ _ | .regionMove _ _ _ | .regionMoveTimeout _ _ | .regionBufferOverflow _ _ | .dualArbitration _ _ _ _
  | .laneRetirement _ | .laneRemapPauseEnd _ | .wear _ _ _ _ | .mailboxWrite _ | .mailboxRead _ | .semRead _ _
  | .semWrite _ _ _ | .ctxbaseWrite _ | .qtbaseWrite _ | .freepush _ _ | .freepop _ _ | .freecountWrite _ _
  | .statusWrite _ | .resetreq _ | .pwrcapWrite _ | .fabctlWrite _ | .sidebandReset _ | .bringupStageComplete _
  | .portLost _ | .getVersion _ | .getCapabilities _ | .negotiateAlgorithms _ | .getDigests _ | .getCertificate _ _ _ _
  | .challenge _ _ _ | .getMeasurements _ _ _ _ | .spdmUnsupportedRequest _ _ | .powerSample _ | .pwralertRaise | .temperatureSample _ _
  | .thermalTrip _ | .flitReceive _ _ _ _ | .linkRetrain _ _ | .stationDown _ | .ualinkRequestArrival _ | .heartbeatSend
  | .heartbeatReceive _ | .packageLostDeclaration _ | .exclude _ _ | .collectiveAttempt _ _ | .cwaitTimeout _ _ | .powerGood
  | .podMembershipExchange _ => none

/-- The first encoding fault of the fields that the word does not use, and of its latch fields (R38, R40). -/
def laneFields (f : Lane) (u : LaneUse) : Option Reject :=
  let hs := f.hs.toNat
  let unread (k : Nat) (use : FieldUse) : Bool := (bit f.lr.toNat (3 - k) || hs == k) && use != .op
  let overs (k : Nat) (use : FieldUse) (v : BitVec 8) : Bool :=
    match use with
    | .bits n => overBits n v.toNat
    | .op => k != 0 && bit f.lr.toNat (3 - k) && overBits 2 v.toNat
  if !bit u.tys f.ty.toNat then some .type
  else if overs 0 u.vd f.vd || overs 1 u.a f.va || overs 2 u.b f.vb || overs 3 u.c f.vc then some .reserved
  else if !u.pd && f.pd != 0 then some .reserved
  else if !u.rm && f.rm != 0 then some .reserved
  else if f.rm == 5 || f.rm == 6 then some .rounding
  else if (!u.sat && f.sat) || (!u.x && f.x) then some .reserved
  else if f.imm.toNat &&& (immAll - u.imm) != 0 then some .reserved
  else if f.hl == 3 || (hs == 0 && f.hl != 0) then some .latch
  else if unread 1 u.a || unread 2 u.b || unread 3 u.c then some .source
  else none

/-- The order and scope of a lane access (R237, R240, R277, R281): order codes allowed as a mask. -/
def laneOrder (f : Lane) (orders : Nat) : Option Reject :=
  let order := bits f.imm.toNat 24 2
  let scope := bits f.imm.toNat 21 3
  if !bit orders order then some .access
  else if scope == 7 || (order == 0 && scope != 0) then some .scope
  else none

/-- The operation of a lane atomic (R277): add to swap and fadd; bf16x2 only add. -/
def laneAtomOp (f : Lane) : Option Reject :=
  let op := bits f.imm.toNat 29 4
  if op > 9 || (f.ty == 2 && op != 0) then some .operation else none

/-- What the entry of a lane word refuses beyond its field table. -/
def laneExtra : Instr → Option Reject
  | .vDeleave f => if bits f.imm.toNat 0 2 ≥ (if f.x then 3 else 2) then some .variant else none
  | .vMovi f => if f.x then some .variant else none
  | .vMoviHi f => if f.x then none else some .variant
  | .vFsgn f => if f.imm == 3 then some .variant else none
  | .vFcmp f => if f.x && !bit 0x3C (bits f.vd.toNat 0 3) then some .variant else none
  | .vMxdec f =>
    let fmt := bits f.imm.toNat 0 4
    if fmt > 7 || bits f.imm.toNat 4 6 > (if fmt = 6 then 15 else 7) then some .format else none
  | .vPack f =>
    let fmt := bits f.imm.toNat 0 4
    if fmt > 8 || bits f.imm.toNat 4 6 > (if fmt = 6 ∨ fmt = 8 then 15 else 7) then some .format else none
  | .vPackScale f =>
    let fmt := bits f.imm.toNat 0 4
    if bits f.imm.toNat 10 2 != 1 then some .variant
    else if fmt < 2 || fmt > 7 then some .format else none
  | .vLd f => laneOrder f 3
  | .vSt f => laneOrder f 5
  | .vAtom f => (laneAtomOp f).or (laneOrder f 15)
  | .vCas f => laneOrder f 15
  | .vAtomsp f => laneAtomOp f
  | .vBr f => if sext 16 f.imm.toNat < 1 then some .variant else none
  | .vJmp f | .vJoin f | .vLend f => if f.pg != 0 || f.pgn then some .reserved else none
  | _ => none

/-- A word of format SA, of which the low `d`, `a` and `b` bits of the register fields are in use (R31). -/
def checkSA (d a b : Nat) (f : SA) : Option Reject :=
  if overBits d f.d.toNat || overBits a f.a.toNat || overBits b f.b.toNat then some .reserved else none

/-- A word of format SC, of which the low `d`, `a` and `b` bits of the register fields are in use (R31). -/
def checkSC (d a b : Nat) (f : SC) : Option Reject :=
  if overBits d f.d.toNat || overBits a f.a.toNat || overBits b f.b.toNat then some .reserved else none

/-- A scalar access (R32): the sizes and orders it accepts, as masks. -/
def checkSM (sizes orders : Nat) (f : SM) : Option Reject :=
  if bit sizes f.size.toNat && bit orders f.order.toNat then none else some .access

/-- A scope field (R47). -/
def checkScope (scope : BitVec 3) : Option Reject := if scope == 7 then some .scope else none

/-- What of the word's encoding the decoder refuses (R43, first rank); none when it decodes. -/
def Instr.check : Instr → Option Reject
  | .sAdd f => checkSA 6 6 6 f
  | .sSub f => checkSA 6 6 6 f
  | .sAnd f => checkSA 6 6 6 f
  | .sOr f => checkSA 6 6 6 f
  | .sXor f => checkSA 6 6 6 f
  | .sAndn f => checkSA 6 6 6 f
  | .sShl f => checkSA 6 6 6 f
  | .sShr f => checkSA 6 6 6 f
  | .sSra f => checkSA 6 6 6 f
  | .sRot f => checkSA 6 6 6 f
  | .sMin f => checkSA 6 6 6 f
  | .sMinN f => checkSA 6 6 6 f
  | .sMax f => checkSA 6 6 6 f
  | .sMaxN f => checkSA 6 6 6 f
  | .sMul f => checkSA 6 6 6 f
  | .sMulh f => checkSA 6 6 6 f
  | .sMulhN f => checkSA 6 6 6 f
  | .sDiv f => checkSA 6 6 6 f
  | .sDivN f => checkSA 6 6 6 f
  | .sRem f => checkSA 6 6 6 f
  | .sRemN f => checkSA 6 6 6 f
  | .sClz f => checkSA 6 6 0 f
  | .sCtz f => checkSA 6 6 0 f
  | .sPopc f => checkSA 6 6 0 f
  | .sBrev f => checkSA 6 6 0 f
  | .sBfx f => checkSA 6 6 6 f
  | .sBfi f => checkSA 6 6 6 f
  | .sIleave f => checkSA 6 6 6 f
  | .sIleave3 f => checkSA 6 6 6 f
  | .sDeleave f => checkSA 6 6 6 f
  | .sDeleave3 f => checkSA 6 6 6 f
  | .sSel _ _ f => checkSA 6 6 6 f
  | .sCmp _ f => checkSA 3 6 6 f
  | .sKop o f => checkSA 3 3 (if o = .not then 0 else 3) f
  | .sFopAdd f => checkSA 6 6 6 f
  | .sFopSub f => checkSA 6 6 6 f
  | .sFopMul f => checkSA 6 6 6 f
  | .sFopDiv f => checkSA 6 6 6 f
  | .sFopSqrt f => checkSA 6 6 0 f
  | .sFopMin f => checkSA 6 6 6 f
  | .sFopMax f => checkSA 6 6 6 f
  | .sFopAbs f => checkSA 6 6 0 f
  | .sFopNeg f => checkSA 6 6 0 f
  | .sFfma _ f => checkSA 6 6 6 f
  | .sFcmp _ f => checkSA 3 6 6 f
  | .sFcvt _ f => checkSA 6 6 0 f
  | .sAddImm _ => none
  | .sAndImm _ => none
  | .sOrImm _ => none
  | .sXorImm _ => none
  | .sShlImm f => if f.res0 = 0 then none else some .reserved
  | .sShrImm f => if f.res0 = 0 then none else some .reserved
  | .sSraImm f => if f.res0 = 0 then none else some .reserved
  | .sRotImm f => if f.res0 = 0 then none else some .reserved
  | .sMulImm _ => none
  | .sCmpImm _ _ _ _ _ => none
  | .sLui _ => none
  | .sAddpc _ => none
  | .sBr f => if f.kg = 0 then some .guard else none
  | .sJmp _ _ => none
  | .sCall _ => none
  | .sLd f => checkSM 0xFF 3 f
  | .sSt f => checkSM 0x1F 5 f
  | .sLdsp f => checkSM 0xFF 1 f
  | .sStsp f => checkSM 0x1F 1 f
  | .sCopy f => checkSC 6 6 0 f
  | .sStream f => checkSC 6 6 0 f
  | .sPrefL1 f => checkSC 0 6 6 f
  | .sPrefL2 f => checkSC 0 6 6 f
  | .sCacheL1inv f => checkSC 6 6 6 f
  | .sCacheRdcinv f => checkSC 6 6 6 f
  | .sCacheL2wb f => checkSC 6 6 6 f
  | .sCacheIcinv f => checkSC 6 6 6 f
  | .sAwset f => checkSC 0 6 6 f
  | .sAwwait f => checkSC 6 6 6 f
  | .sFenceAcq scope f => (checkScope scope).or (checkSC 0 0 0 f)
  | .sFenceRel scope f => (checkScope scope).or (checkSC 0 0 0 f)
  | .sFenceAcqrel scope f => (checkScope scope).or (checkSC 0 0 0 f)
  | .sBarSync f => if f.res0 = 0 ∧ f.d = 0 then none else some .reserved
  | .sBarArrive f => if f.res0 = 0 ∧ f.d = 0 then none else some .reserved
  | .sBarInit f => if f.res0 = 0 then none else some .reserved
  | .sSeal scope f => (if bit 0x70 scope.toNat then none else some .scope).or (checkSC 6 6 6 f)
  | .sUnseal scope f => (if bit 0x70 scope.toNat then none else some .scope).or (checkSC 6 6 6 f)
  | .sAtom _ scope f => (if scope = 0 then none else some .scope).or (checkSC 6 6 6 f)
  | .sAtomAcq _ scope f => (checkScope scope).or (checkSC 6 6 6 f)
  | .sAtomRel _ scope f => (checkScope scope).or (checkSC 6 6 6 f)
  | .sAtomAcqrel _ scope f => (checkScope scope).or (checkSC 6 6 6 f)
  | .sCas order size scope f =>
    if size = 3 then some .access
    else if scope = 7 ∨ (order = 0 ∧ scope ≠ 0) then some .scope else checkSC 6 6 6 f
  | .sMma _ f => checkSC 6 6 6 f
  | .sMloop _ f => checkSC 6 6 6 f
  | .sAwin q f => checkSC 6 6 (if q then 0 else 6) f
  | .sAclr f => checkSC 0 6 6 f
  | .sBeam f => checkSC 6 6 0 f
  | .sRet f => checkSC 0 6 0 f
  | .sJr f => checkSC 0 6 0 f
  | .sLrunUniforms _ f => checkSC 0 6 6 f
  | .sLrun f => checkSC 0 6 0 f
  | .sLwait f => checkSC 0 0 0 f
  | .sExit f => checkSC 0 0 0 f
  | .sRegroup _ f => checkSC 6 6 6 f
  | .sMfs _ => none
  | .sMts _ => none
  | .sNop f => checkSC 0 0 0 f
  | .sWdq f => checkSC 6 6 6 f
  | .sQpush f => checkSC 6 6 6 f
  | .sQpushNw f => checkSC 6 6 6 f
  | .sQpushOpen f => checkSC 6 6 0 f
  | .sQpushClose f => checkSC 6 6 0 f
  | .sQpop _ f => checkSC 6 6 6 f
  | .sQpoll _ f => checkSC 6 6 6 f
  | .sLease f => checkSC 6 6 0 f
  | .sYield f => checkSC 0 0 0 f
  | .sLaunch f => checkSC 6 6 6 f
  | .sTrap f => checkSC 0 6 0 f
  | .sEret f => checkSC 0 0 0 f
  | .sTlbiVa _ f => checkSC 6 6 6 f
  | .sTlbiAsid _ f => checkSC 6 0 6 f
  | .sTlbiAll _ f => checkSC 6 0 0 f
  | .sMfp _ => none
  | .sMtp _ => none
  | .sRegion _ f => checkSC 0 6 6 f
  | .sCommit f => checkSC 0 0 0 f
  | .sCkpt f => checkSC 6 0 0 f
  | .sCschk _ f => checkSC 6 6 6 f
  | .sPoisqRegs f => checkSC 6 0 0 f
  | .sPoisqLine f => checkSC 6 6 0 f
  | .sPoisqSp f => checkSC 6 6 0 f
  | .sPoisqClr f => checkSC 6 6 0 f
  | .sPoisqPol f => checkSC 6 6 6 f
  | .sColl f => checkSC 6 6 0 f
  | .sCwait f => checkSC 6 6 0 f
  | i@(.vAdd f) => ((laneUse i).bind (laneFields f)).or (laneExtra i)
  | i@(.vSub f) => ((laneUse i).bind (laneFields f)).or (laneExtra i)
  | i@(.vMul f) => ((laneUse i).bind (laneFields f)).or (laneExtra i)
  | i@(.vMulh f) => ((laneUse i).bind (laneFields f)).or (laneExtra i)
  | i@(.vAnd f) => ((laneUse i).bind (laneFields f)).or (laneExtra i)
  | i@(.vOr f) => ((laneUse i).bind (laneFields f)).or (laneExtra i)
  | i@(.vXor f) => ((laneUse i).bind (laneFields f)).or (laneExtra i)
  | i@(.vAndn f) => ((laneUse i).bind (laneFields f)).or (laneExtra i)
  | i@(.vShl f) => ((laneUse i).bind (laneFields f)).or (laneExtra i)
  | i@(.vShr f) => ((laneUse i).bind (laneFields f)).or (laneExtra i)
  | i@(.vSra f) => ((laneUse i).bind (laneFields f)).or (laneExtra i)
  | i@(.vMin f) => ((laneUse i).bind (laneFields f)).or (laneExtra i)
  | i@(.vMax f) => ((laneUse i).bind (laneFields f)).or (laneExtra i)
  | i@(.vClz f) => ((laneUse i).bind (laneFields f)).or (laneExtra i)
  | i@(.vPopc f) => ((laneUse i).bind (laneFields f)).or (laneExtra i)
  | i@(.vBrev f) => ((laneUse i).bind (laneFields f)).or (laneExtra i)
  | i@(.vBfx f) => ((laneUse i).bind (laneFields f)).or (laneExtra i)
  | i@(.vBfi f) => ((laneUse i).bind (laneFields f)).or (laneExtra i)
  | i@(.vIleave f) => ((laneUse i).bind (laneFields f)).or (laneExtra i)
  | i@(.vDeleave f) => ((laneUse i).bind (laneFields f)).or (laneExtra i)
  | i@(.vIcmp f) => ((laneUse i).bind (laneFields f)).or (laneExtra i)
  | i@(.vSel f) => ((laneUse i).bind (laneFields f)).or (laneExtra i)
  | i@(.vPop f) => ((laneUse i).bind (laneFields f)).or (laneExtra i)
  | i@(.vMovi f) => ((laneUse i).bind (laneFields f)).or (laneExtra i)
  | i@(.vMoviHi f) => ((laneUse i).bind (laneFields f)).or (laneExtra i)
  | i@(.vMov f) => ((laneUse i).bind (laneFields f)).or (laneExtra i)
  | i@(.vImad f) => ((laneUse i).bind (laneFields f)).or (laneExtra i)
  | i@(.vFadd f) => ((laneUse i).bind (laneFields f)).or (laneExtra i)
  | i@(.vFsub f) => ((laneUse i).bind (laneFields f)).or (laneExtra i)
  | i@(.vFmul f) => ((laneUse i).bind (laneFields f)).or (laneExtra i)
  | i@(.vFfma f) => ((laneUse i).bind (laneFields f)).or (laneExtra i)
  | i@(.vFmin f) => ((laneUse i).bind (laneFields f)).or (laneExtra i)
  | i@(.vFmax f) => ((laneUse i).bind (laneFields f)).or (laneExtra i)
  | i@(.vFsgn f) => ((laneUse i).bind (laneFields f)).or (laneExtra i)
  | i@(.vFcmp f) => ((laneUse i).bind (laneFields f)).or (laneExtra i)
  | i@(.vFclass f) => ((laneUse i).bind (laneFields f)).or (laneExtra i)
  | i@(.vFdiv f) => ((laneUse i).bind (laneFields f)).or (laneExtra i)
  | i@(.vFsqrt f) => ((laneUse i).bind (laneFields f)).or (laneExtra i)
  | i@(.vFrcp f) => ((laneUse i).bind (laneFields f)).or (laneExtra i)
  | i@(.vFrsq f) => ((laneUse i).bind (laneFields f)).or (laneExtra i)
  | i@(.vFex2 f) => ((laneUse i).bind (laneFields f)).or (laneExtra i)
  | i@(.vFlg2 f) => ((laneUse i).bind (laneFields f)).or (laneExtra i)
  | i@(.vFsin f) => ((laneUse i).bind (laneFields f)).or (laneExtra i)
  | i@(.vFcos f) => ((laneUse i).bind (laneFields f)).or (laneExtra i)
  | i@(.vFcvt f) => ((laneUse i).bind (laneFields f)).or (laneExtra i)
  | i@(.vIcvt f) => ((laneUse i).bind (laneFields f)).or (laneExtra i)
  | i@(.vFround f) => ((laneUse i).bind (laneFields f)).or (laneExtra i)
  | i@(.vFscale f) => ((laneUse i).bind (laneFields f)).or (laneExtra i)
  | i@(.vQdec f) => ((laneUse i).bind (laneFields f)).or (laneExtra i)
  | i@(.vMxdec f) => ((laneUse i).bind (laneFields f)).or (laneExtra i)
  | i@(.vPack f) => ((laneUse i).bind (laneFields f)).or (laneExtra i)
  | i@(.vPackScale f) => ((laneUse i).bind (laneFields f)).or (laneExtra i)
  | i@(.vLdacc f) => ((laneUse i).bind (laneFields f)).or (laneExtra i)
  | i@(.vStacc f) => ((laneUse i).bind (laneFields f)).or (laneExtra i)
  | i@(.vTrace f) => ((laneUse i).bind (laneFields f)).or (laneExtra i)
  | i@(.vTex f) => ((laneUse i).bind (laneFields f)).or (laneExtra i)
  | i@(.vLd f) => ((laneUse i).bind (laneFields f)).or (laneExtra i)
  | i@(.vSt f) => ((laneUse i).bind (laneFields f)).or (laneExtra i)
  | i@(.vLdsp f) => ((laneUse i).bind (laneFields f)).or (laneExtra i)
  | i@(.vStsp f) => ((laneUse i).bind (laneFields f)).or (laneExtra i)
  | i@(.vAtom f) => ((laneUse i).bind (laneFields f)).or (laneExtra i)
  | i@(.vCas f) => ((laneUse i).bind (laneFields f)).or (laneExtra i)
  | i@(.vAtomsp f) => ((laneUse i).bind (laneFields f)).or (laneExtra i)
  | i@(.vBr f) => ((laneUse i).bind (laneFields f)).or (laneExtra i)
  | i@(.vJmp f) => ((laneUse i).bind (laneFields f)).or (laneExtra i)
  | i@(.vJoin f) => ((laneUse i).bind (laneFields f)).or (laneExtra i)
  | i@(.vLend f) => ((laneUse i).bind (laneFields f)).or (laneExtra i)
  | i@(.vExit f) => ((laneUse i).bind (laneFields f)).or (laneExtra i)
  | i@(.vVote f) => ((laneUse i).bind (laneFields f)).or (laneExtra i)
  | i@(.vShuf f) => ((laneUse i).bind (laneFields f)).or (laneExtra i)
  | i@(.vMfs f) => ((laneUse i).bind (laneFields f)).or (laneExtra i)
  | i@(.vTrap f) => ((laneUse i).bind (laneFields f)).or (laneExtra i)
  | i@(.vCsacc f) => ((laneUse i).bind (laneFields f)).or (laneExtra i)
  | i@(.vChk f) => ((laneUse i).bind (laneFields f)).or (laneExtra i)
  | .longResultReturn _ _ _ _ | .switchMarkerRelease _ _ | .regroupOfferTimeout _ _ | .scalarDividerComplete _ | .teamAdmission _
  | .overBudgetAdmission _ | .teamBlocked _ _ | .teamUnblocked _ _ | .qpollBackoffEnd _ _ | .leaseDecay _ _
  | .queueTailSeen _ | .queueReevaluation _ | .launchPlacement _ | .partitionSetupComplete _ | .replicaDescriptorReceived _
  | .replicaReady _ _ | .replicaStart _ | .replicaAbort _ | .wdqServe _ _ | .awwaitTimeout _ _
  | .copyStart _ | .copyComplete _ _ | .streamTileFill _ _ | .streamTileDrain _ _ | .engineLineRelease _ _
  | .storePerformedAtHome _ _ _ | .matrixStep _ _ | .mloopWaitTimeout _ | .beamQueryStart _ | .splitRecordAnswer _
  | .hitRecordRetry _ | .barrierSyncTimeout _ _ | .queueWaitTimeout _ _ | .recordQueueOperation _ _ | .terminationRound _
  | .terminationTokenPass _ | .preq _ _ _ | .pcancel _ _ _ | .pkill _ _ _ | .groupResume _ _
  | .hotnessDecay _ | .migrationExamine _ _ _ | .errorDetection _ | .regionRecordValid _ _ | .speedwellDiscard _ _
  | .regionMove _ _ _ | .regionMoveTimeout _ _ | .regionBufferOverflow _ _ | .dualArbitration _ _ _ _ | .laneRetirement _
  | .laneRemapPauseEnd _ | .wear _ _ _ _ | .mailboxWrite _ | .mailboxRead _ | .semRead _ _
  | .semWrite _ _ _ | .ctxbaseWrite _ | .qtbaseWrite _ | .freepush _ _ | .freepop _ _
  | .freecountWrite _ _ | .statusWrite _ | .resetreq _ | .pwrcapWrite _ | .fabctlWrite _
  | .sidebandReset _ | .bringupStageComplete _ | .portLost _ | .getVersion _ | .getCapabilities _
  | .negotiateAlgorithms _ | .getDigests _ | .getCertificate _ _ _ _ | .challenge _ _ _ | .getMeasurements _ _ _ _
  | .spdmUnsupportedRequest _ _ | .powerSample _ | .pwralertRaise | .temperatureSample _ _ | .thermalTrip _
  | .flitReceive _ _ _ _ | .linkRetrain _ _ | .stationDown _ | .ualinkRequestArrival _ | .heartbeatSend
  | .heartbeatReceive _ | .packageLostDeclaration _ | .exclude _ _ | .collectiveAttempt _ _ | .cwaitTimeout _ _
  | .powerGood | .podMembershipExchange _ => some .noWord

/-- A word that the decoder accepts. -/
def Instr.wellFormed (i : Instr) : Bool := i.check = none

end Sys2Proof
end

