-- ==== Sys2Proof/Machine/Operands.lean ====
section
/-!
DEFINITION. How a word of either stream reads its operands, the checks made before it takes effect (R43), and what follows its
effect: guards (R41), registers of the declaration (R36, R37), latches (R307), hazards (R304), poison on consumption (R426).
-/
namespace Sys2Proof.Machine

/-! ### Registers that a team may name (R36, R37) -/

/-- Scalar register i may be named. -/
def Team.scalarOk (m : Team) (i : Nat) : Bool :=
  i < m.id.sregs || (m.id.trapres && 56 ≤ i && i < 64 && (m.trap.handler || m.id.runtime))

/-- Lane register j may be named. -/
def Team.laneOk (m : Team) (j : Nat) : Bool :=
  if m.id.trapres then j + 8 < m.id.vregs || (232 ≤ j && j < 240 && (m.trap.handler || m.id.runtime))
  else j < m.id.vregs

/-! ### Scalar words -/

/-- Where a word runs: its core and team, and the team as the word finds it. -/
structure Ctx where
  c : Nat
  t : Nat
  m : Team

/-- What a scalar word names. `reads` and `writes` are checked for R36 and HAZARD; `consumes` are the registers whose marks
PCTRAP judges, in order; `kreads` the predicates read as operands, `kwrites` those written or only selected by; `even` must be even; `guard` is the guard predicate; `long`
the registers of a guarded word that take a long result, marked whatever the guard reads (R304); `illegal`: the team may not name
a special register. -/
structure ScalarUse where
  w : Bool
  reads : List Nat := []
  writes : List Nat := []
  consumes : List Nat := []
  kreads : List Nat := []
  kwrites : List Nat := []
  even : List Nat := []
  guard : Nat := 0
  long : List Nat := []
  priv : Bool := false
  noisy : Bool := false
  illegal : Team → Bool := fun _ => false

/-- What a scalar word does. -/
inductive Eff where
  /-- its effect is done; the stream goes to the next word -/
  | done (s : State)
  /-- its effect is done; the stream goes to an address -/
  | jump (s : State) (pc : Word)
  /-- it raises a trap and takes no effect -/
  | trap (r : Raise)
  /-- it waits, and is tried again -/
  | hold (s : State) (h : Hold)
  /-- the team no longer issues from this word: it ended, or its stream was set otherwise -/
  | gone (s : State)

/-- A scalar register as an operand. -/
def Ctx.sreg (x : Ctx) (s : State) (i : Nat) : Marked := s.sreg x.c x.m i

/-- Writes a scalar register. -/
def Ctx.setSreg (x : Ctx) (s : State) (i : Nat) (v : Marked) : State := s.setSreg x.c x.m i v

/-- The first cause of R43 that a scalar word meets before its own checks. For a predicate that awaits a long result R384 states no
TRAP_ADDR (DESIGN CHOICE, log entry 113). -/
def scalarCheck (s : State) (x : Ctx) (u : ScalarUse) : Option Raise :=
  let named := u.reads ++ u.writes
  if u.priv && !x.m.id.runtime then some ⟨.privilege, 0, 0⟩
  else if named.any (fun i => !x.m.scalarOk i) || u.even.any (fun i => i % 2 == 1) || u.illegal x.m then some ⟨.illegalOperand, 0, 0⟩
  else match named.find? fun i => x.m.regs.slongs.getLsbD i with
    | some i => some ⟨.hazard, wordN i, 0⟩
    | none =>
      if (u.guard :: u.kreads ++ u.kwrites).any (fun n => x.m.regs.klongs.getLsbD n) then
        some ⟨.hazard, Config.predicateAddr s.free 0, 0⟩
      else if x.m.ctl.policy.getLsbD 0 then
        if x.m.regs.predMark u.guard then some ⟨.poisonConsumed, Config.predicateAddr s.free 0, 0⟩
        else if !x.m.regs.pred u.guard then none
        else match u.consumes.find? fun i => (x.sreg s i).mark with
          | some i => some ⟨.poisonConsumed, wordN i, 0⟩
          | none =>
            if u.kreads.any x.m.regs.predMark then some ⟨.poisonConsumed, Config.predicateAddr s.free 0, 0⟩ else none
      else none

/-- A marked guard or branch condition is obeyed and noted (R427, R428), once for a word that then waits. -/
def noteControl (s : State) (x : Ctx) (marked : Bool) : State :=
  if !marked then s
  else
    let s := (s.log (dieOf x.c) (teamRecord s x.c x.m 13 10 0)).2
    let s := s.modTeam x.c x.t fun m => m.modCtl fun y => { y with cpois := true }
    if x.m.ctl.policy.getLsbD 1 then s.machineCheck x.c x.t (teamRecord s x.c x.m 13 6 0) else s

/-- The spin detector after a word (R353): a changed register or predicate ends low priority, a noisy word restarts the count. -/
def spinAfter (changed noisy : Bool) (p : Spin) : Spin :=
  if changed then Spin.init else if noisy then { p with count := 0 } else p

/-- The spin detector at a taken branch (R353): `back`: it is one that the detector counts. -/
def spinTaken (p : Spin) (pc : Word) (back : Bool) : Spin :=
  if !back then Spin.init
  else if p.pc = pc then { p with count := p.count + 1, low := p.low || p.count ≥ 7 }
  else ⟨pc, 1, false⟩

/-- A scalar word has completed: the stream goes to `pc`, a switch marker parks the team (R303). -/
def scalarDone (s : State) (c t : Nat) (pc : Word) (w : Bool) : State :=
  s.modTeam c t fun m => { m with
    regs := { m.regs with spc := pc }
    trap := { m.trap with skipDebug := false }
    sched := { m.sched with hold := none, lastScalar := s.cycles, parked := m.sched.parked || w } }

/-- The held word waits on, from the cycle at which it first waited. -/
def scalarHold (s : State) (c t : Nat) (h : Hold) (w : Bool) : State :=
  s.modTeam c t fun m => { m with
    sched := { m.sched with
      holdSince := if m.sched.hold = some h then m.sched.holdSince else s.cycles, hold := some h, holdW := w } }

/-- The scalar registers and predicates that a word may write have changed. -/
def changedBy (s s' : State) (x : Ctx) (u : ScalarUse) : Bool :=
  u.writes.any (fun i => (s.sreg x.c x.m i).val != (s'.sreg x.c x.m i).val) ||
  (match s'.team x.c x.t with | some m => m.regs.k != x.m.regs.k | none => false)

/-- A scalar word: the checks, the guard, then its body. -/
def scalarWord (u : ScalarUse) (body : Ctx → State → Eff) (s : State) : Host.Outcome State Fault Refusal :=
  match s.focus with
  | none => .fault .noIssuer
  | some f =>
    match s.team f.core f.team with
    | none => .fault .noIssuer
    | some m =>
      let x : Ctx := ⟨f.core, f.team, m⟩
      let trap (r : Raise) : Host.Outcome State Fault Refusal :=
        .next (raise s x.c x.t m ⟨r, none, some m.regs.spc⟩)
      match scalarCheck s x u with
      | some r => trap r
      | none =>
        let s := noteControl s x (m.regs.predMark u.guard && m.sched.hold.isNone)
        let next := m.regs.spc + 4
        if !m.regs.pred u.guard then
          let s := s.modTeam x.c x.t fun m =>
            m.modRegs fun r => { r with slongs := u.long.foldl (fun b i => setBit b i true) r.slongs }
          .next (scalarDone s x.c x.t next u.w)
        else match body x s with
          | .trap r => trap r
          | .hold s h => .next (scalarHold s x.c x.t h u.w)
          | .gone s => .next s
          | .done s' =>
            let changed := changedBy s s' x u
            let s' := s'.modTeam x.c x.t fun m => m.modSched fun y => { y with spin := spinAfter changed u.noisy y.spin }
            .next (scalarDone s' x.c x.t next u.w)
          | .jump s' pc => .next (scalarDone s' x.c x.t pc u.w)

/-- A word that commits an open region before it takes effect (R289, R419): `k` is the rest of the word. -/
def commitFirst (x : Ctx) (s : State) (k : State → Eff) : Eff :=
  match x.m.region with
  | none => k s
  | some g =>
    match commit s x.c x.t x.m g with
    | .done s c => if c = x.c then k s else .gone (scalarHold s c x.t .drain false)
    | .wait => .hold s .drain
    | .sealed s => .gone s
    | .fatal s r => .gone (s.endTeam x.c x.t r)

/-- A word that waits until everything before it has been performed at a scope (R266, R269). -/
def releaseFirst (x : Ctx) (s : State) (scope : Nat) (k : State → Eff) : Eff :=
  if released s x.c scope then k s else .hold s .drain

/-- An engine word that waits until every store that happens before it is at home (R249, R254, R290). -/
def settleFirst (x : Ctx) (s : State) (k : State → Eff) : Eff :=
  if settled s x.c then k s else .hold s .drain

/-- Marks scalar registers and predicates with an outstanding long result and queues the result (R304). -/
def State.longScalar (s : State) (c t : Nat) (regs : List (Nat × Marked)) (ks : List (Nat × Bool × Bool)) (ready fill : Bool) : Nat × State :=
  let (n, s) := s.fresh
  (n, s.modTeam c t fun m => { m with
    regs := { m.regs with
      slongs := regs.foldl (fun b r => setBit b r.1 true) m.regs.slongs
      klongs := ks.foldl (fun b r => if r.1 = 0 then b else setBit b r.1 true) m.regs.klongs }
    pend := m.pend ++ [⟨n, regs, ks, [], [], ready, false, fill⟩] })

/-- Some of the scalar registers that a word reads are marked. -/
def Ctx.marked (x : Ctx) (s : State) (regs : List Nat) : Bool := regs.any fun i => (x.sreg s i).mark

/-- A status word as a long result that is ready (R304), with the mark of what the word consumed (R428). -/
def Ctx.status (x : Ctx) (s : State) (d : Nat) (v : Word) (mark : Bool) : State := (s.longScalar x.c x.t [(d, ⟨v, mark⟩)] [] true false).2

/-! ### Lane words -/

/-- The sources of a lane word. -/
inductive Src where
  | a | b | c
deriving DecidableEq, Repr

/-- What a lane word does with its operands beyond LaneUse: `eat`: the sources that it consumes (R426); `vdRead`: it reads vd;
`pairD`, `pairB`: vd or vb names a register pair; `preds`: predicates read as operands; `guarded`: pg and pgn are a guard;
`long`: vd, and pd if it has one, take a long result; `scalarD`: vd names that scalar register; `illegal`: it names a special register that
it may not; `noisy`: it is a store, an atomic or an engine command (R353). -/
structure LaneSpec where
  eat : List Src := []
  vdRead : Bool := false
  pairD : Bool := false
  pairB : Bool := false
  preds : List Nat := []
  guarded : Bool := true
  long : Bool := false
  scalarD : Option Nat := none
  illegal : Bool := false
  noisy : Bool := false

/-- Where a lane word runs: the split's index and the split, the lanes that it runs in, and its sources. -/
structure LaneCtx where
  c : Nat
  t : Nat
  m : Team
  i : Nat
  p : Split
  f : Lane
  lanes : List Nat
  src : Src → Nat → Marked

/-- What a lane word does. -/
inductive LaneEff where
  /-- its effect is done; the split goes to the next word -/
  | next (s : State)
  /-- its effect is done; the split goes to an address -/
  | goto (s : State) (pc : Word)
  /-- its effect is done, the split table included -/
  | gone (s : State)
  | trap (r : Raise)
  /-- it cannot take effect yet and is tried again -/
  | wait
  /-- an open region commits, and the word is tried again (R289) -/
  | commit
  /-- the region buffer would overflow: the word is held (R424) -/
  | overflow

/-- The eight-bit operand fields of a source. -/
def codeOf (f : Lane) : Src → Nat
  | .a => f.va.toNat
  | .b => f.vb.toNat
  | .c => f.vc.toNat

/-- The latch-read flag of a source (R34). -/
def latchOf (f : Lane) : Src → Bool
  | .a => f.lr.getLsbD 2
  | .b => f.lr.getLsbD 1
  | .c => f.lr.getLsbD 0

/-- How a lane word uses a source field. -/
def fieldOf (u : LaneUse) : Src → FieldUse
  | .a => u.a
  | .b => u.b
  | .c => u.c

/-- The sources that are operands. -/
def sourcesOf (u : LaneUse) : List Src := [Src.a, .b, .c].filter fun x => fieldOf u x == .op

/-- A register source or destination code may be named, alone or as the even member of a pair (R35 to R38). -/
def regOk (m : Team) (code : Nat) (pair : Bool) : Bool :=
  m.laneOk code && (!pair || (code % 2 == 0 && m.laneOk (code + 1)))

/-- A source field is legal (R35, R38). Of the codes that are no registers only z may stand for a pair, the data of a 128-bit store among them: it
supplies zeros (DESIGN CHOICE, log entry 98). -/
def srcOk (m : Team) (f : Lane) (pair : Bool) (x : Src) : Bool :=
  let code := codeOf f x
  if latchOf f x then code % 4 != 3 && !pair
  else if code < 240 then regOk m code pair
  else code ≤ 0xFA && !(pair && code != 0xF8)

/-- The destination field is legal (R35). -/
def dstOk (m : Team) (code : Nat) (pair : Bool) : Bool :=
  if code < 240 then regOk m code pair else code == 0xF8

/-- The lane registers that a code names. -/
def namedRegs (code : Nat) (pair : Bool) : List Nat :=
  if code < 240 then (if pair then [code, code + 1] else [code]) else []

/-- The running block of a split's side (R301, R386). -/
def Team.blockOf (m : Team) (p : Split) : Block :=
  match (if p.handler then m.ctl.hrunning else m.ctl.running) with
  | some r => r.block
  | none => ⟨0, [], 0, 0⟩

/-- What a source supplies to a lane (R35, R38). A lane that no hold has reached reads a free value (DEDUCED, log entry 15). -/
def laneSource (s : State) (c : Nat) (m : Team) (p : Split) (f : Lane) (x : Src) (l : Nat) : Marked :=
  let code := codeOf f x
  if latchOf f x then
    match p.latches.getD (code % 4) none with
    | some e => ⟨if e.lanes.getLsbD l then e.vals.get 0 l else Config.latchLane s.free (code % 4) l, e.marks.getLsbD l⟩
    | none => ⟨0, false⟩
  else if code < 240 then s.vreg c m code l
  else if code < 0xF8 then (m.blockOf p).uniforms.getD (code - 0xF0) ⟨0, false⟩
  else if code = 0xF9 then ⟨wordN l, false⟩
  else if code = 0xFA then ⟨wordN m.id.lanes, false⟩
  else ⟨0, false⟩

/-- The guard of a lane (R41). -/
def laneGuard (m : Team) (f : Lane) (l : Nat) : Bool := m.ctl.pred f.pg.toNat l != f.pgn

/-- The latch entries that a word reads, with the ages they have for it (R307). -/
def expiredLatch (p : Split) (f : Lane) (u : LaneUse) : Option Nat :=
  ((sourcesOf u).filter (latchOf f)).map (fun x => codeOf f x % 4) |>.find? fun i =>
    match p.latches.getD i none with
    | some e => e.age + 1 > 2
    | none => true

/-- The hold of a lane word into its latch entry, after the ages of all entries have grown (R307). -/
def holdLatches (p : Split) (f : Lane) (lanes : List Nat) (src : Src → Nat → Marked) : List (Option Latch) :=
  let aged := p.latches.map fun e => e.map fun (y : Latch) => { y with age := y.age + 1 }
  let from_ : Option Src := if f.hs = 1 then some .a else if f.hs = 2 then some .b else if f.hs = 3 then some .c else none
  match from_ with
  | none => aged
  | some x =>
    let old : Latch := match p.latches.getD f.hl.toNat none with | some e => e | none => ⟨0, [], 0, 0⟩
    let new := lanes.foldl (fun (e : Latch) l =>
      let v := src x l
      { e with vals := e.vals.set 0 l v.val, lanes := setBit e.lanes l true, marks := setBit e.marks l v.mark }) { old with age := 0 }
    setReg none 3 aged f.hl.toNat (some new)

/-- The lanes that read a marked value among the sources a word consumes, and the code of the first marked source in the order
va, vb, vc (R428); none for the code where only a predicate is marked. -/
def consumed (x : LaneCtx) (sp : LaneSpec) (active : List Nat) : List Nat × Option Nat :=
  let pm (l : Nat) : Bool := sp.preds.any fun n => x.m.ctl.predMark n l
  let gm (l : Nat) : Bool := sp.guarded && x.m.ctl.predMark x.f.pg.toNat l
  (active.filter fun l => gm l || (x.lanes.contains l && (pm l || sp.eat.any fun y => (x.src y l).mark)),
   (sp.eat.find? fun y => x.lanes.any fun l => (x.src y l).mark).map (codeOf x.f))

/-- What a lane word awaits from its issue on: registers, and predicates from 240 on (R304). -/
def longRegs (f : Lane) (u : LaneUse) (sp : LaneSpec) : List Nat :=
  if sp.long then
    (if u.vd == .op then namedRegs f.vd.toNat sp.pairD else []) ++ (if u.pd && f.pd != 0 then [240 + f.pd.toNat] else [])
  else []

/-- The spin detector of a split at a word (R353). -/
def Spin.noise (p : Spin) (noisy : Bool) : Spin := if noisy then { p with count := 0 } else p

/-- The checks of R43 on a lane word before its own. -/
def laneCheck (s : State) (x : LaneCtx) (u : LaneUse) (sp : LaneSpec) (active : List Nat) : Option Raise :=
  let all := x.m.active x.p
  let src := sourcesOf u
  let badD := match sp.scalarD with
    | some d => !x.m.scalarOk d
    | none => u.vd == .op && !dstOk x.m x.f.vd.toNat sp.pairD
  if badD || sp.illegal || src.any (fun y => !srcOk x.m x.f (sp.pairB && y == .b) y) ||
      (sp.pairB && x.f.hs == 2) then some ⟨.illegalOperand, 0, all⟩
  else match expiredLatch x.p x.f u with
    | some i => some ⟨.latchExpired, wordN i, all⟩
    | none =>
      let regs := ((src.filter fun y => !latchOf x.f y).flatMap fun y => (namedRegs (codeOf x.f y) (sp.pairB && y == .b))) ++
        (if u.vd == .op && sp.scalarD.isNone then namedRegs x.f.vd.toNat sp.pairD else []) ++
        ((x.f.pg.toNat :: x.f.pd.toNat :: sp.preds).filter (· != 0)).map (240 + ·)
      match regs.find? fun j => x.p.longs.getLsbD j with
      | some j => some ⟨.hazard, if j < 240 then wordN j else Config.predicateAddr s.free 0, all⟩
      | none =>
        if x.m.ctl.policy.getLsbD 0 then
          match consumed x sp active with
          | ([], _) => none
          | (ls, code) =>
            some ⟨.poisonConsumed, match code with | some k => wordN k | none => Config.predicateAddr s.free (ls.headD 0 + 1), maskOf ls⟩
        else none

/-- A lane word has had its turn and waits (R352). -/
def State.laneServed (s : State) (c t : Nat) : State :=
  s.modTeam c t fun m => { m with sched := { m.sched with lastLane := s.cycles } }

/-- The commit that a lane word asks for (R289). -/
def commitLane (s : State) (c t : Nat) (m : Team) : State :=
  match m.region with
  | none => s
  | some g =>
    match commit s c t m g with
    | .done s _ => s
    | .wait => s
    | .sealed s => s
    | .fatal s r => s.endTeam c t r

/-- A lane word of a split: the checks, then its body over the lanes in which it runs; then latches, place and marker. -/
def laneWord (f : Lane) (u : LaneUse) (sp : LaneSpec) (body : LaneCtx → State → LaneEff) (s : State) :
    Host.Outcome State Fault Refusal :=
  match s.focus with
  | none => .fault .noIssuer
  | some fo =>
    match fo.split, s.team fo.core fo.team with
    | some i, some m =>
      match m.ctl.split i with
      | none => .fault .noIssuer
      | some p =>
        let active := lanesOf (m.active p) m.id.lanes
        let lanes := if sp.guarded then active.filter (laneGuard m f) else active
        let x : LaneCtx := ⟨fo.core, fo.team, m, i, p, f, lanes, laneSource s fo.core m p f⟩
        let trap (r : Raise) : Host.Outcome State Fault Refusal :=
          .next (raise s x.c x.t m ⟨r, some (i, p.lpc), none⟩)
        match laneCheck s x u sp active with
        | some r => trap r
        | none =>
          let marked := sp.guarded && active.any fun l => m.ctl.predMark f.pg.toNat l
          let s1 := noteControl s ⟨x.c, x.t, m⟩ marked
          let s1 := if f.lr = 0 then s1 else { s1 with free := s1.free + 1024 }
          let p1 : Split := { p with
            latches := holdLatches p f lanes x.src
            skipDebug := false
            longs := (longRegs f u sp).foldl (fun b j => setBit b j true) p.longs
            spin := p.spin.noise sp.noisy }
          let s1 := s1.modTeam x.c x.t fun m => { m with
            ctl := { m.ctl.setSplit i (some p1) with turn := if f.w then (i + 1) % 16 else i }
            sched := { m.sched with lastLane := s1.cycles, parked := m.sched.parked || f.w } }
          let place (s : State) (pc : Word) : State := s.modTeam x.c x.t fun m => m.modCtl fun y =>
            match y.split i with
            | some q => y.setSplit i (some { q with lpc := pc })
            | none => y
          match body { x with p := p1 } s1 with
          | .trap r => trap r
          | .wait => .next (s.laneServed x.c x.t)
          | .overflow => .next (s.overflow x.c x.t)
          | .commit => .next (commitLane (s.laneServed x.c x.t) x.c x.t m)
          | .next s' => .next (place s' (p.lpc + 12))
          | .goto s' pc => .next (place s' pc)
          | .gone s' => .next (s'.settle x.c x.t)
    | _, _ => .fault .noIssuer

/-! ### Words that compute lane by lane -/

/-- What a word computes for a lane: destination, second register of a pair, predicate with its mark, flags. -/
structure LaneOut where
  d : Option Marked := none
  d2 : Option Marked := none
  p : Option (Bool × Bool) := none
  flags : Flags := 0

/-- Writes what a word computed into registers and predicates. -/
def writeLanes (k : Core) (m : Team) (f : Lane) (outs : List (Nat × LaneOut)) : Core × Ctl :=
  let vd := f.vd.toNat
  let put (k : Core) (j l : Nat) (v : Option Marked) : Core :=
    match v with
    | some v => if j < 240 then k.setVreg m j l v else k
    | none => k
  (outs.foldl (fun k e => put (put k vd e.1 e.2.d) (vd + 1) e.1 (if vd < 239 then e.2.d2 else none)) k,
   outs.foldl (fun (y : Ctl) e => match e.2.p with | some (v, mk) => y.setPred f.pd.toNat e.1 v mk | none => y) m.ctl)

/-- The OR of the flags of the lanes. -/
def allFlags (outs : List (Nat × LaneOut)) : Flags := outs.foldl (fun a e => a ||| e.2.flags) 0

/-- FPFLAGS gains flags (R123). -/
def State.addFlags (s : State) (c t : Nat) (fl : Flags) : State :=
  if fl = 0 then s
  else s.modTeam c t fun m => { m with regs := { m.regs with fpflags := m.regs.fpflags ||| (fl.setWidth 64) } }

/-- The FP_EXCEPTION of a lane word, if an enabled flag would be raised (R125). -/
def fpTrap (fpctl : Word) (outs : List (Nat × LaneOut)) : Option Raise :=
  let en : Flags := BitVec.ofNat 5 (bits fpctl.toNat 8 5)
  let bad := outs.filter fun e => e.2.flags &&& en != 0
  if bad.isEmpty then none
  else some ⟨.fpException, (allFlags bad &&& en).setWidth 64, maskOf (bad.map (·.1))⟩

/-- The lane spin detector after a word that computes (R353). -/
def laneSpin (s s' : State) (x : LaneCtx) : State :=
  let changed := x.lanes.any (fun l => s'.vreg x.c x.m x.f.vd.toNat l != s.vreg x.c x.m x.f.vd.toNat l)
  s'.modTeam x.c x.t fun m => m.modCtl fun y =>
    match y.split x.i with
    | some q =>
      let preds := y.preds != x.m.ctl.preds
      y.setSplit x.i (some { q with spin := spinAfter (changed || preds) false q.spin })
    | none => y

/-- A lane word that computes each lane on its own and writes at once. -/
def laneAlu (f : Lane) (u : LaneUse) (sp : LaneSpec) (fn : LaneCtx → State → Nat → LaneOut) (s : State) :
    Host.Outcome State Fault Refusal :=
  laneWord f u sp (fun x s =>
    let outs := x.lanes.map fun l => (l, fn x s l)
    match fpTrap (x.m.blockOf x.p).fpctl outs with
    | some r => .trap r
    | none =>
      match s.team x.c x.t with
      | none => .gone s
      | some m =>
        let (k, ctl) := writeLanes (s.core x.c) m f outs
        let s' := (s.setCore x.c k).setTeam x.c x.t (some { m with ctl })
        .next (laneSpin s (s'.addFlags x.c x.t (allFlags outs)) x)) s

/-- Queues the long results of a lane word (R304). -/
def State.longLane (s : State) (x : LaneCtx) (outs : List (Nat × LaneOut)) (ready fill : Bool) : Nat × State :=
  let (n, s) := s.fresh
  let vd := x.f.vd.toNat
  let regs := outs.flatMap fun e =>
    (match e.2.d with | some v => if vd < 240 then [(vd, e.1, v)] else [] | none => []) ++
    (match e.2.d2 with | some v => if vd < 239 then [(vd + 1, e.1, v)] else [] | none => [])
  let preds := outs.filterMap fun e => e.2.p.map fun b => (x.f.pd.toNat, e.1, b.1, b.2)
  (n, s.modTeam x.c x.t fun m => { m with pend := m.pend ++ [⟨n, [], [], regs, preds, ready, true, fill⟩] })

/-- A lane word that computes each lane on its own and delivers a long result (R119). With a trap enable set the split holds
until the result is formed (R126), which the order of the model's steps already gives. -/
def laneLong (f : Lane) (u : LaneUse) (sp : LaneSpec) (fn : LaneCtx → State → Nat → LaneOut) (s : State) :
    Host.Outcome State Fault Refusal :=
  laneWord f u { sp with long := true } (fun x s =>
    let outs := x.lanes.map fun l => (l, fn x s l)
    match fpTrap (x.m.blockOf x.p).fpctl outs with
    | some r => .trap r
    | none => .next ((s.longLane x outs true false).2.addFlags x.c x.t (allFlags outs))) s

end Sys2Proof.Machine
end

