-- ==== Sys2Proof/Machine/LaneInt.lean ====
section
/-!
DEFINITION. The lane integer words (R106 to R117).
-/
namespace Sys2Proof.Machine

/-- The width of a class I word. -/
def Ity (f : Lane) : Nat := ityWidth f.ty.toNat
/-- Its signedness. -/
def Isg (f : Lane) : Bool := itySigned f.ty.toNat

/-- Source b of a class I word: a register, or imm33 with x (R40, R90). -/
def srcB (x : LaneCtx) (l : Nat) : Marked :=
  if x.f.x then ⟨x.f.imm.signExtend 64, false⟩ else x.src .b l

/-- A value written to vd in a lane. -/
def outD (v : Word) (mark : Bool) : LaneOut := { d := some ⟨v, mark⟩ }

/-- A binary class I word with a w-bit result (R107, R108): the operation gives the exact integer. -/
def laneBin (f : Lane) (op : Nat → Bool → Nat → Nat → Int) : State → Host.Outcome State Fault Refusal :=
  laneAlu f (LaneUse.binary f true) { eat := if f.x then [.a] else [.a, .b] } fun x _ l =>
    let a := x.src .a l
    let b := srcB x l
    let r := op (Ity f) (Isg f) a.val.toNat b.val.toNat
    outD (extend (Ity f) (Isg f) (if f.sat then clampI (Ity f) (Isg f) r else r)) (a.mark || b.mark)

/-- A one-source class I word (R109). -/
def laneOne (f : Lane) (op : Nat → Nat → Nat) : State → Host.Outcome State Fault Refusal :=
  laneAlu f { vd := .op, a := .op } { eat := [.a] } fun x _ l =>
    let a := x.src .a l
    outD (extend (Ity f) (Isg f) (op (Ity f) (a.val.toNat % 2 ^ Ity f))) a.mark

/-- R108. -/
def execVAdd (f : Lane) : State → Host.Outcome State Fault Refusal := laneBin f fun w g a b => srcInt w g a + srcInt w g b
/-- R108. -/
def execVSub (f : Lane) : State → Host.Outcome State Fault Refusal := laneBin f fun w g a b => srcInt w g a - srcInt w g b
/-- R108. -/
def execVMul (f : Lane) : State → Host.Outcome State Fault Refusal := laneBin f fun w g a b => srcInt w g a * srcInt w g b
/-- R108. -/
def execVMulh (f : Lane) : State → Host.Outcome State Fault Refusal :=
  laneBin f fun w g a b => srcInt w g a * srcInt w g b / 2 ^ w
/-- R108. -/
def execVAnd (f : Lane) : State → Host.Outcome State Fault Refusal := laneBin f fun _ _ a b => (a &&& b : Nat)
/-- R108. -/
def execVOr (f : Lane) : State → Host.Outcome State Fault Refusal := laneBin f fun _ _ a b => (a ||| b : Nat)
/-- R108. -/
def execVXor (f : Lane) : State → Host.Outcome State Fault Refusal := laneBin f fun _ _ a b => (a ^^^ b : Nat)
/-- R108. -/
def execVAndn (f : Lane) : State → Host.Outcome State Fault Refusal :=
  laneBin f fun w _ a b => (a &&& (2 ^ w - 1 - b % 2 ^ w) : Nat)
/-- R91, R108. -/
def execVShl (f : Lane) : State → Host.Outcome State Fault Refusal := laneBin f fun w _ a b => shlN w a (b % 2 ^ w)
/-- R91, R108. -/
def execVShr (f : Lane) : State → Host.Outcome State Fault Refusal := laneBin f fun w _ a b => shrN w a (b % 2 ^ w)
/-- R91, R108. -/
def execVSra (f : Lane) : State → Host.Outcome State Fault Refusal := laneBin f fun w _ a b => sraN w a (b % 2 ^ w)
/-- R108. -/
def execVMin (f : Lane) : State → Host.Outcome State Fault Refusal := laneBin f fun w g a b => minI (srcInt w g a) (srcInt w g b)
/-- R108. -/
def execVMax (f : Lane) : State → Host.Outcome State Fault Refusal := laneBin f fun w g a b => maxI (srcInt w g a) (srcInt w g b)
/-- R109. -/
def execVClz (f : Lane) : State → Host.Outcome State Fault Refusal := laneOne f clzN
/-- R109. -/
def execVPopc (f : Lane) : State → Host.Outcome State Fault Refusal := laneOne f popN
/-- R109. -/
def execVBrev (f : Lane) : State → Host.Outcome State Fault Refusal := laneOne f revN
/-- R110. -/
def execVBfx (f : Lane) : State → Host.Outcome State Fault Refusal :=
  laneBin f fun w g a b => bfxI w g a (b % 2 ^ w)
/-- R110. -/
def execVBfi (f : Lane) : State → Host.Outcome State Fault Refusal :=
  laneAlu f { LaneUse.binary f false with c := .op } { eat := if f.x then [.a, .c] else [.a, .b, .c] } fun x _ l =>
    let a := x.src .a l
    let b := srcB x l
    let c := x.src .c l
    outD (extend (Ity f) (Isg f) (bfiN (Ity f) a.val.toNat (b.val.toNat % 2 ^ Ity f) c.val.toNat)) (a.mark || b.mark || c.mark)
/-- R111: with x three fields, of 21 bits for n64 and 10 for n32. -/
def execVIleave (f : Lane) : State → Host.Outcome State Fault Refusal :=
  laneAlu f { vd := .op, a := .op, b := .op, c := if f.x then .op else .bits 0, x := true }
    { eat := if f.x then [.a, .b, .c] else [.a, .b] } fun x _ l =>
    let a := x.src .a l
    let b := x.src .b l
    if f.x then
      let c := x.src .c l
      outD (wordN (ileaveN (if Ity f = 64 then 21 else 10) [a.val.toNat, b.val.toNat, c.val.toNat])) (a.mark || b.mark || c.mark)
    else outD (wordN (ileaveN (Ity f / 2) [a.val.toNat, b.val.toNat])) (a.mark || b.mark)
/-- R111. -/
def execVDeleave (f : Lane) : State → Host.Outcome State Fault Refusal :=
  laneAlu f { vd := .op, a := .op, x := true, imm := 3 } { eat := [.a] } fun x _ l =>
    let a := x.src .a l
    let v := a.val.toNat % 2 ^ Ity f / 2 ^ (f.imm.toNat % 4)
    outD (wordN (if f.x then deleaveN 3 (if Ity f = 64 then 21 else 10) v else deleaveN 2 (Ity f / 2) v)) a.mark
/-- R112. -/
def execVIcmp (f : Lane) : State → Host.Outcome State Fault Refusal :=
  laneAlu f { LaneUse.binary f false with vd := .bits 3, pd := true } { eat := if f.x then [.a] else [.a, .b] } fun x _ l =>
    let a := x.src .a l
    let b := srcB x l
    { p := some (laneCondHolds (f.vd.toNat % 8) (Ity f) (Isg f) a.val.toNat b.val.toNat, a.mark || b.mark) }
/-- R113: the selected value moves with its own mark. -/
def execVSel (f : Lane) : State → Host.Outcome State Fault Refusal :=
  laneAlu f { vd := .op, a := .op, b := .op, pd := true, imm := 1 } {} fun x _ l =>
    let v := if x.m.ctl.pred f.pd.toNat l != f.imm.getLsbD 0 then x.src .a l else x.src .b l
    outD (extend (Ity f) (Isg f) v.val.toNat) v.mark
/-- R114. -/
def execVPop (f : Lane) : State → Host.Outcome State Fault Refusal :=
  laneAlu f { a := .bits 3, b := .bits 3, pd := true } { preds := [f.va.toNat % 8, f.vb.toNat % 8] } fun x _ l =>
    let y := x.m.ctl
    let a := f.va.toNat % 8
    let b := f.vb.toNat % 8
    { p := some (popHolds f.ty.toNat (y.pred a l) (y.pred b l), y.predMark a l || y.predMark b l) }
/-- R115. -/
def execVMovi (f : Lane) : State → Host.Outcome State Fault Refusal :=
  laneAlu f { vd := .op, imm := immAll } {} fun _ _ _ =>
    outD (extend (Ity f) (Isg f) (f.imm.signExtend 64).toNat) false
/-- R115: the old low half stays. Like the other moves it consumes nothing, its old vd included (DESIGN CHOICE, log entry 99). -/
def execVMoviHi (f : Lane) : State → Host.Outcome State Fault Refusal :=
  laneAlu f { tys := 8, vd := .op, x := true, imm := 0xFFFFFFFF } { vdRead := true } fun x s l =>
    let old := if f.vd.toNat < 240 then s.vreg x.c x.m f.vd.toNat l else ⟨0, false⟩
    outD (wordN (f.imm.toNat % 2 ^ 32 * 2 ^ 32 + old.val.toNat % 2 ^ 32)) old.mark
/-- R116. -/
def execVMov (f : Lane) : State → Host.Outcome State Fault Refusal :=
  laneAlu f { vd := .op, a := .op } {} fun x _ l =>
    let a := x.src .a l
    outD (extend (Ity f) (Isg f) a.val.toNat) a.mark
/-- R117. -/
def execVImad (f : Lane) : State → Host.Outcome State Fault Refusal :=
  laneAlu f { LaneUse.binary f true with c := .op } { eat := if f.x then [.a, .c] else [.a, .b, .c] } fun x _ l =>
    let a := x.src .a l
    let b := srcB x l
    let c := x.src .c l
    let w := Ity f
    let g := Isg f
    let r := srcInt w g a.val.toNat * srcInt w g b.val.toNat + srcInt w g c.val.toNat
    outD (extend w g (if f.sat then clampI w g r else r)) (a.mark || b.mark || c.mark)

end Sys2Proof.Machine
end

