-- ==== Sys2Proof/Machine/LoadStore.lean ====
section
/-!
DEFINITION. Loads and stores of both streams (R32, R235 to R240), to global memory and to scratchpad.
-/
namespace Sys2Proof.Machine

/-- The bytes of an access by its size code (R32). -/
def sizeBytes (code : Nat) : Nat :=
  match code with
  | 0 | 5 => 1 | 1 | 6 => 2 | 2 | 7 => 4 | 3 => 8 | _ => 16

/-- The register result of a load (R32): the low dword of a pair. -/
def loadValue (code : Nat) (bs : List Byte) : Word :=
  let v := bytesN (bs.take 8)
  match code with
  | 5 => word (sext 8 v) | 6 => word (sext 16 v) | 7 => word (sext 32 v) | _ => wordN v

/-- The high dword of a 128-bit load. -/
def loadHigh (bs : List Byte) : Word := wordN (bytesN (bs.drop 8))

/-- The bytes that a store writes: the low bytes of the data, for 128 bits of the pair. -/
def storeBytes (n : Nat) (lo hi : Word) : List Byte := natBytes n (lo.toNat + hi.toNat * 2 ^ 64)

/-- The team as it now stands. -/
def Ctx.now (x : Ctx) (s : State) : Team := (s.team x.c x.t).getD x.m
def LaneCtx.now (x : LaneCtx) (s : State) : Team := (s.team x.c x.t).getD x.m

/-- A marked engine descriptor under PCTRAP: its field is consumed before the word takes effect (R426, R427). -/
def descriptorPoison (m : Team) (reg : Nat) (mark : Bool) : Option Raise :=
  if mark && m.ctl.policy.getLsbD 0 then some ⟨.poisonConsumed, wordN reg, 0⟩ else none

/-- Whether a region is open. -/
def Team.inRegion (m : Team) : Bool := m.region.isSome

/-- The stores would overflow the team's region buffer (R225). -/
def storesOverflow (s : State) (c : Nat) (m : Team) (pas : List Nat) : Bool :=
  match m.region with
  | some g => overflows (s.core c) m g (sortNats ((pas.filter fun a => !isMgmt a).map (· / 128)))
  | none => false

/-- A store of a team whose checks have passed: an open region holds it, else it leaves the core (R223, R225); a management register is never
written from an L1 (R407). -/
def State.storeTeam (s : State) (c t : Nat) (x : Store) : State :=
  match s.team c t with
  | none => s
  | some m =>
    match m.region with
    | some g =>
      if isMgmt x.pa then s.leaveTeam c m x
      else s.modTeam c t fun m => { m with region := some { g with
        held := g.held ++ [⟨x.pa, x.data, x.mark, x.va, x.lane32⟩], passes := false } }
    | none => s.leaveTeam c m x

/-- A store that frees a semaphore of the management registers acts as a release at system scope (R402). -/
def semFree (pa : Nat) (bs : List Byte) : Bool :=
  isMgmt pa && decide (0x100 ≤ paOff pa - mgmtBase ∧ paOff pa - mgmtBase < 0x180) && bs.all (· == 0)

/-- Scratchpad stores would overflow the team's undo log (R420). -/
def undoOverflows (s : State) (c : Nat) (m : Team) (ps : List (Place × Nat)) : Bool :=
  match m.region with
  | none => false
  | some g =>
    let n := (ps.foldl (fun g' p =>
      { g' with undo := g'.undo ++ newUndo s c g' p.1.core (sectorsOf p.1.off p.2) }) g).undo.length
    !g.passes && decide (1024 < n)

/-! ### Scalar words (R236) -/

/-- The register results of a scalar load. -/
def loadRegs (code d : Nat) (bs : List Byte) (mark : Bool) : List (Nat × Marked) :=
  (d, ⟨loadValue code bs, mark⟩) :: (if code = 4 then [(d + 1, ⟨loadHigh bs, mark⟩)] else [])

/-- The registers of a scalar load or store: the data register, or the pair of a 128-bit access. -/
def dataRegs (f : SM) : List Nat := if f.size = 4 then [f.d.toNat, f.d.toNat + 1] else [f.d.toNat]

/-- The address of a scalar access (R236). -/
def smAddr (x : Ctx) (s : State) (f : SM) : Word :=
  (x.sreg s f.base.toNat).val + wordN (f.off.toNat * sizeBytes f.size.toNat)

/-- The data of a scalar store, and its mark with that of the address (R236, R428). -/
def smData (x : Ctx) (s : State) (f : SM) : List Byte × Bool :=
  (storeBytes (sizeBytes f.size.toNat) (x.sreg s f.d.toNat).val (if f.size = 4 then (x.sreg s (f.d.toNat + 1)).val else 0),
   (x.sreg s f.base.toNat).mark || (dataRegs f).any fun i => (x.sreg s i).mark)

/-- R236. -/
def execSLd (f : SM) (s : State) : Host.Outcome State Fault Refusal :=
  let b := f.base.toNat
  let n := sizeBytes f.size.toNat
  scalarWord { w := f.w, reads := [b], writes := dataRegs f, consumes := [b], even := if f.size = 4 then [f.d.toNat] else [] }
    (fun x s =>
      let mark := (x.sreg s b).mark
      match checkAccess s x.c x.m Need.load false (smAddr x s f) n with
      | (.bad r, _) => .trap r
      | (.wait, s) => .hold s .line
      | (.ok pa, s) =>
        let go (s : State) : Eff :=
          let ((bs, mk), s) := s.load x.c x.t pa n false (f.order == 1) scPackage
          .done (s.longScalar x.c x.t (loadRegs f.size.toNat f.d.toNat bs (mk || mark)) [] true (!isMgmt pa)).2
        if f.order = 1 then commitFirst x s go else go s) s

/-- R236: a release store waits for the team's earlier stores (R269). -/
def execSSt (f : SM) (s : State) : Host.Outcome State Fault Refusal :=
  let b := f.base.toNat
  let n := sizeBytes f.size.toNat
  scalarWord { w := f.w, reads := b :: dataRegs f, consumes := [b], even := if f.size = 4 then [f.d.toNat] else [], noisy := true }
    (fun x s =>
      let va := smAddr x s f
      match checkAccess s x.c x.m Need.store false va n with
      | (.bad r, _) => .trap r
      | (.wait, s) => .hold s .line
      | (.ok pa, s) =>
        let (bs, mark) := smData x s f
        let go (s : State) : Eff :=
          if storesOverflow s x.c (x.now s) [pa] then .hold (s.overflow x.c x.t) .record
          else .done (s.storeTeam x.c x.t { pa, data := bs, mark, team := x.t, lane32 := false, va })
        if semFree pa bs then commitFirst x s fun s => releaseFirst x s scSystem go
        else if f.order = 2 then commitFirst x s fun s => releaseFirst x s scPackage go else go s) s

/-- R236, R219. -/
def execSLdsp (f : SM) (s : State) : Host.Outcome State Fault Refusal :=
  let b := f.base.toNat
  let n := sizeBytes f.size.toNat
  scalarWord { w := f.w, reads := [b], writes := dataRegs f, consumes := [b], even := if f.size = 4 then [f.d.toNat] else [] }
    (fun x s =>
      match checkScratch s x.c x.m false (smAddr x s f) n with
      | .error r => .trap r
      | .ok p =>
        let (bs, mk) := (s.core p.core).read p.off n
        let mark := mk || (x.sreg s b).mark
        .done ((s.longScalar x.c x.t (loadRegs f.size.toNat f.d.toNat bs mark) [] true false).2.peerTouch x.c x.t p)) s

/-- R236, R219. -/
def execSStsp (f : SM) (s : State) : Host.Outcome State Fault Refusal :=
  let b := f.base.toNat
  let n := sizeBytes f.size.toNat
  scalarWord { w := f.w, reads := b :: dataRegs f, consumes := [b], even := if f.size = 4 then [f.d.toNat] else [], noisy := true }
    (fun x s =>
      match checkScratch s x.c x.m true (smAddr x s f) n with
      | .error r => .trap r
      | .ok p =>
        if undoOverflows s x.c x.m [(p, n)] then .hold (s.overflow x.c x.t) .record
        else
          let (bs, mark) := smData x s f
          .done (s.teamScratch x.c x.t p bs mark)) s

/-! ### Lane words (R237, R238) -/

/-- The order in which the checks of R235 run. -/
def causeRank : Cause → Nat
  | .misaligned => 0
  | .pageFault | .machineCheck | .scratchBounds => 1
  | .protection => 2
  | _ => 3

/-- The trap of lanes that fail checks: the first check that fails, with every lane that fails it; its address is that of the
lowest (R238). -/
def firstFailing (bad : List (Nat × Raise)) : Option Raise :=
  let best := bad.foldl (fun b e => if causeRank e.2.cause < b then causeRank e.2.cause else b) 9
  (bad.find? fun e => causeRank e.2.cause == best).map fun e =>
    { e.2 with lanes := maskOf ((bad.filter fun y => decide (y.2.cause = e.2.cause)).map (·.1)) }

/-- The address of a lane of a class M or atomic word (R238). -/
def laneAddr (x : LaneCtx) (l : Nat) : Word :=
  word ((x.src .a l).val.toNat + sext 21 x.f.imm.toNat)

/-- The scratchpad address value of a lane: with x the peer of imm33 [28:26] (R238). -/
def laneScratchAddr (x : LaneCtx) (l : Nat) : Word :=
  let a := laneAddr x l
  if x.f.x then
    wordN (a.toNat / 2 ^ 24 * 2 ^ 24 + 2 ^ 23 + bits x.f.imm.toNat 26 3 * 2 ^ 20 + a.toNat % 2 ^ 20)
  else a

/-- The outcome of the checks of all running lanes. -/
inductive LaneChecked (α : Type) where
  | ok (ps : List (Nat × α))
  | bad (r : Raise)
  | wait

/-- The checks of R235 on every running lane, in ascending order; the traps come first. -/
def laneGlobal (s : State) (x : LaneCtx) (need : Need) (atomic : Bool) (n : Nat) : LaneChecked Nat × State :=
  let (rs, s) := x.lanes.foldl (fun (acc : List (Nat × Access) × State) l =>
    let (a, s) := checkAccess acc.2 x.c x.m need atomic (laneAddr x l) n
    (acc.1 ++ [(l, a)], s)) ([], s)
  match firstFailing (rs.filterMap fun e => match e.2 with | .bad r => some (e.1, r) | _ => none) with
  | some r => (.bad r, s)
  | none =>
    if rs.any fun e => match e.2 with | .wait => true | _ => false then (.wait, s)
    else (.ok (rs.filterMap fun e => match e.2 with | .ok pa => some (e.1, pa) | _ => none), s)

/-- The checks of a scratchpad word on every running lane. -/
def laneScratch (s : State) (x : LaneCtx) (store : Bool) (n : Nat) : LaneChecked Place :=
  let rs := x.lanes.map fun l => (l, checkScratch s x.c x.m store (laneScratchAddr x l) n)
  match firstFailing (rs.filterMap fun e => match e.2 with | .error r => some (e.1, r) | _ => none) with
  | some r => .bad r
  | none => .ok (rs.filterMap fun e => match e.2 with | .ok p => some (e.1, p) | _ => none)

/-- The order and scope of a lane access (R237). -/
def laneOrderOf (f : Lane) : Nat := bits f.imm.toNat 24 2
def laneScopeOf (f : Lane) : Nat := bits f.imm.toNat 21 3

/-- An access of this order and scope commits an open region first (R289). -/
def mustCommit (s : State) (x : LaneCtx) (order scope : Nat) : Bool :=
  (x.now s).inRegion && order != 0 && scope != scTeam && !x.lanes.isEmpty

/-- What a lane load writes. -/
def laneLoadOut (code : Nat) (bs : List Byte) (mark : Bool) : LaneOut :=
  { d := some ⟨loadValue code bs, mark⟩, d2 := if code = 4 then some ⟨loadHigh bs, mark⟩ else none }

/-- The bytes that a lane stores, and its mark. -/
def laneStoreData (s : State) (x : LaneCtx) (code l : Nat) : List Byte × Bool :=
  let d := x.src .b l
  let pair := code = 4
  let hi : Marked := if pair ∧ x.f.vb.toNat < 240 then s.vreg x.c x.m (x.f.vb.toNat + 1) l else ⟨0, false⟩
  (storeBytes (sizeBytes code) d.val hi.val, d.mark || (pair && hi.mark) || (x.src .a l).mark)

/-- The loads of the lanes in order: what each lane writes, and the state after them. -/
def State.loadLanes (s : State) (x : LaneCtx) (code : Nat) (ps : List (Nat × Nat)) (acq : Bool) : List (Nat × LaneOut) × State :=
  ps.foldl (fun (acc : List (Nat × LaneOut) × State) e =>
    let (r, s) := acc.2.load x.c x.t e.2 (sizeBytes code) x.f.x acq (laneScopeOf x.f)
    (acc.1 ++ [(e.1, laneLoadOut code r.1 (r.2 || (x.src .a e.1).mark))], s)) ([], s)

/-- The lanes whose store decides its address: of those that name the same one, the highest (R238). -/
def topLanes {α : Type} [DecidableEq α] (ps : List (Nat × α)) : List (Nat × α) :=
  ps.filter fun e => !ps.any fun y => decide (e.1 < y.1 ∧ y.2 = e.2)

/-- The stores of the lanes in order. -/
def laneStores (s : State) (x : LaneCtx) (code : Nat) (ps : List (Nat × Nat)) : List Store :=
  (topLanes ps).map fun e =>
    let (bs, mark) := laneStoreData s x code e.1
    ({ pa := e.2, data := bs, mark, team := x.t, lane32 := code == 2, va := laneAddr x e.1 } : Store)

/-- What the lanes of a scratchpad load write. -/
def scratchLoads (s : State) (x : LaneCtx) (code : Nat) (ps : List (Nat × Place)) : List (Nat × LaneOut) :=
  ps.map fun e =>
    let (bs, mk) := (s.core e.2.core).read e.2.off (sizeBytes code)
    (e.1, laneLoadOut code bs (mk || (x.src .a e.1).mark))

/-- R238. -/
def execVLd (f : Lane) : State → Host.Outcome State Fault Refusal :=
  let code := f.ty.toNat
  laneWord f { vd := .op, a := .op, x := true, imm := 0x3FFFFFF } { eat := [.a], pairD := code = 4, long := true } fun x s =>
    let order := laneOrderOf f
    match laneGlobal s x Need.load false (sizeBytes code) with
    | (.bad r, _) => .trap r
    | (.wait, _) => .wait
    | (.ok ps, s) =>
      if mustCommit s x order (laneScopeOf f) then .commit
      else
        let (outs, s) := s.loadLanes x code ps (order == 1)
        .next (s.longLane x outs true true).2

/-- R238: each lane's store is a write of its own, in ascending lane order. -/
def execVSt (f : Lane) : State → Host.Outcome State Fault Refusal :=
  let code := f.ty.toNat
  laneWord f { tys := 0x1F, a := .op, b := .op, x := true, imm := 0x3FFFFFF } { eat := [.a], pairB := code = 4, noisy := true } fun x s =>
    let order := laneOrderOf f
    match laneGlobal s x Need.store false (sizeBytes code) with
    | (.bad r, _) => .trap r
    | (.wait, _) => .wait
    | (.ok ps, s) =>
      let stores := laneStores s x code ps
      let frees := stores.any fun y => semFree y.pa y.data
      if mustCommit s x order (laneScopeOf f) || (frees && (x.now s).inRegion) then .commit
      else if (order = 2 ∧ !released s x.c (laneScopeOf f)) ∨ (frees ∧ !released s x.c scSystem) then .wait
      else if !(x.now s).inRegion && substBlocked s x.c (x.now s) stores then .wait
      else if storesOverflow s x.c (x.now s) (ps.map (·.2)) then .overflow
      else .next (stores.foldl (fun s y => s.storeTeam x.c x.t y) s)

/-- R238, R219. -/
def execVLdsp (f : Lane) : State → Host.Outcome State Fault Refusal :=
  let code := f.ty.toNat
  laneWord f { vd := .op, a := .op, x := true, imm := if f.x then 0x1C1FFFFF else 0x1FFFFF }
    { eat := [.a], pairD := code = 4, long := true } fun x s =>
    match laneScratch s x false (sizeBytes code) with
    | .bad r => .trap r
    | .wait => .wait
    | .ok ps =>
      .next (ps.foldl (fun s e => s.peerTouch x.c x.t e.2) (s.longLane x (scratchLoads s x code ps) true false).2)

/-- R238, R219. -/
def execVStsp (f : Lane) : State → Host.Outcome State Fault Refusal :=
  let code := f.ty.toNat
  laneWord f { tys := 0x1F, a := .op, b := .op, x := true, imm := if f.x then 0x1C1FFFFF else 0x1FFFFF }
    { eat := [.a], pairB := code = 4, noisy := true } fun x s =>
    match laneScratch s x true (sizeBytes code) with
    | .bad r => .trap r
    | .wait => .wait
    | .ok ps =>
      if undoOverflows s x.c (x.now s) (ps.map fun e => (e.2, sizeBytes code)) then .overflow
      else
        .next ((topLanes ps).foldl (fun y e => y.teamScratch x.c x.t e.2 (laneStoreData s x code e.1).1 (laneStoreData s x code e.1).2) s)

end Sys2Proof.Machine
end

