-- ==== Sys2Proof/Machine/Movement.lean ====
section
/-!
DEFINITION. The movement words: arrival words (R241 to R245), the copy engine (R246 to R249), tile streams (R250 to R254),
prefetch and cache maintenance (R255 to R258).
-/
namespace Sys2Proof.Machine

/-! ### Ranges of global memory -/

/-- The pieces of physical memory that [va, va + len) maps to, page by page; a page without a translation gives none. -/
def State.pieces (s : State) (core : Option Nat) (d asid : Nat) (runtime : Bool) (need : Need) (va len : Nat) :
    List (Nat × Nat) × State :=
  if len = 0 then ([], s)
  else
    let first := va / 65536
    (List.range ((va + len - 1) / 65536 - first + 1)).foldl (fun (acc : List (Nat × Nat) × State) i =>
      let lo := if i = 0 then va else (first + i) * 65536
      let hi := if va + len < (first + i + 1) * 65536 then va + len else (first + i + 1) * 65536
      match xlate acc.2 core d asid runtime need (wordN lo) with
      | (.ok pa, s) => (acc.1 ++ [(pa, hi - lo)], s)
      | _ => acc) ([], s)

/-- What an engine's registration of a range needs of its pages: D is left to the walks that write (R378). -/
def Need.range : Need := { w := true }

/-- A line meets one of the pieces. -/
def meets (pieces : List (Nat × Nat)) (pa n : Nat) : Bool := pieces.any fun p => decide (p.1 < pa + n ∧ pa < p.1 + p.2)

/-- The pieces with their ends on line boundaries. -/
def linesOf (pieces : List (Nat × Nat)) : List (Nat × Nat) :=
  pieces.map fun p => (p.1 / 128 * 128, ((p.1 + p.2 + 127) / 128 - p.1 / 128) * 128)

/-- A directory that the pieces touch has no free range record (R228). -/
def State.rangesFull (s : State) (pieces : List (Nat × Nat)) : Bool :=
  let dies (ps : List (Nat × Nat)) : List Nat := sortNats (ps.map fun p => homeDie (paOff p.1))
  (dies pieces).any fun d => decide (256 ≤ (s.mem.ranges.filter fun r => (dies r.pieces).contains d).length)

/-! ### Arrival words -/

/-- R243. -/
def execSAwset (f : SC) (s : State) : Host.Outcome State Fault Refusal :=
  let srcs := [f.a.toNat, f.b.toNat]
  scalarWord { w := f.w, reads := srcs, consumes := [f.a.toNat], noisy := true } (fun x s =>
    match checkScratch s x.c x.m true (x.sreg s f.a.toNat).val 16 with
    | .error r => .trap r
    | .ok p =>
      if undoOverflows s x.c x.m [(p, 16)] then .hold (s.overflow x.c x.t) .record
      else
        let mark := srcs.any fun i => (x.sreg s i).mark
        let target := natBytes 4 ((x.sreg s f.b.toNat).val.toNat % 2 ^ 32)
        .done ((s.teamScratch x.c x.t p (target ++ natBytes 4 0) mark).teamScratch x.c x.t { p with off := p.off + 12 }
          (natBytes 4 0) mark)) s

/-- The status of `s.awwait` (R244). -/
def awStatus (k : Core) (off code : Nat) : Word :=
  wordN (k.readN (off + 8) 4 * 2 ^ 32 + k.readN (off + 12) 4 % 256 * 2 ^ 8 + code)

/-- R244. -/
def execSAwwait (f : SC) (s : State) : Host.Outcome State Fault Refusal :=
  let srcs := [f.a.toNat, f.b.toNat]
  scalarWord { w := f.w, reads := srcs, writes := [f.d.toNat], consumes := srcs } (fun x s =>
    match checkScratch s x.c x.m false (x.sreg s f.a.toNat).val 16 with
    | .error r => .trap r
    | .ok p =>
      let k := s.core p.core
      let g := (x.sreg s f.b.toNat).val.toNat % 2 ^ 32
      if k.passed p.off g then
        let mark := (k.read p.off 16).2 || srcs.any fun i => (x.sreg s i).mark
        .done ((s.longScalar x.c x.t [(f.d.toNat, ⟨awStatus k p.off 0, mark⟩)] [] true false).2.peerTouch x.c x.t p)
      else .hold s (.arrival f.d.toNat p.core p.off g)) s

/-! ### Copies -/

/-- The checks on a register that must hold a core-store offset of a 64-byte descriptor (R248, R258). -/
def checkDescriptor (s : State) (c : Nat) (m : Team) (va : Word) : Except Raise Nat :=
  if va.toNat % 64 ≠ 0 then .error ⟨.misaligned, va, 0⟩
  else if va.toNat / 2 ^ 20 ≠ 0 then .error ⟨.scratchBounds, va, 0⟩
  else match checkScratch s c m false va 64 with
    | .error r => .error r
    | .ok p => .ok p.off

/-- The 64 bytes of a scratchpad descriptor as dwords. -/
def Core.descriptor (k : Core) (off : Nat) : List Word := dwordsOf (k.read off 64).1

/-- The core-store place that an engine reaches by a scratchpad address value of a core; bounds were checked when its command
was accepted. -/
def State.enginePlace (s : State) (c va : Nat) : Place :=
  let off := va % 2 ^ 20
  let k := s.core c
  if bit va 23 then
    match k.part with
    | some p =>
      let q := if p.clusters then (coresOfCluster (clusterOf c)).getD (bits va 20 3) c else c
      ⟨q, ((s.core q).part.map (·.spBase)).getD 0 + (off - p.spBase), true⟩
    | none => ⟨c, off, true⟩
  else ⟨c, off, false⟩

/-- The fields of a copy descriptor (R247). -/
def cpSrc (d : List Word) : Nat := dw d 0
def cpDst (d : List Word) : Nat := dw d 1
def cpLen (d : List Word) : Nat := field d 0x10 0 32
def cpAw (d : List Word) : Nat := field d 0x14 0 24
def cpSrcSp (d : List Word) : Bool := field d 0x18 0 1 == 1
def cpDstSp (d : List Word) : Bool := field d 0x18 1 1 == 1
def cpAwen (d : List Word) : Bool := field d 0x18 2 1 == 1

/-- A range at one side of a copy breaks a check of R248. -/
def copyRangeBad (s : State) (c : Nat) (m : Team) (sp : Bool) (va len : Nat) : Bool :=
  if sp then (scratchPlace s c m m.wide (wordN va) len).isNone else decide (2 ^ 54 < va + len)

/-- The fields that make `s.copy` answer BAD_FIELD (R248). -/
def copyBad (s : State) (c : Nat) (m : Team) (off : Nat) : Bool :=
  let k := s.core c
  let d := k.descriptor off
  let len := cpLen d
  let dst := cpDst d
  let meetsWindow : Bool := cpDstSp d && !bit dst 23 &&
    decide (dst % 2 ^ 20 < m.id.regwin + windowBytes m.id.lanes m.id.vregs ∧ m.id.regwin < dst % 2 ^ 20 + len)
  field d 0x14 24 8 != 0 || field d 0x18 4 28 != 0 || field d 0x1C 0 32 != 0 || dw d 6 != 0 || dw d 7 != 0 ||
  decide (len = 0 ∨ 2 ^ 31 < len) || copyRangeBad s c m (cpSrcSp d) (cpSrc d) len ||
  copyRangeBad s c m (cpDstSp d) dst len ||
  (cpAwen d && (cpAw d % 16 != 0 || (scratchPlace s c m m.wide (wordN (cpAw d)) 16).isNone)) ||
  (meetsWindow && !m.trap.handler) || (k.read off 32).2 || (k.read (off + 0x30) 16).2

/-- R247, R248: the command is accepted once every store before it is at home (R249). Running and waiting commands together count against the
queue's 32 entries (DESIGN CHOICE, log entry 103). -/
def execSCopy (f : SC) (s : State) : Host.Outcome State Fault Refusal :=
  let a := f.a.toNat
  scalarWord { w := f.w, reads := [a], writes := [f.d.toNat], consumes := [a], noisy := true } (fun x s =>
    match checkDescriptor s x.c x.m (x.sreg s a).val with
    | .error r => .trap r
    | .ok off =>
      let k := s.core x.c
      let mark := (k.read off 32).2 || (k.read (off + 0x30) 16).2
      match descriptorPoison x.m a mark with
      | some r => .trap r
      | none => commitFirst x s fun s => settleFirst x s fun s =>
        let m := x.now s
        let q := clusterOf x.c
        let status (s : State) (v : Nat) : Eff := .done (x.status s f.d.toNat (wordN v) (mark || x.marked s [a]))
        if 32 ≤ (s.cluster q).copies.length then .hold s .copyFull
        else if copyBad s x.c m off then status s 1
        else
          let d := (s.core x.c).descriptor off
          let (ps, s) := if cpDstSp d then ([], s)
            else s.pieces none (dieOf x.c) m.id.asid m.id.runtime Need.range (cpDst d) (cpLen d)
          if s.rangesFull ps then .hold s .line
          else
            let (n, s) := s.fresh
            let s := s.register n ps
            let cmd : CopyCmd :=
              { ticket := n, core := x.c, team := x.t, launch := m.id.launch, off, desc := d, asid := m.id.asid, runtime := m.id.runtime,
                handler := m.trap.handler, started := false, marked := false, broken := false, taken := [], entry := false }
            status (s.modCluster q fun k => { k with copies := k.copies ++ [cmd] }) 0) s

/-! ### Streams -/

/-- The fields of a stream descriptor (R251). -/
def stGaddr (d : List Word) : Nat := dw d 0
def stGstride (d : List Word) : Int := (d.getD 1 0).toInt
def stPitch (d : List Word) : Nat := field d 0x10 0 32
def stRowBytes (d : List Word) : Nat := field d 0x14 0 16
def stRows (d : List Word) : Nat := field d 0x14 16 16
def stCount (d : List Word) : Nat := field d 0x18 0 32
def stRing (d : List Word) : Nat := field d 0x1C 0 24
def stSlotBytes (d : List Word) : Nat := field d 0x20 0 32
def stSlots (d : List Word) : Nat := field d 0x24 0 16
def stAw (d : List Word) : Nat := field d 0x28 0 24
def stHw (d : List Word) : Nat := field d 0x2C 0 24
def stDrain (d : List Word) : Bool := field d 0x30 0 1 == 1

/-- The fields that make `s.stream` answer BAD_FIELD (R254). A ROWPITCH that is no multiple of 4 is refused with ROWS = 1 too (DESIGN CHOICE, log
entry 104). -/
def streamBad (s : State) (c : Nat) (m : Team) (d : List Word) : Bool :=
  let out (va n : Nat) : Bool := (scratchPlace s c m m.wide (wordN va) n).isNone
  field d 0x1C 24 8 != 0 || field d 0x24 16 16 != 0 || field d 0x28 24 8 != 0 || field d 0x2C 24 8 != 0 ||
  field d 0x30 2 30 != 0 || field d 0x34 0 32 != 0 || dw d 7 != 0 ||
  stGaddr d % 4 != 0 || dw d 1 % 4 != 0 || stPitch d % 4 != 0 ||
  decide (stRowBytes d < 4 ∨ 4096 < stRowBytes d ∨ stRowBytes d % 4 ≠ 0) || decide (stRows d = 0 ∨ 256 < stRows d) ||
  stCount d == 0 || decide (stSlotBytes d % 32 ≠ 0 ∨ stSlotBytes d < stRows d * stRowBytes d) ||
  decide (stSlots d = 0 ∨ 256 < stSlots d) || (decide (1 < stRows d) && decide (stPitch d < stRowBytes d)) ||
  out (stRing d) (stSlots d * stSlotBytes d) || stAw d % 16 != 0 || out (stAw d) 16 || stHw d % 4 != 0 || out (stHw d) 4

/-- R251, R254. -/
def execSStream (f : SC) (s : State) : Host.Outcome State Fault Refusal :=
  let a := f.a.toNat
  scalarWord { w := f.w, reads := [a], writes := [f.d.toNat], consumes := [a], noisy := true } (fun x s =>
    match checkAccess s x.c x.m Need.load false (x.sreg s a).val 64 with
    | (.bad r, _) => .trap r
    | (.wait, s) => .hold s .line
    | (.ok pa, s) => commitFirst x s fun s => settleFirst x s fun s =>
      match descriptorPoison x.m a (s.mem.mark pa 64) with
      | some r => .trap r
      | none =>
        let m := x.now s
        let ((bs, mk), s) := s.readHome (dieOf x.c) pa 64
        let d := dwordsOf bs
        let status (s : State) (v : Nat) : Eff := .done (x.status s f.d.toNat (wordN v) (mk || x.marked s [a]))
        if mk || streamBad s x.c m d then status s 1
        else match (List.range 8).find? fun i => ((s.core x.c).streams.get none i).isNone with
          | none => status s 8
          | some i =>
            let r : Stream := { desc := d, next := 0, asid := m.id.asid, runtime := m.id.runtime, broken := false, entry := false }
            status (s.modCore x.c fun k => { k with streams := k.streams.set none i (some r) }) 0) s

/-! ### Prefetch and cache maintenance -/

/-- The sectors of the lines of pieces of memory, without the mailbox and management range. -/
def sectorsOfLines (pieces : List (Nat × Nat)) : List Nat :=
  ((linesOf pieces).filter fun p => !isMgmt p.1).flatMap fun p => (List.range (p.2 / 32)).map (p.1 / 32 + ·)

/-- The pieces of memory that the range of a prefetch or cache word maps to. -/
def rangePieces (x : Ctx) (s : State) (need : Need) (a b : Nat) : List (Nat × Nat) × State :=
  s.pieces (some x.c) (dieOf x.c) x.m.id.asid x.m.id.runtime need (x.sreg s a).val.toNat
    ((x.sreg s b).val.toNat % 2 ^ 32)

/-- R255. -/
def execSPrefL1 (f : SC) (s : State) : Host.Outcome State Fault Refusal :=
  let srcs := [f.a.toNat, f.b.toNat]
  scalarWord { w := f.w, reads := srcs, consumes := srcs } (fun x s =>
    let (ps, s) := rangePieces x s Need.load f.a.toNat f.b.toNat
    .done ((sectorsOfLines ps).foldl (fun s u =>
      if s.blocked (u * 32) none then s else (s.readCore x.c x.t u false).2) s)) s

/-- R255. -/
def execSPrefL2 (f : SC) (s : State) : Host.Outcome State Fault Refusal :=
  let srcs := [f.a.toNat, f.b.toNat]
  scalarWord { w := f.w, reads := srcs, consumes := srcs } (fun x s =>
    let (ps, s) := rangePieces x s Need.load f.a.toNat f.b.toNat
    .done ((sectorsOfLines ps).foldl (fun s u =>
      if s.blocked (u * 32) none then s else (s.readDie (dieOf x.c) u).2) s)) s

/-- A cache word over the lines of its range (R256), with its status. -/
def cacheWord (f : SC) (work : Ctx → List (Nat × Nat) → State → State) (first : Ctx → State → (State → Eff) → Eff) (s : State) :
    Host.Outcome State Fault Refusal :=
  let srcs := [f.a.toNat, f.b.toNat]
  scalarWord { w := f.w, reads := srcs, writes := [f.d.toNat], consumes := srcs } (fun x s =>
    first x s fun s =>
      let (ps, s) := rangePieces x s {} f.a.toNat f.b.toNat
      let mark := srcs.any fun i => (x.sreg s i).mark
      .done ((work x (linesOf ps) s).longScalar x.c x.t [(f.d.toNat, ⟨0, mark⟩)] [] true false).2) s

/-- Drops a range's lines from a die's RDC. -/
def State.dropRdc (s : State) (d : Nat) (ps : List (Nat × Nat)) : State :=
  s.modDie d fun k => { k with rdc := k.rdc.keep fun u _ => !meets ps (u * 32) 32 }

/-- R256: every L1 line is clean; region stores are held apart and stay. -/
def execSCacheL1inv (f : SC) : State → Host.Outcome State Fault Refusal :=
  cacheWord f (fun x ps s => s.modCore x.c fun k => { k with l1 := k.l1.keep fun u _ => !meets ps (u * 32) 32 })
    fun _ s k => k s
/-- R256. -/
def execSCacheRdcinv (f : SC) : State → Host.Outcome State Fault Refusal :=
  cacheWord f (fun x ps s => s.dropRdc (dieOf x.c) ps) fun _ s k => k s
/-- R256: dirty lines become clean and stay cached. -/
def execSCacheL2wb (f : SC) : State → Host.Outcome State Fault Refusal :=
  cacheWord f (fun _ ps s => s.cleanL2 fun u => meets ps (u * 128) 128) fun _ s k => k s
/-- R256, R257: after the team's earlier stores are at home; those that an open region holds are committed for it (DEDUCED, log entry 111). -/
def execSCacheIcinv (f : SC) : State → Host.Outcome State Fault Refusal :=
  cacheWord f (fun x ps s => (s.modCore x.c fun k =>
      { k with icache := k.icache.keep (fun u _ => !meets ps (u * 4) 4), lcache := k.lcache.keep fun u _ => !meets ps (u * 4) 4 }).dropRdc (dieOf x.c) ps)
    fun x s k => commitFirst x s fun s => if storesHome s x.c x.t then k s else .hold s .drain

end Sys2Proof.Machine
end

