-- ==== Sys2Proof/Machine/Sync.lean ====
section
/-!
DEFINITION. Fences (R270, R271), atomics of both streams (R272 to R281), named barriers (R282, R283), seals (R285 to R287).
-/
namespace Sys2Proof.Machine

/-! ### Fences -/

/-- A fence: `rel` waits for the team's stores, `acq` advances the cache generations (R269, R271); wider than team scope it
commits an open region first (R289). -/
def fenceWord (acq rel : Bool) (scope : BitVec 3) (f : SC) : State → Host.Outcome State Fault Refusal :=
  scalarWord { w := f.w } fun x s =>
    let act (s : State) : Eff := .done (if acq then s.acquire x.c scope.toNat else s)
    let go (s : State) : Eff := if rel then releaseFirst x s scope.toNat act else act s
    if scope.toNat = scTeam then go s else commitFirst x s go

/-- R271. -/
def execSFenceAcq (scope : BitVec 3) (f : SC) : State → Host.Outcome State Fault Refusal := fenceWord true false scope f
/-- R271. -/
def execSFenceRel (scope : BitVec 3) (f : SC) : State → Host.Outcome State Fault Refusal := fenceWord false true scope f
/-- R271. -/
def execSFenceAcqrel (scope : BitVec 3) (f : SC) : State → Host.Outcome State Fault Refusal := fenceWord true true scope f

/-! ### Combining (R274, R277, R279) -/

/-- Comb of R274 by its code, at a width of 4 or 8 bytes. -/
def comb (code n u x : Nat) : Nat :=
  let w := 8 * n
  let a := u % 2 ^ w
  let b := x % 2 ^ w
  match code with
  | 0 => (a + b) % 2 ^ w
  | 1 => a &&& b
  | 2 => a ||| b
  | 3 => a ^^^ b
  | 4 => if sext w b < sext w a then b else a
  | 5 => if sext w a < sext w b then b else a
  | 6 => if b < a then b else a
  | 7 => if a < b then b else a
  | 8 => b
  | _ => fAddBits (if n = 4 then .f32 else .f64) a b

/-- The two halves of a bf16x2 add (R279), both in one step (DEDUCED, log entry 110). -/
def combHalves (u x : Nat) : Nat :=
  fAddBits .bf16 (u % 2 ^ 16) (x % 2 ^ 16) + 2 ^ 16 * fAddBits .bf16 (bits u 16 16) (bits x 16 16)

/-- The code of R274 of a scalar atomic. -/
def atomCode : AtomOp → Nat
  | .add | .add32 => 0 | .and => 1 | .or => 2 | .xor => 3 | .min => 4 | .max => 5 | .minN => 6 | .maxN => 7
  | .swap | .swap32 => 8 | .faddF64 => 9

/-- The width of a scalar atomic in bytes (R274). -/
def atomBytes : AtomOp → Nat
  | .add32 | .swap32 => 4
  | _ => 8

/-- A write of a core performed at its home at once. -/
def State.writeThrough (s : State) (c pa : Nat) (bs : List Byte) (mark : Bool) : State :=
  s.performStore c
    { pa, data := bs, mark, team := 0, lane32 := false, va := 0 }

/-- An atomic of a core at the home of an address (R272): `f` gives the new value, if one is written, and its mark from the mark
read. The old value, its mark. -/
def State.atomic (s : State) (c pa n : Nat) (f : Nat → Bool → Option (Nat × Bool)) : (Nat × Bool) × State :=
  let ((bs, old), s) := ((s.flushSector c pa).warm (dieOf c) pa).readHome (dieOf c) pa n
  let u := bytesN bs
  ((u, old), match f u old with
    | some (v, m) => s.writeThrough c pa (natBytes n v) m
    | none => s)

/-! ### Scalar atomics -/

/-- An atomic word: `rel` and `acq` are the parts of its order. It commits an open region first (R289). -/
def atomicEff (x : Ctx) (s : State) (va : Word) (n scope : Nat) (acq rel : Bool) (act : State → Nat → State) : Eff :=
  match checkAccess s x.c x.m Need.atomic true va n with
  | (.bad r, _) => .trap r
  | (.wait, s) => .hold s .line
  | (.ok pa, s) =>
    let go (s : State) : Eff :=
      let s := act s pa
      .done (if acq then s.acquire x.c scope else s)
    commitFirst x s fun s => if rel then releaseFirst x s scope go else go s

/-- R274: a swap moves its operand, the other operations consume it (R426). -/
def atomWord (o : AtomOp) (acq rel : Bool) (scope : BitVec 3) (f : SC) : State → Host.Outcome State Fault Refusal :=
  let a := f.a.toNat
  let b := f.b.toNat
  let n := atomBytes o
  scalarWord { w := f.w, reads := [a, b], writes := [f.d.toNat], consumes := if atomCode o = 8 then [a] else [a, b], noisy := true }
    fun x s =>
      let am := (x.sreg s a).mark
      let bm := (x.sreg s b).mark
      atomicEff x s (x.sreg s a).val n scope.toNat acq rel fun s pa =>
        let ((u, mk), s) := s.atomic x.c pa n fun u mk => some (comb (atomCode o) n u (x.sreg s b).val.toNat, mk || am || bm)
        (s.longScalar x.c x.t [(f.d.toNat, ⟨wordN u, mk || am⟩)] [] true true).2

/-- R274. -/
def execSAtom (o : AtomOp) (scope : BitVec 3) (f : SC) : State → Host.Outcome State Fault Refusal := atomWord o false false scope f
/-- R274. -/
def execSAtomAcq (o : AtomOp) (scope : BitVec 3) (f : SC) : State → Host.Outcome State Fault Refusal := atomWord o true false scope f
/-- R274. -/
def execSAtomRel (o : AtomOp) (scope : BitVec 3) (f : SC) : State → Host.Outcome State Fault Refusal := atomWord o false true scope f
/-- R274. -/
def execSAtomAcqrel (o : AtomOp) (scope : BitVec 3) (f : SC) : State → Host.Outcome State Fault Refusal := atomWord o true true scope f

/-- R276: the comparison consumes the expected value, the new value is stored (R426). -/
def execSCas (order size : BitVec 2) (scope : BitVec 3) (f : SC) : State → Host.Outcome State Fault Refusal :=
  let a := f.a.toNat
  let pair (r : Nat) : List Nat := if size = 2 then [r, r + 1] else [r]
  let ds := pair f.d.toNat
  let bs := pair f.b.toNat
  let n := if size = 0 then 4 else if size = 1 then 8 else 16
  scalarWord { w := f.w, reads := ds ++ [a] ++ bs, writes := ds, consumes := ds ++ [a], noisy := true,
               even := if size = 2 then [f.d.toNat, f.b.toNat] else [] } fun x s =>
      let value (rs : List Nat) : Nat :=
        (x.sreg s (rs.headD 0)).val.toNat + (match rs with | [_, h] => (x.sreg s h).val.toNat * 2 ^ 64 | _ => 0)
      let marked (rs : List Nat) : Bool := rs.any fun i => (x.sreg s i).mark
      let am := marked [a]
      atomicEff x s (x.sreg s a).val n scope.toNat (order.getLsbD 0) (order.getLsbD 1) fun s pa =>
        let ((u, mk), s) := s.atomic x.c pa n fun u mk =>
          if u = value ds % 2 ^ (8 * n) then some (value bs % 2 ^ (8 * n), mk || am || marked ds || marked bs) else none
        let old (i : Nat) : Marked := ⟨wordN (u / 2 ^ (64 * i)), mk || am⟩
        (s.longScalar x.c x.t ((f.d.toNat, old 0) :: (if size = 2 then [(f.d.toNat + 1, old 1)] else [])) [] true true).2

/-! ### Lane atomics -/

/-- The bytes of a lane atomic (R277). -/
def laneAtomBytes (f : Lane) : Nat := if f.ty = 1 then 8 else 4

/-- Comb of a lane atomic (R277, R279). -/
def laneComb (f : Lane) (u x : Nat) : Nat :=
  if f.ty = 2 then combHalves u x else comb (bits f.imm.toNat 29 4) (laneAtomBytes f) u x

/-- The running lanes that name the same address, by address (R278). -/
def addressGroups {α : Type} [DecidableEq α] (ps : List (Nat × α)) : List (α × List Nat) :=
  ps.foldl (fun acc e =>
    if acc.any fun g => decide (g.1 = e.2) then acc.map fun g => if g.1 = e.2 then (g.1, g.2 ++ [e.1]) else g
    else acc ++ [(e.2, [e.1])]) []

/-- The merge of R278: the value combined into memory, and what each lane combines with the old value; the lowest lane gets the old
value itself. -/
def merge (f : Lane) (x : Nat → Nat) : List Nat → Nat × List (Nat × Option Nat)
  | [] => (0, [])
  | l :: r => r.foldl (fun acc k => (laneComb f acc.1 (x k), acc.2 ++ [(k, some acc.1)])) (x l, [(l, none)])

/-- The results of the lanes of one address for an old value (R278). -/
def merged (f : Lane) (old : Nat) (mark : Bool) (ls : List (Nat × Option Nat)) : List (Nat × LaneOut) :=
  ls.map fun e => (e.1, outD (wordN (match e.2 with | none => old | some p => laneComb f old p)) mark)

/-- The operand of a lane, and the marks of a group's operands and addresses. -/
def operandOf (x : LaneCtx) (l : Nat) : Nat := (x.src .b l).val.toNat % 2 ^ (8 * laneAtomBytes x.f)
def groupMark (x : LaneCtx) (ls : List Nat) : Bool := ls.any fun l => (x.src .a l).mark || (x.src .b l).mark

/-- The order of a lane atomic: whether it acquires and releases (R277). -/
def laneAcq (f : Lane) : Bool := (BitVec.ofNat 2 (laneOrderOf f)).getLsbD 0
def laneRel (f : Lane) : Bool := (BitVec.ofNat 2 (laneOrderOf f)).getLsbD 1

/-- The waits of a lane atomic once its checks have passed (R269, R289). -/
def laneAtomicWaits (s : State) (x : LaneCtx) : Option LaneEff :=
  if (x.now s).inRegion && !x.lanes.isEmpty then some .commit
  else if laneRel x.f && !released s x.c (laneScopeOf x.f) then some .wait
  else none

/-- The atomics of the lanes at their homes, one for each address (R278): what each lane writes, and the state after them. -/
def State.laneAtoms (s : State) (x : LaneCtx) (ps : List (Nat × Nat)) : List (Nat × LaneOut) × State :=
  (addressGroups (ps.map fun e => (e.1, (e.2, laneAddr x e.1)))).foldl (fun (acc : List (Nat × LaneOut) × State) g =>
    let m := merge x.f (operandOf x) g.2
    let gm := groupMark x g.2
    let r := acc.2.atomic x.c g.1.1 (laneAtomBytes x.f) fun u b => some (laneComb x.f u m.1, b || gm)
    (acc.1 ++ merged x.f r.1.1 (r.1.2 || gm) m.2, r.2)) ([], s)

/-- The same in core stores. -/
def State.scratchAtoms (s : State) (x : LaneCtx) (ps : List (Nat × Place)) : List (Nat × LaneOut) × State :=
  (addressGroups ps).foldl (fun (acc : List (Nat × LaneOut) × State) g =>
    let m := merge x.f (operandOf x) g.2
    let r := (acc.2.core g.1.core).read g.1.off (laneAtomBytes x.f)
    let mark := r.2 || groupMark x g.2
    (acc.1 ++ merged x.f (bytesN r.1) mark m.2,
     acc.2.teamScratch x.c x.t g.1 (natBytes (laneAtomBytes x.f) (laneComb x.f (bytesN r.1) m.1)) mark)) ([], s)

/-- The compare-and-swaps of the lanes in order (R280). -/
def State.laneSwaps (s : State) (x : LaneCtx) (ps : List (Nat × Nat)) : List (Nat × LaneOut) × State :=
  let n := laneAtomBytes x.f
  ps.foldl (fun (acc : List (Nat × LaneOut) × State) e =>
    let l := e.1
    let want := operandOf x l
    let am := (x.src .a l).mark
    let bm := (x.src .b l).mark
    let r := acc.2.atomic x.c e.2 n fun u b =>
      if u = want then some ((x.src .c l).val.toNat % 2 ^ (8 * n), b || am || bm || (x.src .c l).mark) else none
    let out : LaneOut :=
      { d := some ⟨wordN r.1.1, r.1.2 || am⟩, p := if x.f.pd = 0 then none else some (r.1.1 == want, r.1.2 || am || bm) }
    (acc.1 ++ [(l, out)], r.2)) ([], s)

/-- R277 to R279. -/
def execVAtom (f : Lane) : State → Host.Outcome State Fault Refusal :=
  let n := laneAtomBytes f
  laneWord f { tys := 7, vd := .op, a := .op, b := .op, imm := 0x1E3FFFFFF }
    { eat := if bits f.imm.toNat 29 4 = 8 then [.a] else [.a, .b], long := true, noisy := true } fun x s =>
    match laneGlobal s x Need.atomic true n with
    | (.bad r, _) => .trap r
    | (.wait, _) => .wait
    | (.ok ps, s) =>
      match laneAtomicWaits s x with
      | some e => e
      | none =>
        let (outs, s) := s.laneAtoms x ps
        let s := if laneAcq f && !x.lanes.isEmpty then s.acquire x.c (laneScopeOf f) else s
        .next (s.longLane x outs true true).2

/-- R278: performed at the bank of the target core store. -/
def execVAtomsp (f : Lane) : State → Host.Outcome State Fault Refusal :=
  let n := laneAtomBytes f
  laneWord f { tys := 7, vd := .op, a := .op, b := .op, x := true, imm := if f.x then 0x1FC1FFFFF else 0x1E01FFFFF }
    { eat := if bits f.imm.toNat 29 4 = 8 then [.a] else [.a, .b], long := true, noisy := true } fun x s =>
    match laneScratch s x true n with
    | .bad r => .trap r
    | .wait => .wait
    | .ok ps =>
      match laneAtomicWaits s x with
      | some e => e
      | none =>
        let (outs, s) := s.scratchAtoms x ps
        .next (s.longLane x outs true false).2

/-- R280: the lanes in ascending order. -/
def execVCas (f : Lane) : State → Host.Outcome State Fault Refusal :=
  let n := laneAtomBytes f
  laneWord f { tys := 3, vd := .op, a := .op, b := .op, c := .op, pd := true, imm := 0x3FFFFFF }
    { eat := [.a, .b], long := true, noisy := true } fun x s =>
    match laneGlobal s x Need.atomic true n with
    | (.bad r, _) => .trap r
    | (.wait, _) => .wait
    | (.ok ps, s) =>
      match laneAtomicWaits s x with
      | some e => e
      | none =>
        let (outs, s) := s.laneSwaps x ps
        let s := if laneAcq f && !x.lanes.isEmpty then s.acquire x.c (laneScopeOf f) else s
        .next (s.longLane x outs true true).2

/-! ### Barriers (R282, R283) -/

/-- A barrier whose arrivals reach its expected count completes its phase. -/
def Barrier.test (b : Barrier) : Barrier :=
  if b.expected ≤ b.count then { b with count := 0, phase := b.phase + 1 } else b

def State.barrier (s : State) (c b : Nat) : Barrier := (s.core c).barriers.get Barrier.init b
def State.setBarrier (s : State) (c b : Nat) (v : Barrier) : State :=
  s.modCore c fun k => { k with barriers := k.barriers.set Barrier.init b v }

/-- One arrival. -/
def State.arrive (s : State) (c b : Nat) : State :=
  let v := s.barrier c b
  s.setBarrier c b { v with count := v.count + 1 }.test

/-- R283. -/
def execSBarInit (f : SBar) : State → Host.Outcome State Fault Refusal :=
  let d := f.d.toNat
  scalarWord { w := f.w, reads := [d], consumes := [d] } fun x s =>
    let e := (x.sreg s d).val.toNat
    if e = 0 ∨ 32 < e then .trap ⟨.illegalOperand, 0, 0⟩
    else
      let v := s.barrier x.c f.bar.toNat
      .done (s.setBarrier x.c f.bar.toNat { v with expected := e }.test)

/-- R283: a release at core scope. -/
def execSBarArrive (f : SBar) : State → Host.Outcome State Fault Refusal :=
  scalarWord { w := f.w } fun x s =>
    let b := f.bar.toNat
    if (s.barrier x.c b).expected = 0 then .trap ⟨.illegalOperand, 0, 0⟩
    else commitFirst x s fun s => .done (s.arrive x.c b)

/-- R283: an arrival, then a wait for the phase to complete. -/
def execSBarSync (f : SBar) : State → Host.Outcome State Fault Refusal :=
  scalarWord { w := f.w } fun x s =>
    let b := f.bar.toNat
    match x.m.sched.hold with
    | some (.barrier _ p) => if (s.barrier x.c b).phase = p then .hold s (.barrier b p) else .done s
    | _ =>
      if (s.barrier x.c b).expected = 0 then .trap ⟨.illegalOperand, 0, 0⟩
      else commitFirst x s fun s =>
        let p := (s.barrier x.c b).phase
        let s := s.arrive x.c b
        if (s.barrier x.c b).phase = p then .hold s (.barrier b p) else .done s

/-! ### Seals (R285 to R287) -/

/-- The level of the leaf that translates an address for a core, once its translation has succeeded. -/
def State.leafLevel (s : State) (c asid va : Nat) (n : Need) : Nat :=
  match ((s.core c).tlb ++ (s.die (dieOf c)).tlb).find? fun t => t.serves asid va n with
  | some t => t.level
  | none => 3

/-- The leaf pages that [va, va + len) touches, from a virtual address on: base and size of each virtual page, and its physical
base; or the check that fails (R285): a page without a translation before one that is not writable, of which `bad` is the first; none where a
walk must wait. -/
def sealWalk (x : Ctx) : Nat → State → Nat → Nat → Option Raise → List (Nat × Nat × Nat) →
    Except (Option Raise) (List (Nat × Nat × Nat)) × State
  | 0, s, _, _, bad, acc => (match bad with | some r => .error (some r) | none => .ok acc, s)
  | fuel + 1, s, va, stop, bad, acc =>
    if stop ≤ va then (match bad with | some r => .error (some r) | none => .ok acc, s)
    else
      let need : Need := { w := true }
      match xlate s (some x.c) (dieOf x.c) x.m.id.asid x.m.id.runtime need (wordN va) with
      | (.fail .protection, s) =>
        sealWalk x fuel s ((va / 65536 + 1) * 65536) stop (some (bad.getD ⟨.protection, wordN (va / 65536 * 65536), 0⟩)) acc
      | (.fail k, s) => (.error (some ⟨k, wordN (va / 65536 * 65536), 0⟩), s)
      | (.poison e, s) => (.error (some ⟨.machineCheck, wordN e, 0⟩), s)
      | (.wait, s) => (.error none, s)
      | (.ok pa, s) =>
        let size := 2 ^ levelShift (s.leafLevel x.c x.m.id.asid va need)
        sealWalk x fuel s ((va / size + 1) * size) stop bad (acc ++ [(va / size * size, size, pa / size * size)])

/-- The pages of the range of `s.seal` and `s.unseal`. -/
def sealPages (x : Ctx) (s : State) (va len : Nat) : Except (Option Raise) (List (Nat × Nat × Nat)) × State :=
  sealWalk x (len / 65536 + 2) s va (va + len) none []

/-- Removes [b, b + n) from a list of ranges. -/
def cutRanges (rs : List (Nat × Nat)) (b n : Nat) : List (Nat × Nat) :=
  rs.flatMap fun r =>
    if r.1 + r.2 ≤ b ∨ b + n ≤ r.1 then [r]
    else (if r.1 < b then [(r.1, b - r.1)] else []) ++ (if b + n < r.1 + r.2 then [(b + n, r.1 + r.2 - (b + n))] else [])

/-- Drops every copy of pages of memory: L1, RDC, node cache and replica (R184, R286, R287). A replica's frame is pushed on its die's free list
(R405). -/
def State.dropPages (s : State) (ps : List (Nat × Nat)) : State :=
  let s := s.dropCopies fun a => meets ps a 32
  { s with
    dies := s.dies.mapVals Die.init fun k => { k with replicas := k.replicas.filter fun r => !meets ps r.page 65536 }
    clusters := s.clusters.mapVals Cluster.init fun q => { q with nodes := q.nodes.keep fun u _ => !meets ps (32 * u) 32 } }
  |> fun s' => (s.dies.flatMap fun e => e.2.replicas.filter fun r => meets ps r.page 65536).foldl
      (fun s r => freePush s r.die (wordN r.frame)) s'

/-- The shape of `s.seal` and `s.unseal`: the checks of R285, the commit, the release, then the work. -/
def sealWord (scope : BitVec 3) (f : SC) (work : Ctx → List (Nat × Nat) → State → Eff) : State → Host.Outcome State Fault Refusal :=
  let srcs := [f.a.toNat, f.b.toNat]
  scalarWord { w := f.w, reads := srcs, writes := [f.d.toNat], consumes := srcs, noisy := true } fun x s =>
    let va := (x.sreg s f.a.toNat).val.toNat
    let len := (x.sreg s f.b.toNat).val.toNat
    match sealPages x s va len with
    | (.error (some r), _) => .trap r
    | (.error none, s) => .hold s .line
    | (.ok pages, s) =>
      commitFirst x s fun s => releaseFirst x s scope.toNat fun s =>
        let first := pages.headD (1, 1, 0)
        let last := pages.getLastD (1, 1, 0)
        if len = 0 ∨ first.1 ≠ va ∨ last.1 + last.2.1 ≠ va + len then .done (x.status s f.d.toNat 1 (x.marked s srcs))
        else work x (pages.map fun p => (p.2.2, p.2.1)) s

/-- R286. -/
def execSSeal (scope : BitVec 3) (f : SC) : State → Host.Outcome State Fault Refusal :=
  sealWord scope f fun x ps s =>
    if s.mem.ranges.any fun r => r.pieces.any fun p => meets ps p.1 p.2 then .hold s .line
    else
      let s := s.modMem fun m => { m with seals := ps.foldl (fun l p => if p ∈ l then l else p :: l) m.seals }
      if s.cores.any fun e => e.2.inflight.any fun y => meets ps y.pa y.data.length then .hold s .line
      else .done (x.status (s.dropPages ps) f.d.toNat 0 (x.marked s [f.a.toNat, f.b.toNat]))

/-- R287: then an acquire-release at its scope. -/
def execSUnseal (scope : BitVec 3) (f : SC) : State → Host.Outcome State Fault Refusal :=
  sealWord scope f fun x ps s =>
    let s := (s.dropPages ps).modMem fun m => { m with seals := ps.foldl (fun l p => cutRanges l p.1 p.2) m.seals }
    .done ((x.status s f.d.toNat 0 (x.marked s [f.a.toNat, f.b.toNat])).acquire x.c scope.toNat)

end Sys2Proof.Machine
end

