-- ==== Sys2Proof/Machine/Queues.lean ====
section
/-!
DEFINITION. Queues of the package (R327 to R331), the words of scalar major 35 (R345, R346, R351, R354, R356 to R362, R368, R369).
-/
namespace Sys2Proof.Machine

/-! ### The state of a queue (R328, R330, R331) -/

/-- STATE of a queue (R330). -/
def State.queueState (s : State) (q : Nat) : Nat :=
  let d := s.queueDesc q
  let i := s.queue q
  if queueBroken d then 7
  else if qKind d = 0 then 0
  else if i.closed then 4
  else if queueOverfull d then 7
  else if i.slot.isSome then 3
  else if qCount d = 0 then 1
  else 2

/-- The effective priority (R331). -/
def State.queuePrio (s : State) (q : Nat) : Nat :=
  let p := qPrio (s.queueDesc q)
  match (s.queue q).waitSince with
  | none => p
  | some t =>
    let e := p + (s.cycles - t) / (100 * cyclesPerUs)
    let top := if p ≤ 11 then 11 else 23
    if e < top then e else top

/-- The queue manager looks at a queue: it starts or stops waiting, and STATE and EPRIO are written (R328, R330). A queue whose
runtime has cleared KIND loses what the queue manager kept of it. -/
def State.lookQueue (s : State) (q : Nat) : State :=
  let s := if qKind (s.queueDesc q) = 0 then s.setQueue q QueueInt.init else s
  let st := s.queueState q
  let i := s.queue q
  let d := s.queueDesc q
  let ahead (t : Nat) : Bool := let n := (t + 2 ^ 32 - qHead d) % 2 ^ 32; decide (1 ≤ n ∧ n < 2 ^ 31)
  let seen := i.seen.filter fun e => ahead e.1
  let producers := i.producers.filter fun e => ahead (e.1 + 1)
  let s := s.setQueue q { i with
    waitSince := if st = 2 then (if i.waitSince.isSome then i.waitSince else some s.cycles) else none
    emptyBefore := i.emptyBefore && qCount d == 0
    producers
    seen := if qCount d = 0 then [] else if seen.getLast?.map (·.1) = some (qTail d) then seen else seen ++ [(qTail d, s.cycles)] }
  let v := s.queuePrio q * 8 + st
  if (s.mem.read (s.queuePa q + 0x2C) 1).map (·.toNat) = [v] then s else s.queueField q 0x2C 1 v

/-- A cluster's core turns black for a graph (R364). -/
def State.blacken (s : State) (g c : Nat) : State :=
  match s.sched.graphs.get none g with
  | none => s.modSched fun x => { x with graphs := x.graphs.set none g (some ⟨0, true, false, [c]⟩) }
  | some y => s.modSched fun x => { x with graphs := x.graphs.set none g (some { y with black := insertNat c y.black }) }

/-- A queue may take or give records to teams and engines of an address space (R359, R361). -/
def State.recordQueue (s : State) (asid q : Nat) : Bool :=
  let d := s.queueDesc q
  !queueBroken d && qKind d == 2 && qAsid d == asid && !queueOverfull d

/-- The address of an entry of a queue, translated for the queue manager: the codes are none when the access faults, and an engine
that writes the line is waited for (R228, R359). -/
inductive EntryPlace where
  | ok (pa : Nat)
  | fault
  | wait

def State.queueEntry (s : State) (q index size : Nat) (need : Need) : EntryPlace × State :=
  let d := s.queueDesc q
  let va := qBase d + size * (index % 2 ^ qLog d)
  match engineXlate s (q % 4) (qAsid d) (contextRT (s.context (qAsid d))) need va with
  | (.error none, s) => (.wait, s)
  | (.error (some _), s) => (.fault, s)
  | (.ok pa, s) =>
    if isMgmt pa || (need.w && s.mem.sealed pa) then (.fault, s)
    else if s.blocked pa none then (.wait, s)
    else (.ok pa, s)

/-- What a post of a record meets (R359, R367). -/
inductive Post where
  | done (s : State)
  | full
  | closed
  | fault
  | wait

/-- TAIL advances past the entry that was written; the core that published it is kept until the entry is taken (R292). -/
def State.published (s : State) (q tail : Nat) (producer : Option Nat) : State :=
  let s := s.queueField q 0x0C 4 (tail + 1)
  let s := match producer with
    | some c => let i := s.queue q; s.setQueue q { i with producers := i.producers ++ [(tail, c)] }
    | none => s
  s.lookQueue q

/-- The core that published an entry of a queue, if one of the package did (R292). -/
def State.producer (s : State) (q entry : Nat) : Option Nat := ((s.queue q).producers.find? fun e => e.1 == entry).map (·.2)

/-- The queue manager performs a push of a record, by a core or by an engine, on a valid record queue. -/
def State.post (s : State) (q : Nat) (bs : List Byte) (mark : Bool) (producer : Option Nat) : Post :=
  let d := s.queueDesc q
  if (s.queue q).closed then .closed
  else if 2 ^ qLog d ≤ qCount d then .full
  else match s.queueEntry q (qTail d) 32 Need.store with
    | (.fault, _) => .fault
    | (.wait, _) => .wait
    | (.ok pa, s) =>
      .done ((s.engineWrite pa bs mark).published q (qTail d) producer)

/-! ### Rings (R357, R358) -/

/-- The fields of a ring header. -/
structure Ring where
  place : Place
  head : Nat
  tail : Nat
  slotBase : Nat
  logN : Nat
  slotQ : Nat
  pmask : Nat
  seen : Bool
  broken : Bool
  bad : Bool

/-- The header that an address value names, if 64 bytes there lie inside the bounds. -/
def ringAt (s : State) (c : Nat) (m : Team) (addr : Nat) : Option Ring :=
  match scratchPlace s c m m.wide (wordN addr) 64 with
  | none => none
  | some p =>
    let k := s.core p.core
    let a := k.readN (p.off + 0x08) 4
    let b := k.readN (p.off + 0x0C) 4
    let f := k.readN (p.off + 0x18) 4
    let rest := (k.read (p.off + 0x1C) 36).1
    some { place := p, head := k.readN p.off 4, tail := k.readN (p.off + 4) 4, slotBase := a % 2 ^ 24, logN := bits b 8 4,
           slotQ := bits b 0 4, pmask := k.readN (p.off + 0x10) 8, seen := bit f 2, broken := bit f 1,
           bad := addr % 64 != 0 || a / 2 ^ 24 != 0 || b / 2 ^ 12 != 0 || bits b 4 4 != 0 || f / 8 != 0 || !bit f 0 ||
             rest.any (· != 0) || decide (8 < bits b 8 4) || bits b 0 4 == 0 || a % 16 != 0 || bits a 20 4 != bits addr 20 4 }

/-- A handle's ring address, or its queue number; none for a set RES0 bit (R356). -/
def handleRing (h : Word) : Bool := h.getLsbD 63
def handleBad (h : Word) : Bool := bits h.toNat 24 39 != 0 || (!handleRing h && bits h.toNat 17 7 != 0)

/-- The record area of n bytes that sb names (R361). -/
def recordArea (s : State) (c : Nat) (m : Team) (store : Bool) (v : Word) (n : Nat) : Option Place :=
  if v.toNat % 16 ≠ 0 then none
  else match scratchPlace s c m m.wide v n with
    | some p => if store && frameStore m p n then none else some p
    | none => none

/-- An outcome of a queue word. -/
inductive QueueOut where
  | code (n : Nat) (s : State)
  | wait (s : State)
  | trap (r : Raise)

/-- The records in a ring. -/
def Ring.count (r : Ring) : Nat := (r.tail + 2 ^ 32 - r.head) % 2 ^ 32

/-- The place of slot i. -/
def ringSlot (s : State) (c : Nat) (m : Team) (r : Ring) (i : Nat) : Option Place :=
  scratchPlace s c m m.wide (wordN (r.slotBase + 16 * r.slotQ * (i % 2 ^ r.logN))) (16 * r.slotQ)

/-- The bit by which a team holds a ring open. -/
def openBit (s : State) (c : Nat) (m : Team) (p : Place) : Option (Nat × Nat) :=
  m.rings.find? fun e =>
    match scratchPlace s c m true (wordN e.1) 64 with
    | some q => q.core == p.core && q.off == p.off
    | none => false

/-- Copies n bytes from one place of scratchpad to another: each piece of the destination takes the marks of the bytes that it gets, or the
mark of the word that moves them (R222, R232). -/
def State.moveScratch (s : State) (src dst : Place) (n : Nat) (mark : Bool) : State :=
  let from_ := s.core src.core
  let grain := if dst.off < (s.core dst.core).windowEnd then 8 else 32
  (List.range ((dst.off + n + grain - 1) / grain - dst.off / grain)).foldl (fun s i =>
    let u := dst.off / grain + i
    let lo := if u * grain < dst.off then dst.off else u * grain
    let hi := if dst.off + n < u * grain + grain then dst.off + n else u * grain + grain
    let r := from_.read (src.off + (lo - dst.off)) (hi - lo)
    s.engineScratch dst.core lo r.1 (r.2 || mark)) s

/-- A field of a ring header, written at its bank. -/
def State.ringField (s : State) (r : Ring) (off n v : Nat) : State := s.engineScratch r.place.core (r.place.off + off) (natBytes n v) false

/-- A ring operation (R358, R361). -/
def ringAttempt (s : State) (c t : Nat) (m : Team) (op : QueueOp) : QueueOut :=
  let addr := op.handle.toNat % 2 ^ 24
  match ringAt s c m addr with
  | none => .code 1 s
  | some r =>
    if r.bad then .code 1 s
    else match op.kind with
      | .open_ =>
        match (List.range 64).find? fun i => !bit r.pmask i with
        | none => .code 8 s
        | some i =>
          if 8 ≤ m.rings.length then .code 8 s
          else
            let f := (s.core r.place.core).readN (r.place.off + 0x18) 4
            let s := (s.ringField r 0x10 8 (r.pmask + 2 ^ i)).ringField r 0x18 4 (f ||| 4)
            .code 0 (s.modTeam c t fun m => { m with rings := m.rings ++ [(addr, i)] })
      | .close =>
        match openBit s c m r.place with
        | none => .code 6 s
        | some e =>
          .code 0 ((s.closeRing c m e.1 e.2).modTeam c t fun m => { m with rings := m.rings.erase e })
      | .push | .pushNw =>
        if r.broken then .trap ⟨.channelBroken, wordN addr, 0⟩
        else match recordArea s c m false op.area (16 * r.slotQ), ringSlot s c m r r.tail with
          | some src, some dst =>
            if (openBit s c m r.place).isNone then .code 6 s
            else if 2 ^ r.logN ≤ r.count then (if op.kind = .pushNw then .code 2 s else .wait s)
            else
              .code 0 ((s.moveScratch src dst (16 * r.slotQ) op.mark).ringField r 4 4 (r.tail + 1))
          | _, _ => .code 1 s
      | .pop | .poll =>
        if r.broken then .trap ⟨.channelBroken, wordN addr, 0⟩
        else match recordArea s c m true op.area (16 * r.slotQ), ringSlot s c m r r.head with
          | some dst, some src =>
            if r.count = 0 then
              if r.seen && r.pmask == 0 then .code 5 s
              else if op.kind = .poll then .code 3 s
              else .wait s
            else
              .code 0 (((s.moveScratch src dst (16 * r.slotQ) op.mark).ringField r 0 4 (r.head + 1)).acquire c scCluster)
          | _, _ => .code 1 s

/-! ### Record queues (R359) -/

/-- A record-queue operation, performed by the queue manager. A record that a core of the package pushed is handed to a pop of another core
only when that core's stores are at home, at whatever scope it was pushed (R292, R360). -/
def recordAttempt (s : State) (c t : Nat) (m : Team) (op : QueueOp) : QueueOut :=
  let q := op.handle.toNat % 2 ^ 17
  let d := s.queueDesc q
  let tally (s : State) (off : Nat) : State := s.modTeam c t fun m => { m with tally := m.tally ++ [(q, off, 1)] }
  if !s.recordQueue m.id.asid q then .code 1 s
  else match op.kind with
    | .open_ | .close => .code 1 s
    | .push | .pushNw =>
      match recordArea s c m false op.area 32 with
      | none => .code 1 s
      | some src =>
        let (bs, mark) := (s.core src.core).read src.off 32
        match s.post q bs (mark || op.mark) (some c) with
        | .closed => .code 5 s
        | .fault => .code 7 s
        | .wait => .wait s
        | .full => if op.kind = .pushNw then .code 2 s else .wait s
        | .done s => .code 0 (tally (if qGraph d = 0 then s else s.blacken (qGraph d) c) 0)
    | .pop | .poll =>
      match recordArea s c m true op.area 32 with
      | none => .code 1 s
      | some dst =>
        if (s.queue q).closed then .code 5 s
        else if qCount d = 0 then (if op.kind = .poll then .code 3 s else .wait s)
        else if ((s.producer q (qHead d)).any fun p => p != c && !(s.core p).inflight.isEmpty) then .wait s
        else match s.queueEntry q (qHead d) 32 Need.load with
          | (.fault, s) => .code 7 s
          | (.wait, s) => .wait s
          | (.ok pa, s) =>
            let scope := handOff (qScope d) (s.producer q (qHead d)) c
            let ((bs, mark), s) := s.readHome (q % 4) pa 32
            let s := (s.engineScratch dst.core dst.off bs (mark || op.mark)).queueField q 0x08 4 (qHead d + 1)
            .code 0 (tally ((s.lookQueue q).acquire c scope) 8)

/-- A queue operation (R361). -/
def queueAttempt (s : State) (c t : Nat) (op : QueueOp) : QueueOut :=
  match s.team c t with
  | none => .wait s
  | some m =>
    if handleBad op.handle || (op.kind != .open_ && op.kind != .close && bits op.area.toNat 24 40 != 0) then .code 1 s
    else if handleRing op.handle then ringAttempt s c t m op
    else recordAttempt s c t m op

/-- The word is a pop or a poll. -/
def QueueOp.pops (op : QueueOp) : Bool := op.kind == .pop || op.kind == .poll

/-- Writes the status of a queue word and its predicate, and keeps the count of EMPTY polls (R354, R361). -/
def queueStatus (s : State) (c t : Nat) (op : QueueOp) (code : Nat) : State :=
  let s := (s.longScalar c t [(op.d, ⟨wordN code, op.mark⟩)] (if op.pops then [(op.kd, code == 5, op.mark)] else []) true false).2
  if !op.pops then s
  else s.modTeam c t fun m => m.modSched fun y =>
    if code = 3 then
      let e := if y.empties < 7 then y.empties else 7
      { y with empties := y.empties + 1, holdUntil := s.cycles + 16 * 2 ^ e }
    else { y with empties := 0, lowPoll := false }

/-- The scope at which a push, `.open` or `.close` is a release (R360). -/
def queueScope (s : State) (op : QueueOp) : Nat :=
  if handleRing op.handle then scCluster else qScope (s.queueDesc (op.handle.toNat % 2 ^ 17))

/-- The shape of the queue words: a trap comes before the commit, everything else after it (R289, R425). -/
def queueWord (f : SC) (kind : QueueKind) (kd : Nat) : State → Host.Outcome State Fault Refusal :=
  let srcs := if kind = .open_ ∨ kind = .close then [f.a.toNat] else [f.a.toNat, f.b.toNat]
  scalarWord { w := f.w, reads := srcs, writes := [f.d.toNat], kwrites := if kind = .pop ∨ kind = .poll then [kd] else [],
               consumes := srcs, noisy := true } fun x s =>
    let op : QueueOp :=
      { kind, d := f.d.toNat, kd, handle := (x.sreg s f.a.toNat).val, area := (x.sreg s f.b.toNat).val,
        mark := x.marked s srcs }
    match queueAttempt s x.c x.t op with
    | .trap r => .trap r
    | _ => commitFirst x s fun s =>
      let go (s : State) : Eff :=
        match queueAttempt s x.c x.t op with
        | .trap r => .trap r
        | .wait s => .hold s (.queue op)
        | .code n s => .done (queueStatus s x.c x.t op n)
      if op.pops then go s else releaseFirst x s (queueScope s op) go

/-- R361. -/
def execSQpush (f : SC) : State → Host.Outcome State Fault Refusal := queueWord f .push 0
/-- R361. -/
def execSQpushNw (f : SC) : State → Host.Outcome State Fault Refusal := queueWord f .pushNw 0
/-- R358. -/
def execSQpushOpen (f : SC) : State → Host.Outcome State Fault Refusal := queueWord f .open_ 0
/-- R358. -/
def execSQpushClose (f : SC) : State → Host.Outcome State Fault Refusal := queueWord f .close 0
/-- R361. -/
def execSQpop (kd : BitVec 3) (f : SC) : State → Host.Outcome State Fault Refusal := queueWord f .pop kd.toNat
/-- R361. -/
def execSQpoll (kd : BitVec 3) (f : SC) : State → Host.Outcome State Fault Refusal := queueWord f .poll kd.toNat

/-! ### The work distributor (R344 to R346) -/

/-- The request of `s.wdq`, if its fields are good: the counter, and the address values of answer and arrival word. -/
def wdqFields (s : State) (c : Nat) (m : Team) (a b : Word) : Option (Nat × Nat × Nat) :=
  let n := bits a.toNat 0 3
  let ans := bits b.toNat 0 24
  let aw := bits b.toNat 24 24
  let out (va n : Nat) : Bool := va % n != 0 || (scratchPlace s c m m.wide (wordN va) n).isNone
  match s.launch m.id.launch with
  | none => none
  | some l =>
    if a.toNat / 8 ≠ 0 ∨ b.toNat / 2 ^ 48 ≠ 0 ∨ (l.counters.getD n (0, 0, 0)).2.2 = 0 ∨ out ans 8 ∨ out aw 16 then none
    else some (n, ans, aw)

/-- R345, R346. -/
def execSWdq (f : SC) : State → Host.Outcome State Fault Refusal :=
  let srcs := [f.a.toNat, f.b.toNat]
  scalarWord { w := f.w, reads := srcs, writes := [f.d.toNat], consumes := srcs, noisy := true } fun x s =>
    commitFirst x s fun s =>
      let m := x.now s
      let status (s : State) (v : Nat) : Eff := .done (x.status s f.d.toNat (wordN v) (x.marked s srcs))
      match wdqFields s x.c m (x.sreg s f.a.toNat).val (x.sreg s f.b.toNat).val, s.launch m.id.launch with
      | some (n, ans, aw), some l =>
        if 4 ≤ m.wdq then status s 8
        else
          let s := s.modTeam x.c x.t fun m => { m with wdq := m.wdq + 1 }
          status (s.setLaunch m.id.launch (some { l with requests := l.requests ++ [(m.id.cy * 32 + m.id.cx, x.t, n, ans, aw)] })) 0
      | _, _ => status s 1

/-! ### Leases and the active set (R351, R368) -/

/-- R351: a short result; a raise over the share takes effect at the next switch marker. -/
def execSLease (f : SC) : State → Host.Outcome State Fault Refusal :=
  let srcs := [f.a.toNat]
  scalarWord { w := f.w, reads := srcs, writes := [f.d.toNat], consumes := srcs } fun x s =>
    let v := (x.sreg s f.a.toNat).val.toNat
    let g := bits v 0 16
    let pinned := match x.m.region with | some r => r.pinned.length | none => 0
    let code := if v / 2 ^ 17 ≠ 0 ∨ g = 0 ∨ 1024 < g then 1 else if 8 * g < pinned then 2 else 0
    let old := x.m.lease
    let new : Lease := { old with decl := g, auto := bit v 16, lines := 8 * g }
    let s := if code = 0 then s.modTeam x.c x.t fun m => { m with lease := new } else s
    let k := s.core x.c
    let overs := decide (code = 0 ∧ old.cur < new.cur ∧ k.shareGranules < k.leaseSum)
    let s := s.modTeam x.c x.t fun m => { m with lease := { m.lease with
      raised := if code ≠ 0 then m.lease.raised else overs } }
    let s := s.clearOver x.c
    .done (x.setSreg s f.d.toNat ⟨wordN ((x.now s).lease.cur * 2 ^ 32 + code), x.marked s srcs⟩)

/-- R368: a switch marker after which the team yields. -/
def execSYield (f : SC) : State → Host.Outcome State Fault Refusal :=
  scalarWord { w := f.w } fun x s => commitFirst x s fun s =>
    .done (s.modTeam x.c x.t fun m => m.modSched fun y => { y with parked := true, yielding := true })

/-! ### Publishing a launch (R369) -/

/-- R369: a release at the queue's SCOPE that waits for every earlier store of the team (R340). -/
def execSLaunch (f : SC) : State → Host.Outcome State Fault Refusal :=
  let srcs := [f.a.toNat, f.b.toNat]
  scalarWord { w := f.w, reads := srcs, writes := [f.d.toNat], consumes := srcs, noisy := true } fun x s =>
    let b := x.sreg s f.b.toNat
    let a := (x.sreg s f.a.toNat).val.toNat
    match checkAccess s x.c x.m Need.load false b.val 64 with
    | (.bad r, _) => .trap r
    | (.wait, s) => .hold s .line
    | (.ok pa, s) => commitFirst x s fun s => settleFirst x s fun s =>
      match descriptorPoison x.m f.b.toNat (s.mem.mark pa 64) with
      | some r => .trap r
      | none =>
        let q := a % 2 ^ 17
        let d := s.queueDesc q
        let ((bs, mk), s) := s.readHome (dieOf x.c) pa 64
        let status (s : State) (v : Nat) : Eff := .done (x.status s f.d.toNat (wordN v) (mk || x.marked s srcs))
        if a / 2 ^ 17 ≠ 0 ∨ queueBroken d ∨ qKind d ≠ 1 ∨ qAsid d ≠ x.m.id.asid ∨ queueOverfull d ∨ mk then status s 1
        else if 2 ^ qLog d ≤ qCount d then status s 2
        else match s.queueEntry q (qTail d) 64 Need.store with
          | (.fault, s) => status s 7
          | (.wait, s) => .hold s .line
          | (.ok at_, s) =>
            status ((s.engineWrite at_ bs false).published q (qTail d) (some x.c)) 0

end Sys2Proof.Machine
end

