-- ==== Sys2Proof/Machine/BeamMath.lean ====
section
/-!
DEFINITION. The exact arithmetic of Yarrow (R192 to R196): rays, triangles, bricks, conservative classification, and the validity of
a node (R185 to R189). Finite binary32 values are integers in units of 2^-149.
-/
namespace Sys2Proof.Machine

/-! ### Exact values -/

/-- A finite binary32 value in units of 2^-149. -/
def fx (n : Nat) : Int :=
  match FFmt.f32.value n with
  | .num neg m _ e => let v : Int := (m * 2 ^ (e + 149).toNat : Nat); if neg then -v else v
  | _ => 0

/-- A binary32 pattern is a NaN, is finite. -/
def f32Nan (n : Nat) : Bool := decide (0x7F800000 < n % 2 ^ 31)
def f32Finite (n : Nat) : Bool := decide (n % 2 ^ 31 < 0x7F800000)
def f32Inf (n : Nat) : Bool := n % 2 ^ 31 == 0x7F800000

/-- Vectors of exact values. -/
structure V3 where
  x : Int
  y : Int
  z : Int

namespace V3
def ofBits (l : List Nat) : V3 := ⟨fx (l.getD 0 0), fx (l.getD 1 0), fx (l.getD 2 0)⟩
def sub (a b : V3) : V3 := ⟨a.x - b.x, a.y - b.y, a.z - b.z⟩
def smul (k : Int) (a : V3) : V3 := ⟨k * a.x, k * a.y, k * a.z⟩
def add (a b : V3) : V3 := ⟨a.x + b.x, a.y + b.y, a.z + b.z⟩
def dot (a b : V3) : Int := a.x * b.x + a.y * b.y + a.z * b.z
def cross (a b : V3) : V3 := ⟨a.y * b.z - a.z * b.y, a.z * b.x - a.x * b.z, a.x * b.y - a.y * b.x⟩
end V3

/-- A rational with a positive denominator. -/
structure Rat3 where
  n : Int
  d : Nat
deriving DecidableEq, Repr

def Rat3.le (a b : Rat3) : Bool := decide (a.n * (b.d : Int) ≤ b.n * (a.d : Int))
def Rat3.max (a b : Rat3) : Rat3 := if a.le b then b else a
def Rat3.min (a b : Rat3) : Rat3 := if a.le b then a else b
/-- n / d for d ≠ 0. -/
def Rat3.mk' (n d : Int) : Rat3 := if d < 0 then ⟨-n, (-d).toNat⟩ else ⟨n, d.toNat⟩

/-- A bound of a ray's interval: none for +infinity. -/
def boundOf (n : Nat) : Option Rat3 := if f32Inf n then none else some ⟨fx n, 2 ^ 149⟩

/-- RoundF32(t, RNE) of a hit distance, which is not negative (R193). -/
def hitBits (t : Rat3) : Nat := (roundV .f32 .rne false (.num false t.n.toNat t.d 0)).1

/-! ### Queries -/

/-- What traversal needs of a descriptor (R190). A `v.trace` ray has no grid: `single` is its direction (R211). -/
structure Query where
  root : Nat
  nodeCount : Nat
  start : Nat
  o : List Nat
  tmin : Nat
  tmax : Nat
  d : List Nat
  du : List Nat
  dv : List Nat
  single : Option (List Nat)
  cull : Bool
  budget : Nat
  handoff : Bool
  logP : Nat

/-- Three binary32 fields of a descriptor from a byte offset. -/
def field3 (d : List Word) (byte : Nat) : List Nat := (List.range 3).map fun i => field d (byte + 4 * i) 0 32

def bmBudget (d : List Word) : Nat := field d 0x58 0 17
def bmLogN (d : List Word) : Nat := field d 0x3C 0 3
def bmLogS (d : List Word) : Nat := field d 0x3C 3 3
def bmI0 (d : List Word) : Nat := field d 0x4C 0 16
def bmJ0 (d : List Word) : Nat := field d 0x4C 16 16
def bmFlag (d : List Word) (i : Nat) : Bool := field d 0x3C i 1 == 1
def bmCone (d : List Word) : Bool := bmFlag d 6
def bmCull (d : List Word) : Bool := bmFlag d 7
def bmMerge (d : List Word) : Bool := bmFlag d 8
def bmHandoff (d : List Word) : Bool := bmFlag d 9
def bmRecords (d : List Word) : Bool := bmFlag d 10
def bmResults (d : List Word) : Nat := dw d 10
def bmSplitQ (d : List Word) : Nat := field d 0x5C 0 17
def bmTab (d : List Word) : Nat := dw d 12

def queryOf (d : List Word) : Query :=
  { root := dw d 0, nodeCount := field d 0x08 0 32, start := field d 0x0C 0 32, o := field3 d 0x10, tmin := field d 0x1C 0 32,
    tmax := field d 0x2C 0 32, d := field3 d 0x20, du := field3 d 0x30, dv := field3 d 0x40, single := none, cull := bmCull d,
    budget := if bmBudget d = 0 then 65536 else bmBudget d, handoff := bmHandoff d, logP := field d 0x3C 11 3 }

/-- The fields of a descriptor that both words use (R191, R212). -/
def traceBad (d : List Word) : Bool :=
  dw d 0 % 128 != 0 || field d 0x08 0 32 == 0 || decide (field d 0x08 0 32 ≤ field d 0x0C 0 32) || decide (65536 < bmBudget d)

/-- An interval's bounds are bad (R191, R211). -/
def intervalBad (tmin tmax : Nat) : Bool :=
  f32Nan tmin || f32Nan tmax || (bit tmin 31 && tmin % 2 ^ 31 != 0) ||
  cmpV (FFmt.f32.value tmax) (FFmt.f32.value tmin) == some .lt

/-- R191, but for poison. -/
def beamBad (d : List Word) : Bool :=
  let s := 2 ^ bmLogS d
  let n := 2 ^ bmLogN d
  field d 0x3C 14 18 != 0 || field d 0x58 17 15 != 0 || field d 0x5C 17 15 != 0 ||
  decide (6 < bmLogN d ∨ bmLogN d < bmLogS d) || bmI0 d % s != 0 || bmJ0 d % s != 0 || decide (n ≤ bmI0 d ∨ n ≤ bmJ0 d) ||
  traceBad d || bmResults d % 16 != 0 ||
  (field3 d 0x10 ++ field3 d 0x20 ++ field3 d 0x30 ++ field3 d 0x40).any (fun v => decide (0x71800000 < v % 2 ^ 31)) ||
  intervalBad (field d 0x1C 0 32) (field d 0x2C 0 32) || (bmHandoff d && !bmMerge d) ||
  (bmRecords d && (bmMerge d || bmHandoff d))

/-- The direction of ray (i, j) (R192). -/
def Query.dir (q : Query) (i j : Nat) : List Nat :=
  match q.single with
  | some d => d
  | none => (List.range 3).map fun k =>
      let v := 2 * fx (q.d.getD k 0) + (2 * (i : Int) + 1) * fx (q.du.getD k 0) + (2 * (j : Int) + 1) * fx (q.dv.getD k 0)
      (roundV .f32 .rne false (.num (v < 0) v.natAbs 1 (-150))).1

/-- A direction that is (0, 0, 0). -/
def dirZero (d : List Nat) : Bool := d.all fun v => v % 2 ^ 31 == 0

/-- The key of a miss (R200). -/
def missKey : Nat := 0x7F800000 * 2 ^ 32 + 0xFFFFFFFF

/-- The rays of a sub-grid in ascending j and then i (R192). -/
def gridRays (q : Query) (d : List Word) : List Ray :=
  let s := 2 ^ bmLogS d
  let n : Int := (2 ^ bmLogN d : Nat)
  (List.range s).flatMap fun dj => (List.range s).map fun di =>
    let i := bmI0 d + di
    let j := bmJ0 d + dj
    let a : Int := 2 * (i : Int) + 1 - n
    let b : Int := 2 * (j : Int) + 1 - n
    let outside := bmCone d && decide (n * n < a * a + b * b)
    let dir := q.dir i j
    let bad := dirZero dir
    { i, j, dir, live := !outside && !bad, key := missKey, hit := 0, flags := outside.toNat + 2 * bad.toNat }

/-- The 128 bits of a ray's result (R200). -/
def Ray.result (r : Ray) : Nat := r.key / 2 ^ 32 + r.key % 2 ^ 32 * 2 ^ 32 + r.hit * 2 ^ 64 + r.flags * 2 ^ 123
/-- KIND is not 0. -/
def Ray.isHit (r : Ray) : Bool := bits r.hit 56 2 != 0
/-- Sets flag [123 + i]. -/
def Ray.flag (r : Ray) (i : Nat) : Ray := { r with flags := r.flags ||| 2 ^ i }
def Ray.flagged (r : Ray) (i : Nat) : Bool := bit r.flags i

/-- The side of a beam, and whether it holds a ray. -/
def Beam.side (b : Beam) : Nat := 2 ^ b.logs
def Beam.has (b : Beam) (r : Ray) : Bool := decide (b.i ≤ r.i ∧ r.i < b.i + b.side ∧ b.j ≤ r.j ∧ r.j < b.j + b.side)
/-- Quadrant k (R197). -/
def Beam.quadrant (b : Beam) (k : Nat) : Beam :=
  let h := 2 ^ (b.logs - 1)
  ⟨b.i + k % 2 * h, b.j + k / 2 * h, b.logs - 1⟩

/-- The live rays of a beam. -/
def liveIn (rs : List Ray) (b : Beam) : List Ray := rs.filter fun r => r.live && b.has r
/-- Changes the live rays of a beam. -/
def onLive (rs : List Ray) (b : Beam) (f : Ray → Ray) : List Ray := rs.map fun r => if r.live && b.has r then f r else r

/-! ### Nodes (R185 to R189) -/

/-- The 32-bit words of a node. -/
def words32 (bs : List Byte) : List Nat := (List.range (bs.length / 4)).map fun i => bytesN ((bs.drop (4 * i)).take 4)

def nodeType (w : List Nat) : Nat := w.getD 0 0 % 16
def nodeChildren (w : List Nat) : Nat := bits (w.getD 0 0) 4 3
def nodeTris (w : List Nat) : Nat := bits (w.getD 0 0) 4 2
def nodeMaterial (w : List Nat) : Nat := bits (w.getD 0 0) 8 24

/-- R189. -/
def nodeBad (w : List Nat) : Bool :=
  let w0 := w.getD 0 0
  let zero (i n : Nat) : Bool := ((w.drop i).take n).all (· == 0)
  if nodeType w = 1 then
    let n := nodeChildren w
    n == 0 || decide (4 < n) || bits w0 7 25 != 0 || !zero 1 3 || !zero (4 + 7 * n) 28
  else if nodeType w = 2 then
    let n := nodeTris w
    n == 0 || bits w0 6 2 != 0 || !zero 2 2 || !zero (4 + 9 * n) 28 || ((w.drop 4).take (9 * n)).any (!f32Finite ·)
  else if nodeType w = 3 then
    bits w0 4 4 != 0 || !zero 2 2 || !zero 10 6 || ((w.drop 4).take 6).any (!f32Finite ·) ||
    (List.range 3).any fun k => decide (fx (w.getD (7 + k) 0) < fx (w.getD (4 + k) 0))
  else true

/-- The corners of child c's box, and its node (R186). -/
def childMin (w : List Nat) (c : Nat) : List Nat := (w.drop (4 + 7 * c)).take 3
def childMax (w : List Nat) (c : Nat) : List Nat := (w.drop (7 + 7 * c)).take 3
def childRef (w : List Nat) (c : Nat) : Nat := w.getD (10 + 7 * c) 0

/-- A child that is never entered (R186). -/
def childEmpty (w : List Nat) (c : Nat) : Bool :=
  (childMin w c ++ childMax w c).any f32Nan ||
  ((childMin w c).zip (childMax w c)).any fun e => cmpV (FFmt.f32.value e.2) (FFmt.f32.value e.1) == some .lt

/-! ### Leaf tests (R194, R195) -/

/-- Bits [122:64] of a hit. -/
def hitFields (kind mat bu bv : Nat) (back : Bool) : Nat :=
  bu + bv * 2 ^ 16 + mat * 2 ^ 32 + kind * 2 ^ 56 + back.toNat * 2 ^ 58

/-- A rational lies in a ray's interval. -/
def inInterval (q : Query) (t : Rat3) : Bool :=
  (match boundOf q.tmin with | some lo => lo.le t | none => false) &&
  (match boundOf q.tmax with | some hi => t.le hi | none => true)

/-- A ray against triangle s (R194): its key and result fields. -/
def triangleHit (q : Query) (w : List Nat) (dir : List Nat) (s : Nat) : Option (Nat × Nat) :=
  let vert (k : Nat) : V3 := V3.ofBits ((w.drop (4 + 9 * s + 3 * k)).take 3)
  let v0 := vert 0
  let e1 := (vert 1).sub v0
  let e2 := (vert 2).sub v0
  let nrm := e1.cross e2
  let d := V3.ofBits dir
  let o := V3.ofBits q.o
  let den0 := d.dot nrm
  if den0 = 0 ∨ (q.cull ∧ den0 > 0) then none
  else
    let sg : Int := if den0 < 0 then -1 else 1
    let den := sg * den0
    let num := sg * (v0.sub o).dot nrm
    let t : Rat3 := ⟨num, den.toNat⟩
    if !inInterval q t then none
    else
      let p := (V3.smul den (o.sub v0)).add (V3.smul num d)
      let scale := den * nrm.dot nrm
      let u := (p.cross e2).dot nrm
      let v := (e1.cross p).dot nrm
      if u < 0 ∨ v < 0 ∨ scale < u + v then none
      else
        let bary (x : Int) : Nat := (roundInt .rne false (x.toNat * 65535) scale.toNat).1
        some (hitBits t * 2 ^ 32 + (w.getD 1 0 + s) % 2 ^ 32, hitFields 1 (nodeMaterial w) (bary u) (bary v) (decide (den0 > 0)))

/-- The t interval of a slab of the brick on an axis: none when the ray never enters it; `some none` for an axis along which
the ray does not move and whose slab holds the origin (R188, R195). -/
def slab (q : Query) (w : List Nat) (dir : List Nat) (axis i : Nat) : Option (Option (Rat3 × Rat3)) :=
  let lo := fx (w.getD (4 + axis) 0)
  let hi := fx (w.getD (7 + axis) 0)
  let o := fx (q.o.getD axis 0)
  let d := fx (dir.getD axis 0)
  let p := 8 * lo + (hi - lo) * (i : Int) - 8 * o
  let r := 8 * lo + (hi - lo) * ((i : Int) + 1) - 8 * o
  if d = 0 then (if p ≤ 0 ∧ 0 ≤ r then some none else none)
  else if d > 0 then some (some (.mk' p (8 * d), .mk' r (8 * d)))
  else some (some (.mk' r (8 * d), .mk' p (8 * d)))

/-- A ray against a cell with these slabs (R195): its entry, and BV. -/
def cellHit (q : Query) (dir : List Nat) (slabs : List (Option (Option (Rat3 × Rat3)))) : Option (Rat3 × Nat) :=
  match boundOf q.tmin, slabs.mapM id with
  | some tmin, some ss =>
    let entries := ss.map fun x => x.map (·.1)
    let t := entries.foldl (fun a x => match x with | some e => a.max e | none => a) tmin
    let inside := ss.all (fun x => match x with | some e => t.le e.2 | none => true) &&
      (match boundOf q.tmax with | some hi => t.le hi | none => true)
    if !inside then none
    else
      let axis := (List.range 3).find? fun k => match entries.getD k none with | some e => e.le t && t.le e | none => false
      some (t, match axis with | some k => k + (if fx (dir.getD k 0) > 0 then 4 else 0) | none => 3)
  | _, _ => none

/-- A ray against a brick (R195): the occupied cell with the least T and then the least number. -/
def brickHit (q : Query) (w : List Nat) (dir : List Nat) : Option (Nat × Nat) :=
  let slabs := (List.range 3).map fun a => (List.range 8).map fun i => slab q w dir a i
  let at_ (a i : Nat) : Option (Option (Rat3 × Rat3)) := (slabs.getD a []).getD i none
  let best := (List.range 512).foldl (fun (acc : Option (Nat × Nat × Nat)) k =>
    if !bit (w.getD (16 + k / 32) 0) (k % 32) then acc
    else match cellHit q dir [at_ 0 (k % 8), at_ 1 (k / 8 % 8), at_ 2 (k / 64)] with
      | none => acc
      | some (t, bv) =>
        match acc with
        | none => some (hitBits t, k, bv)
        | some b => if hitBits t < b.1 then some (hitBits t, k, bv) else acc) none
  best.map fun b => (b.1 * 2 ^ 32 + (w.getD 1 0 + b.2.1) % 2 ^ 32, hitFields 2 (nodeMaterial w) b.2.1 b.2.2 false)

/-- A ray with a hit that may be nearer (R193, R197). -/
def Ray.take (r : Ray) : Option (Nat × Nat) → Ray
  | some (key, hit) => if key < r.key then { r with key, hit } else r
  | none => r

/-- A live ray tested against a leaf. -/
def leafTest (q : Query) (w : List Nat) (r : Ray) : Ray :=
  if nodeType w = 2 then (List.range (nodeTris w)).foldl (fun r s => r.take (triangleHit q w r.dir s)) r
  else r.take (brickHit q w r.dir)

/-! ### Conservative classification (R196) -/

def fMax (a b : FVal) : FVal := if cmpV a b = some .lt then b else a
def fMin (a b : FVal) : FVal := if cmpV b a = some .lt then b else a
def fLe (a b : FVal) : Bool := cmpV a b != some .gt
def fRound (rm : RMode) (v : FVal) : FVal := FFmt.f32.value (roundV .f32 rm false v).1

/-- The class of a box for a beam, with L of the test. -/
inductive BoxClass where
  | miss
  | enter (l : FVal)
  | mixed (l : FVal)

/-- The bounds enLo, enHi, exLo, exHi of an axis. -/
def axisBounds (o : Nat) (mn mx : Nat) (lo hi : FVal) : FVal × FVal × FVal × FVal :=
  let zero : FVal := .num false 0 1 0
  if fLe lo zero && fLe zero hi then (.inf true, .inf false, .inf true, .inf false)
  else
    let off (v : Nat) (rm : RMode) : FVal := fRound rm (exactAdd rm (FFmt.f32.value v) ((FFmt.f32.value o).flip true)).1
    let a := (off mn .rdn, off mn .rup)
    let b := (off mx .rdn, off mx .rup)
    let (e, x) := if fLe lo zero then (b, a) else (a, b)
    let quot (p d : FVal) (rm : RMode) : FVal := fRound rm (exactDiv p d).1
    let low (p : FVal × FVal) : FVal :=
      fMin (fMin (quot p.1 lo .rdn) (quot p.1 hi .rdn)) (fMin (quot p.2 lo .rdn) (quot p.2 hi .rdn))
    let high (p : FVal × FVal) : FVal :=
      fMax (fMax (quot p.1 lo .rup) (quot p.1 hi .rup)) (fMax (quot p.2 lo .rup) (quot p.2 hi .rup))
    (low e, high e, low x, high x)

/-- The binary32 value next above a distance; +infinity stays. -/
def nextAbove (t : Nat) : Nat := if t < 0x7F800000 then t + 1 else t

/-- P_r of R196. -/
def Ray.limit (q : Query) (r : Ray) : FVal := FFmt.f32.value (if r.isHit then nextAbove (r.key / 2 ^ 32) else q.tmax)

/-- R196: the class of the box [mn, mx] for a beam that holds a live ray. -/
def classify (q : Query) (rs : List Ray) (b : Beam) (mn mx : List Nat) : BoxClass :=
  let far := b.side - 1
  let corners := [q.dir b.i b.j, q.dir (b.i + far) b.j, q.dir b.i (b.j + far), q.dir (b.i + far) (b.j + far)]
  let bounds := (List.range 3).map fun k =>
    let ds := corners.map fun d => FFmt.f32.value (d.getD k 0)
    let first := ds.headD (.num false 0 1 0)
    axisBounds (q.o.getD k 0) (mn.getD k 0) (mx.getD k 0) (ds.foldl fMin first) (ds.foldl fMax first)
  let tmin := FFmt.f32.value q.tmin
  let limit := (liveIn rs b).foldl (fun a r => fMax a (r.limit q)) (.inf true)
  let tb := fMin (FFmt.f32.value q.tmax) limit
  let l := bounds.foldl (fun a x => fMax a x.1) tmin
  let u := bounds.foldl (fun a x => fMin a x.2.2.2) tb
  if !fLe l u then .miss
  else if fLe (bounds.foldl (fun a x => fMax a x.2.1) tmin) (bounds.foldl (fun a x => fMin a x.2.2.1) tb) then .enter l
  else .mixed l

/-- An order of the values L (R197). -/
def fLt (a b : FVal) : Bool := cmpV a b == some .lt

end Sys2Proof.Machine
end

