-- ==== Sys2Proof/Machine/FloatOps.lean ====
section
/-!
DEFINITION. The floating-point operations of chapter 05 as functions of bit patterns: results and flags,
without state. Elements of packed types are treated one by one (R129).
-/
namespace Sys2Proof.Machine

/-- A class F type code: the element format, its width, and how many elements a register holds (R39, R81). -/
def ftyFormat (ty : Nat) : FFmt :=
  match ty with
  | 0 => .f64 | 1 => .f32 | 2 => .f16 | 3 => .bf16 | 4 => .f32 | 5 => .f16 | _ => .bf16

/-- The number of elements of a class F type (R39). -/
def ftyCount (ty : Nat) : Nat :=
  match ty with
  | 4 => 2 | 5 => 4 | 6 => 4 | _ => 1

/-- Element e of width w of a register value (R81). -/
def element (w e n : Nat) : Nat := bits n (w * e) w

/-- The elements of a packed result, element 0 lowest (R81). -/
def packElements (w : Nat) : List Nat → Nat
  | [] => 0
  | x :: r => x % 2 ^ w + 2 ^ w * packElements w r

/-- Applies an operation to each element of a class F word and ORs the flags (R129). -/
def eachElement (ty : Nat) (op : FFmt → Nat → Nat × Flags) : Word × Flags :=
  let f := ftyFormat ty
  let rs := (List.range (ftyCount ty)).map (op f)
  (wordN (packElements f.width (rs.map (·.1))), rs.foldl (fun acc r => acc ||| r.2) 0)

/-- minimumNumber and minimum, maximumNumber and maximum (R132): the source's bits unchanged. -/
def minMax (f : FFmt) (isMax ieeeMin : Bool) (a b : Nat) : Nat × Flags :=
  let x := f.value a
  let y := f.value b
  let fl := nanFlags [x, y]
  let pickA := match cmpV x y with
    | some .lt => !isMax
    | some .gt => isMax
    | _ => if x.neg == y.neg then true else x.neg != isMax
  if x.isNan && y.isNan then (f.canonical, fl)
  else if x.isNan || y.isNan then (if ieeeMin then f.canonical else if x.isNan then b else a, fl)
  else (if pickA then a else b, fl)

/-- Sign manipulation (R133). -/
def fsgn (f : FFmt) (op a b : Nat) : Nat :=
  let s := f.ebits + f.fbits
  let sign := match op with
    | 0 => bit b s
    | 1 => !bit b s
    | _ => bit a s != bit b s
  f.signed sign (a % 2 ^ s)

/-- A comparison by the condition codes of R134: its truth and flags; `quiet` removes the NV of a quiet NaN. -/
def fcmp (f : FFmt) (code : Nat) (quiet : Bool) (a b : Nat) : Bool × Flags :=
  let x := f.value a
  let y := f.value b
  let o := cmpV x y
  let t := match code with
    | 0 => o == some .eq
    | 1 => o != some .eq
    | 2 => o == some .lt
    | 3 => o == some .gt || o == some .eq
    | 4 => o == some .lt || o == some .eq
    | 5 => o == some .gt
    | 6 => o == none
    | _ => o != none
  let signals := 2 ≤ code && code ≤ 5 && !quiet
  (t, Flags.when (x.isSig || y.isSig || (signals && o == none)) Flags.nv)

/-- The code of R134 of a condition of `s.fcmp` (R151). -/
def SFCond.laneCode : SFCond → Nat
  | .eq => 0 | .ne => 1 | .lt => 2 | .ge => 3 | .le => 4 | .gt => 5 | .unord => 6 | .ord => 7

/-- The class mask (R135). -/
def fclass (f : FFmt) (a : Nat) : Nat :=
  match f.value a with
  | .nan s => if s then 2 ^ 8 else 2 ^ 9
  | .inf n => if n then 1 else 2 ^ 7
  | .num n m _ _ =>
    let sub := bits a f.fbits f.ebits == 0
    if m = 0 then (if n then 2 ^ 3 else 2 ^ 4)
    else if sub then (if n then 2 ^ 2 else 2 ^ 5)
    else if n then 2 ^ 1 else 2 ^ 6

/-- Rounds to an integral value in the operand's own format (R141). -/
def fround (f : FFmt) (rm : RMode) (exact : Bool) (a : Nat) : Nat × Flags :=
  match f.value a with
  | .nan s => (f.canonical, Flags.when s Flags.nv)
  | .inf _ => (a % 2 ^ f.width, 0)
  | .num n m d e =>
    let (y, ix) := integral rm n m d e
    ((roundV f rm false (.num n y.natAbs 1 0)).1, Flags.when (ix && exact) Flags.nx)

/-- a × 2^n, rounded once (R142); |n| beyond 5000 gives what 5000 gives, past every format's range. -/
def fscale (f : FFmt) (rm : RMode) (a : Nat) (n : Int) : Nat × Flags :=
  match f.value a with
  | .nan s => (f.canonical, Flags.when s Flags.nv)
  | .inf _ => (a % 2 ^ f.width, 0)
  | .num s m d e => roundV f rm false (.num s m d (e + maxI (-5000) (minI 5000 n)))

/-- Conversion between floating formats (R139, R152): the source of a same-format conversion is kept. -/
def fcvt (dst src : FFmt) (rm : RMode) (a : Nat) : Nat × Flags :=
  let v := src.value a
  if v.isNan then (dst.canonical, nanFlags [v]) else roundV dst rm false v

/-- Integer to floating (R140, R152). -/
def fromInt (dst : FFmt) (rm : RMode) (x : Int) : Nat × Flags := roundV dst rm false (.ofInt x)

/-- Floating to an integer of width w (R83, R140, R152), in its register form. -/
def toInt (src : FFmt) (rm : RMode) (w : Nat) (signed : Bool) (a : Nat) : Word × Flags :=
  let lo : Int := if signed then -(2 ^ (w - 1) : Int) else 0
  let hi : Int := if signed then 2 ^ (w - 1) - 1 else 2 ^ w - 1
  let (y, fl) := toInteger rm lo hi (src.value a)
  (extend' w signed y, fl)
where
  /-- The register form of the integer (R81). -/
  extend' (w : Nat) (signed : Bool) (x : Int) : Word := if signed then word x else wordN (wrapN w x)

/-! ### Special functions (R137, R138) -/

/-- The special functions. -/
inductive Special where
  | frcp | frsq | fex2 | flg2 | fsin | fcos
deriving DecidableEq, Repr

/-- The argument that selects a function of `Config.special`. -/
def Special.code : Special → Nat
  | .frcp => 0 | .frsq => 1 | .fex2 => 2 | .flg2 => 3 | .fsin => 4 | .fcos => 5

/-- A number as a power of two, when it is one. -/
def powerOfTwo (m d : Nat) (e : Int) : Option Int :=
  let l := log2Q m d
  let (n, k) := scaleQ m d (-l)
  if m ≠ 0 ∧ n = k then some (l + e) else none

/-- An exact result when binary32 represents it. -/
def exactF32 (v : FVal) : Option (Nat × Flags) :=
  let (n, fl) := roundV .f32 .rne false v
  if fl = 0 then some (n, 0) else none

/-- The special and exact values of R138; none where only the bounds of R137 hold. -/
def specialExact (fn : Special) (v : FVal) : Option (Nat × Flags) :=
  let f := FFmt.f32
  match v with
  | .nan s => some (f.canonical, Flags.when s Flags.nv)
  | .inf n =>
    match fn with
    | .frcp => some (f.signed n 0, 0)
    | .frsq => some (if n then (f.canonical, Flags.nv) else (0, 0))
    | .fex2 => some (if n then (0, 0) else (f.infRaw, 0))
    | .flg2 => some (if n then (f.canonical, Flags.nv) else (f.infRaw, 0))
    | .fsin | .fcos => some (f.canonical, Flags.nv)
  | .num n m d e =>
    if m = 0 then
      match fn with
      | .frcp | .frsq => some (f.signed n f.infRaw, Flags.dz)
      | .fex2 | .fcos => some (0x3F800000, 0)
      | .flg2 => some (f.signed true f.infRaw, Flags.dz)
      | .fsin => some (f.signed n 0, 0)
    else
      match fn with
      | .frcp => (powerOfTwo m d e).bind fun k => exactF32 (.num n 1 1 (-k))
      | .frsq => if n then some (f.canonical, Flags.nv) else
          (powerOfTwo m d e).bind fun k => if k % 2 = 0 then exactF32 (.num false 1 1 (-(k / 2))) else none
      | .fex2 =>
        let (y, ix) := integral .rtz n m d (if e < 10 then e else 10)
        if n = false ∧ 128 ≤ y then some (f.infRaw, Flags.of ||| Flags.nx)
        else if ix then none
        else if y < -149 then none
        else exactF32 (.num false 1 1 y)
      | .flg2 => if n then some (f.canonical, Flags.nv) else
          (powerOfTwo m d e).map fun k => (roundV f .rne false (.ofInt k)).1 |> fun b => (b, 0)
      | .fsin | .fcos => none

/-- The flags of a special function's result that R138 does not list: NX, with UF when it is tiny and OF when it overflows. Tiny is said of the
delivered value (DESIGN CHOICE, log entry 100). -/
def specialFlags (r : Nat) : Flags :=
  match FFmt.f32.value r with
  | .inf _ => Flags.of ||| Flags.nx
  | .num _ _ _ _ => Flags.when (bits r 23 8 == 0) Flags.uf ||| Flags.nx
  | .nan _ => Flags.nx

end Sys2Proof.Machine
end

