-- ==== Sys2Proof/Machine/ScalarInt.lean ====
section
/-!
DEFINITION. The scalar integer words (chapter 04): majors 1 to 5 and 10 to 18.
-/
namespace Sys2Proof.Machine

/-- The sources that a scalar word computes from: values in the order a, b, old destination. -/
structure ScalarIn where
  a : Word
  b : Word
  d : Word
  pc : Word
  k : Nat → Bool

/-- A scalar word whose result goes to a register: named sources, the predicates read, and the result. Its mark is the OR of the
sources' marks (R88). -/
def scalarAlu (w : Bool) (guard d a b : Nat) (srcs : List Nat) (kreads : List Nat) (fn : ScalarIn → Word) (s : State) :
    Host.Outcome State Fault Refusal :=
  scalarWord { w, reads := srcs, writes := [d], consumes := srcs, kreads, guard } (fun x s =>
    let v : ScalarIn := ⟨(x.sreg s a).val, (x.sreg s b).val, (x.sreg s d).val, x.m.regs.spc, x.m.regs.pred⟩
    .done (x.setSreg s d ⟨fn v, srcs.any (fun i => (x.sreg s i).mark) || kreads.any x.m.regs.predMark⟩)) s

/-- Two sources (R94). -/
def scalar2 (f : SA) (fn : Word → Word → Word) : State → Host.Outcome State Fault Refusal :=
  scalarAlu f.w f.g.toNat f.d.toNat f.a.toNat f.b.toNat [f.a.toNat, f.b.toNat] [] fun v => fn v.a v.b

/-- One source (R96). -/
def scalar1 (f : SA) (fn : Word → Word) : State → Host.Outcome State Fault Refusal :=
  scalarAlu f.w f.g.toNat f.d.toNat f.a.toNat f.b.toNat [f.a.toNat] [] fun v => fn v.a

/-- Two sources and the old destination (R97, R98). -/
def scalar3 (f : SA) (fn : Word → Word → Word → Word) : State → Host.Outcome State Fault Refusal :=
  scalarAlu f.w f.g.toNat f.d.toNat f.a.toNat f.b.toNat [f.a.toNat, f.b.toNat, f.d.toNat] [] fun v => fn v.a v.b v.d

/-- A source and a sign-extended immediate (R99). -/
def scalarImm (f : SI) (fn : Word → Word → Word) : State → Host.Outcome State Fault Refusal :=
  scalarAlu f.w 0 f.d.toNat f.a.toNat 0 [f.a.toNat] [] fun v => fn v.a (f.i.signExtend 64)

/-- A source and an amount (R100). -/
def scalarShift (f : SSh) (fn : Nat → Nat → Nat) : State → Host.Outcome State Fault Refusal :=
  scalarAlu f.w 0 f.d.toNat f.a.toNat 0 [f.a.toNat] [] fun v => wordN (fn v.a.toNat f.amount.toNat)

/-- A scalar word whose result goes to a predicate, with the mark of its sources (R88, R92). -/
def scalarPred (w : Bool) (guard kd : Nat) (srcs kreads : List Nat) (fn : Ctx → State → Bool) (s : State) :
    Host.Outcome State Fault Refusal :=
  scalarWord { w, reads := srcs, consumes := srcs, kreads, kwrites := [kd], guard } (fun x s =>
    let mark := srcs.any (fun i => (x.sreg s i).mark) || kreads.any x.m.regs.predMark
    let v := fn x s
    .done (s.modTeam x.c x.t fun m => { m with regs := m.regs.setPred kd v mark })) s

/-- The divide words (R95): INT_DIVIDE, then the divider, which one divide holds at a time (R87). -/
def scalarDiv (f : SA) (signed rem : Bool) (s : State) : Host.Outcome State Fault Refusal :=
  let srcs := [f.a.toNat, f.b.toNat]
  scalarWord { w := f.w, reads := srcs, writes := [f.d.toNat], consumes := srcs, guard := f.g.toNat, long := [f.d.toNat] } (fun x s =>
    let a := x.sreg s f.a.toNat
    let b := x.sreg s f.b.toNat
    if b.val = 0 then .trap ⟨.intDivide, 0, 0⟩
    else if (s.core x.c).divider.isSome then .hold s .divider
    else
      let (q, r) := quotRem (srcInt 64 signed a.val.toNat) (srcInt 64 signed b.val.toNat)
      let (n, s) := s.longScalar x.c x.t [(f.d.toNat, ⟨word (if rem then r else q), a.mark || b.mark⟩)] [] false false
      .done (s.modCore x.c fun k => { k with divider := some (x.t, n, s.cycles + 34) })) s

/-- R94. -/
def execSAdd (f : SA) : State → Host.Outcome State Fault Refusal :=
  scalar2 f fun a b => a + b
/-- R94. -/
def execSSub (f : SA) : State → Host.Outcome State Fault Refusal :=
  scalar2 f fun a b => a - b
/-- R94. -/
def execSAnd (f : SA) : State → Host.Outcome State Fault Refusal :=
  scalar2 f fun a b => a &&& b
/-- R94. -/
def execSOr (f : SA) : State → Host.Outcome State Fault Refusal :=
  scalar2 f fun a b => a ||| b
/-- R94. -/
def execSXor (f : SA) : State → Host.Outcome State Fault Refusal :=
  scalar2 f fun a b => a ^^^ b
/-- R94. -/
def execSAndn (f : SA) : State → Host.Outcome State Fault Refusal :=
  scalar2 f fun a b => a &&& ~~~b
/-- R91, R94. -/
def execSShl (f : SA) : State → Host.Outcome State Fault Refusal :=
  scalar2 f fun a b => wordN (shlN 64 a.toNat b.toNat)
/-- R91, R94. -/
def execSShr (f : SA) : State → Host.Outcome State Fault Refusal :=
  scalar2 f fun a b => wordN (shrN 64 a.toNat b.toNat)
/-- R91, R94. -/
def execSSra (f : SA) : State → Host.Outcome State Fault Refusal :=
  scalar2 f fun a b => wordN (sraN 64 a.toNat b.toNat)
/-- R91, R94. -/
def execSRot (f : SA) : State → Host.Outcome State Fault Refusal :=
  scalar2 f fun a b => wordN (rotN a.toNat b.toNat)
/-- R94. -/
def execSMin (f : SA) : State → Host.Outcome State Fault Refusal :=
  scalar2 f fun a b => if b.toInt < a.toInt then b else a
/-- R94. -/
def execSMinN (f : SA) : State → Host.Outcome State Fault Refusal :=
  scalar2 f fun a b => if b.toNat < a.toNat then b else a
/-- R94. -/
def execSMax (f : SA) : State → Host.Outcome State Fault Refusal :=
  scalar2 f fun a b => if a.toInt < b.toInt then b else a
/-- R94. -/
def execSMaxN (f : SA) : State → Host.Outcome State Fault Refusal :=
  scalar2 f fun a b => if a.toNat < b.toNat then b else a
/-- R94. -/
def execSMul (f : SA) : State → Host.Outcome State Fault Refusal :=
  scalar2 f fun a b => a * b
/-- R94. -/
def execSMulh (f : SA) : State → Host.Outcome State Fault Refusal :=
  scalar2 f fun a b => word (a.toInt * b.toInt / 2 ^ 64)
/-- R94. -/
def execSMulhN (f : SA) : State → Host.Outcome State Fault Refusal :=
  scalar2 f fun a b => wordN (a.toNat * b.toNat / 2 ^ 64)
/-- R95. -/
def execSDiv (f : SA) : State → Host.Outcome State Fault Refusal :=
  scalarDiv f true false
/-- R95. -/
def execSDivN (f : SA) : State → Host.Outcome State Fault Refusal :=
  scalarDiv f false false
/-- R95. -/
def execSRem (f : SA) : State → Host.Outcome State Fault Refusal :=
  scalarDiv f true true
/-- R95. -/
def execSRemN (f : SA) : State → Host.Outcome State Fault Refusal :=
  scalarDiv f false true
/-- R96. -/
def execSClz (f : SA) : State → Host.Outcome State Fault Refusal :=
  scalar1 f fun a => wordN (clzN 64 a.toNat)
/-- R96. -/
def execSCtz (f : SA) : State → Host.Outcome State Fault Refusal :=
  scalar1 f fun a => wordN (ctzN 64 a.toNat)
/-- R96. -/
def execSPopc (f : SA) : State → Host.Outcome State Fault Refusal :=
  scalar1 f fun a => wordN (popN 64 a.toNat)
/-- R96. -/
def execSBrev (f : SA) : State → Host.Outcome State Fault Refusal :=
  scalar1 f fun a => wordN (revN 64 a.toNat)
/-- R97. -/
def execSBfx (f : SA) : State → Host.Outcome State Fault Refusal :=
  scalar2 f fun a c => word (bfxI 64 (c.getLsbD 16) a.toNat c.toNat)
/-- R97. -/
def execSBfi (f : SA) : State → Host.Outcome State Fault Refusal :=
  scalar3 f fun a c d => wordN (bfiN 64 a.toNat c.toNat d.toNat)
/-- R98. -/
def execSIleave (f : SA) : State → Host.Outcome State Fault Refusal :=
  scalar2 f fun a b => wordN (ileaveN 32 [a.toNat, b.toNat])
/-- R98. -/
def execSIleave3 (f : SA) : State → Host.Outcome State Fault Refusal :=
  scalar3 f fun a b c => wordN (ileaveN 21 [a.toNat, b.toNat, c.toNat])
/-- R98. -/
def execSDeleave (f : SA) : State → Host.Outcome State Fault Refusal :=
  scalar2 f fun a b => wordN (deleaveN 2 32 (a.toNat / 2 ^ (b.toNat % 2)))
/-- R98. -/
def execSDeleave3 (f : SA) : State → Host.Outcome State Fault Refusal :=
  scalar2 f fun a b => if b.toNat % 4 = 3 then 0 else wordN (deleaveN 3 21 (a.toNat / 2 ^ (b.toNat % 4)))
/-- R104: the selected value moves with its own mark. -/
def execSSel (neg : Bool) (p : BitVec 3) (f : SA) (s : State) : Host.Outcome State Fault Refusal :=
  scalarWord { w := f.w, reads := [f.a.toNat, f.b.toNat], writes := [f.d.toNat], kwrites := [p.toNat], guard := f.g.toNat } (fun x s =>
    .done (x.setSreg s f.d.toNat (if x.m.regs.pred p.toNat != neg then x.sreg s f.a.toNat else x.sreg s f.b.toNat))) s
/-- R102. -/
def execSCmp (c : Cond) (f : SA) : State → Host.Outcome State Fault Refusal :=
  scalarPred f.w f.g.toNat (f.d.toNat % 8) [f.a.toNat, f.b.toNat] [] fun x s =>
    condHolds c (x.sreg s f.a.toNat).val (x.sreg s f.b.toNat).val
/-- R105. -/
def execSKop (o : KOp) (f : SA) : State → Host.Outcome State Fault Refusal :=
  scalarPred f.w f.g.toNat (f.d.toNat % 8) [] (if o = .not then [f.a.toNat % 8] else [f.a.toNat % 8, f.b.toNat % 8]) fun x _ =>
    kopHolds o (x.m.regs.pred (f.a.toNat % 8)) (x.m.regs.pred (f.b.toNat % 8))
/-- R99. -/
def execSAddImm (f : SI) : State → Host.Outcome State Fault Refusal :=
  scalarImm f fun a b => a + b
/-- R99. -/
def execSAndImm (f : SI) : State → Host.Outcome State Fault Refusal :=
  scalarImm f fun a b => a &&& b
/-- R99. -/
def execSOrImm (f : SI) : State → Host.Outcome State Fault Refusal :=
  scalarImm f fun a b => a ||| b
/-- R99. -/
def execSXorImm (f : SI) : State → Host.Outcome State Fault Refusal :=
  scalarImm f fun a b => a ^^^ b
/-- R99. -/
def execSMulImm (f : SI) : State → Host.Outcome State Fault Refusal :=
  scalarImm f fun a b => a * b
/-- R100. -/
def execSShlImm (f : SSh) : State → Host.Outcome State Fault Refusal :=
  scalarShift f (shlN 64)
/-- R100. -/
def execSShrImm (f : SSh) : State → Host.Outcome State Fault Refusal :=
  scalarShift f (shrN 64)
/-- R100. -/
def execSSraImm (f : SSh) : State → Host.Outcome State Fault Refusal :=
  scalarShift f (sraN 64)
/-- R100. -/
def execSRotImm (f : SSh) : State → Host.Outcome State Fault Refusal :=
  scalarShift f (rotN)
/-- R103. -/
def execSCmpImm (c : Cond) (k : BitVec 3) (w : Bool) (a : BitVec 6) (i : BitVec 13) : State → Host.Outcome State Fault Refusal :=
  scalarPred w 0 k.toNat [a.toNat] [] fun x s => condHolds c (x.sreg s a.toNat).val (i.signExtend 64)
/-- R101. -/
def execSLui (f : SL) : State → Host.Outcome State Fault Refusal :=
  scalarAlu f.w 0 f.d.toNat 0 0 [] [] fun _ => word (sext 19 f.i.toNat * 2 ^ 13)
/-- R101. -/
def execSAddpc (f : SL) : State → Host.Outcome State Fault Refusal :=
  scalarAlu f.w 0 f.d.toNat 0 0 [] [] fun v => word (v.pc.toNat + 4 * sext 19 f.i.toNat)

end Sys2Proof.Machine
end

