-- ==== Sys2Proof/Machine/ScalarFp.lean ====
section
/-!
DEFINITION. The scalar floating-point words (R149 to R153), which round in the dynamic mode of FPCTL and raise flags or
FP_EXCEPTION (R122, R125).
-/
namespace Sys2Proof.Machine

/-- The dynamic mode (R120). -/
def dynMode (fpctl : Word) : RMode := RMode.ofCode (bits fpctl.toNat 0 3)

/-- The FP_EXCEPTION of a scalar word, if it would raise an enabled flag (R125). -/
def scalarFpTrap (m : Team) (fl : Flags) : Option Raise :=
  let hit := fl &&& BitVec.ofNat 5 (bits m.regs.fpctl.toNat 8 5)
  if hit = 0 then none else some ⟨.fpException, hit.setWidth 64, 0⟩

/-- A scalar floating-point word with a short result. -/
def scalarFp (f : SA) (srcs : List Nat) (fn : RMode → Word → Word → Word → Nat × Flags) (s : State) :
    Host.Outcome State Fault Refusal :=
  scalarWord { w := f.w, reads := srcs, writes := [f.d.toNat], consumes := srcs, guard := f.g.toNat } (fun x s =>
    let (v, fl) := fn (dynMode x.m.regs.fpctl) (x.sreg s f.a.toNat).val (x.sreg s f.b.toNat).val (x.sreg s f.d.toNat).val
    match scalarFpTrap x.m fl with
    | some r => .trap r
    | none => .done ((x.setSreg s f.d.toNat ⟨wordN v, srcs.any fun i => (x.sreg s i).mark⟩).addFlags x.c x.t fl)) s

/-- A trap enable of FPCTL is set. -/
def fpEnabled (fpctl : Word) : Bool := bits fpctl.toNat 8 5 != 0

/-- A scalar floating-point word on the divider, with a long result (R87, R119). With a trap enable set the word holds the stream until its
result is formed (R126): the result is then ready, and the divider free again, when the stream goes on. -/
def scalarFpLong (f : SA) (srcs : List Nat) (fn : RMode → Word → Word → Nat × Flags) (s : State) :
    Host.Outcome State Fault Refusal :=
  scalarWord { w := f.w, reads := srcs, writes := [f.d.toNat], consumes := srcs, guard := f.g.toNat, long := [f.d.toNat] } (fun x s =>
    let (v, fl) := fn (dynMode x.m.regs.fpctl) (x.sreg s f.a.toNat).val (x.sreg s f.b.toNat).val
    match scalarFpTrap x.m fl with
    | some r => .trap r
    | none =>
      if (s.core x.c).divider.isSome then .hold s .divider
      else
        let held := fpEnabled x.m.regs.fpctl
        let (n, s) := s.longScalar x.c x.t [(f.d.toNat, ⟨wordN v, srcs.any fun i => (x.sreg s i).mark⟩)] [] held false
        let s := if held then s else s.modCore x.c fun k => { k with divider := some (x.t, n, s.cycles + 30) }
        .done (s.addFlags x.c x.t fl)) s

/-- The value of an f64 register. -/
def d64 (a : Word) : FVal := FFmt.f64.value a.toNat

/-- R149. -/
def execSFopAdd (f : SA) : State → Host.Outcome State Fault Refusal :=
  scalarFp f [f.a.toNat, f.b.toNat] fun rm a b _ => roundR .f64 rm (exactAdd rm (d64 a) (d64 b))
/-- R149. -/
def execSFopSub (f : SA) : State → Host.Outcome State Fault Refusal :=
  scalarFp f [f.a.toNat, f.b.toNat] fun rm a b _ => roundR .f64 rm (exactAdd rm (d64 a) ((d64 b).flip true))
/-- R149. -/
def execSFopMul (f : SA) : State → Host.Outcome State Fault Refusal :=
  scalarFp f [f.a.toNat, f.b.toNat] fun rm a b _ => roundR .f64 rm (exactMul (d64 a) (d64 b))
/-- R149. -/
def execSFopDiv (f : SA) : State → Host.Outcome State Fault Refusal :=
  scalarFpLong f [f.a.toNat, f.b.toNat] fun rm a b => roundR .f64 rm (exactDiv (d64 a) (d64 b))
/-- R149. -/
def execSFopSqrt (f : SA) : State → Host.Outcome State Fault Refusal :=
  scalarFpLong f [f.a.toNat] fun rm a _ => roundR .f64 rm (exactSqrt (d64 a))
/-- R149. -/
def execSFopMin (f : SA) : State → Host.Outcome State Fault Refusal :=
  scalarFp f [f.a.toNat, f.b.toNat] fun _ a b _ => minMax .f64 false false a.toNat b.toNat
/-- R149. -/
def execSFopMax (f : SA) : State → Host.Outcome State Fault Refusal :=
  scalarFp f [f.a.toNat, f.b.toNat] fun _ a b _ => minMax .f64 true false a.toNat b.toNat
/-- R149. -/
def execSFopAbs (f : SA) : State → Host.Outcome State Fault Refusal :=
  scalarFp f [f.a.toNat] fun _ a _ _ => (a.toNat % 2 ^ 63, 0)
/-- R149. -/
def execSFopNeg (f : SA) : State → Host.Outcome State Fault Refusal :=
  scalarFp f [f.a.toNat] fun _ a _ _ => ((a ^^^ 0x8000000000000000).toNat, 0)
/-- R150. -/
def execSFfma (v : FmaVar) (f : SA) : State → Host.Outcome State Fault Refusal :=
  scalarFp f [f.a.toNat, f.b.toNat, f.d.toNat] fun rm a b c =>
    roundR .f64 rm (exactFma rm (v = .neg || v = .negsub) (v = .sub || v = .negsub) (d64 a) (d64 b) (d64 c))
/-- R151. -/
def execSFcmp (c : SFCond) (f : SA) (s : State) : Host.Outcome State Fault Refusal :=
  let srcs := [f.a.toNat, f.b.toNat]
  scalarWord { w := f.w, reads := srcs, consumes := srcs, kwrites := [f.d.toNat % 8], guard := f.g.toNat } (fun x s =>
    let (v, fl) := fcmp .f64 (SFCond.laneCode c) false (x.sreg s f.a.toNat).val.toNat (x.sreg s f.b.toNat).val.toNat
    match scalarFpTrap x.m fl with
    | some r => .trap r
    | none =>
      let mark := srcs.any fun i => (x.sreg s i).mark
      .done ((s.modTeam x.c x.t fun m => { m with regs := m.regs.setPred (f.d.toNat % 8) v mark }).addFlags x.c x.t fl)) s
/-- R152. -/
def execSFcvt (c : SCvt) (f : SA) : State → Host.Outcome State Fault Refusal :=
  scalarFp f [f.a.toNat] fun rm a _ _ =>
    match c with
    | .f64i64 => fromInt .f64 rm a.toInt
    | .f64n64 => fromInt .f64 rm a.toNat
    | .i64f64 => let r := toInt .f64 rm 64 true a.toNat; (r.1.toNat, r.2)
    | .n64f64 => let r := toInt .f64 rm 64 false a.toNat; (r.1.toNat, r.2)
    | .f32f64 => fcvt .f32 .f64 rm a.toNat
    | .f64f32 => fcvt .f64 .f32 rm (a.toNat % 2 ^ 32)
    | .bf16f64 => fcvt .bf16 .f64 rm a.toNat
    | .f64bf16 => fcvt .f64 .bf16 rm (a.toNat % 2 ^ 16)

end Sys2Proof.Machine
end

