-- ==== Sys2Proof/Machine/Special.lean ====
section
/-!
DEFINITION. The special functions (R137, R138). Where R138 states a value it is that value; elsewhere the result
is the free value Config.special as long as it meets the bound of R137, which a fixed-point evaluation of the
function checks (DESIGN CHOICE, log entry 4).
-/
namespace Sys2Proof.Machine

/-- 2π × 2^320, floored. -/
def twoPi : Nat := 0x6487ed5110b4611a62633145c06e0e68948127044533e63a0105df531d89cd9128a5043cc71a026ef
/-- ln 2 × 2^128, floored. -/
def ln2 : Nat := 0xb17217f7d1cf79abc9e3b39803f2f6af

/-- 2^f × 2^128 for f = x / 2^128 in [0, 1): the exponential series. -/
def exp2Frac (x : Nat) : Nat :=
  let t := x * ln2 / 2 ^ 128
  ((List.range 40).foldl (fun (acc : Nat × Nat) k =>
    (acc.1 + acc.2, acc.2 * t / 2 ^ 128 / (k + 1))) (0, 2 ^ 128)).1

/-- log2 of x / 2^256 in [1, 2), × 2^100: squaring digit by digit. -/
def log2Frac (x : Nat) : Nat :=
  ((List.range 100).foldl (fun (acc : Nat × Nat) _ =>
    let y := acc.2 * acc.2 / 2 ^ 256
    if 2 ^ 257 ≤ y then (2 * acc.1 + 1, y / 2) else (2 * acc.1, y)) (0, x)).1

/-- sin or cos of r / 2^320 in [0, 2π), × 2^320: the alternating series. -/
def trigSeries (cos : Bool) (r : Nat) : Int :=
  ((List.range 40).foldl (fun (acc : Int × Nat) k =>
    let n := if cos then 2 * k else 2 * k + 1
    (if k % 2 = 0 then acc.1 + acc.2 else acc.1 - acc.2,
     acc.2 * r / 2 ^ 320 * r / 2 ^ 320 / ((n + 1) * (n + 2)))) (0, if cos then 2 ^ 320 else r)).1

/-- The function's value, as (numerator, power of two), to far more places than the bounds of R137 need; only
for sources that R138 does not settle. -/
def specialRef (fn : Special) (neg : Bool) (m d : Nat) (e : Int) : Int × Int :=
  let sgn (x : Nat) : Int := if neg then -(x : Int) else x
  match fn with
  | .frcp => (sgn (d * 2 ^ 200 / m), -200 - e)
  | .frsq =>
    let odd := e % 2 != 0
    let m' := if odd then 2 * m else m
    let h := (if odd then e - 1 else e) / 2
    ((isqrt (2 ^ 400 / m') : Nat), -200 - h)
  | .fex2 =>
    let (n, k) := scaleQ m d (e + 128)
    let x : Int := sgn (n / k)
    let f := (x % 2 ^ 128).toNat
    ((exp2Frac f : Nat), (x - f) / 2 ^ 128 - 128)
  | .flg2 =>
    let l := log2Q m d
    let (n, k) := scaleQ m d (256 - l)
    ((l + e) * 2 ^ 100 + log2Frac (n / k), -100)
  | .fsin | .fcos =>
    let (n, k) := scaleQ m d (e + 320)
    let r := n / k % twoPi
    let y := trigSeries (fn == .fcos) r
    (if neg && fn == .fsin then -y else y, -320)

/-- |a × 2^p − b × 2^q| ≤ c × 2^r. -/
def withinQ (a : Int) (p : Int) (b : Int) (q : Int) (c : Nat) (r : Int) : Bool :=
  let lo := minI p (minI q r)
  (a * 2 ^ (p - lo).toNat - b * 2 ^ (q - lo).toNat).natAbs ≤ c * 2 ^ (r - lo).toNat

/-- Whether a result meets the bound of R137: by 2^-70 of the bound's unit at least, for the evaluation is not exact. -/
def specialWithin (fn : Special) (neg : Bool) (m d : Nat) (e : Int) (result : Nat) : Bool :=
  let (y, p) := specialRef fn neg m d e
  let ulps (n : Nat) : Nat × Int :=
    let ex := (Nat.log2 y.natAbs : Int) + p
    (n * 2 ^ 70 - 1, (if ex < -126 then -126 else ex) - 23 - 70)
  let half := cmpV (.num false m d e) (.num false 1 2 0)
  let two := cmpV (.num false m d e) (.num false 2 1 0)
  let (c, r) := match fn with
    | .frcp => ulps 1
    | .frsq | .fex2 => ulps 2
    | .flg2 => if half != some .lt && two != some .gt then (2 ^ 70 - 1, -92) else ulps 2
    | .fsin | .fcos => (2 ^ 70 - 1, -91)
  match FFmt.f32.value result with
  | .num n m' _ e' => withinQ (if n then -(m' : Int) else m') e' y p c r
  | _ => false

/-- The fixed result of a special function and its flags (R137, R138): the same for the same source bits. -/
def specialBits (fn : Special) (a : Nat) : Nat × Flags :=
  match specialExact fn (FFmt.f32.value a) with
  | some r => r
  | none =>
    match FFmt.f32.value a with
    | .num neg m d e =>
      let (y, p) := specialRef fn neg m d e
      let (near, fl) := roundV .f32 .rne false (.num (y < 0) y.natAbs 1 p)
      if fl &&& Flags.of != 0 then (near, Flags.of ||| Flags.nx)
      else
        let r := (Config.special fn.code (BitVec.ofNat 32 a)).toNat
        let r := if specialWithin fn neg m d e r then r else near
        (r, specialFlags r)
    | _ => (FFmt.f32.canonical, 0)

end Sys2Proof.Machine
end

