-- ==== Sys2Proof/Machine/LaneFp.lean ====
section
/-!
DEFINITION. The lane floating-point words (R128 to R142): each element on its own, flags ORed over elements and lanes (R129).
-/
namespace Sys2Proof.Machine

/-- The rounding mode of a lane word: its rm field, or the running block's copy of FPCTL (R40, R122). -/
def LaneCtx.rm (x : LaneCtx) : RMode :=
  if x.f.rm = 7 then dynMode (x.m.blockOf x.p).fpctl else RMode.ofCode x.f.rm.toNat

/-- A source's bits. -/
def LaneCtx.bitsOf (x : LaneCtx) (y : Src) (l : Nat) : Nat := (x.src y l).val.toNat

/-- What a lane of a floating-point word computes: an operation on each element of the sources (R129), marked when a source is
(R127). -/
def fpOut (x : LaneCtx) (srcs : List Src) (op : FFmt → RMode → Nat → Nat → Nat → Nat × Flags) (l : Nat) : LaneOut :=
  let ty := x.f.ty.toNat
  let n := ftyCount ty
  let f := ftyFormat ty
  let at_ (y : Src) (e : Nat) : Nat := if srcs.contains y then element f.width e (x.bitsOf y l) else 0
  let rs := (List.range n).map fun e => op f x.rm (at_ .a e) (at_ .b e) (at_ .c e)
  { d := some ⟨wordN (packElements f.width (rs.map (·.1))), srcs.any fun y => (x.src y l).mark⟩
    flags := rs.foldl (fun a r => a ||| r.2) 0 }

/-- The fields of a class F word with these sources. -/
def fpUse (srcs : List Src) (tys : Nat) (rm x : Bool) (imm : Nat) : LaneUse :=
  { tys, vd := .op, a := .op, b := if srcs.contains .b then .op else .bits 0, c := if srcs.contains .c then .op else .bits 0,
    rm, x, imm }

/-- A lane floating-point word with a short result. -/
def laneFp (f : Lane) (u : LaneUse) (srcs : List Src) (op : FFmt → RMode → Nat → Nat → Nat → Nat × Flags) :
    State → Host.Outcome State Fault Refusal :=
  laneAlu f u { eat := srcs } fun x _ l => fpOut x srcs op l

/-- A lane floating-point word with a long result (R119). -/
def laneFpLong (f : Lane) (u : LaneUse) (srcs : List Src) (op : FFmt → RMode → Nat → Nat → Nat → Nat × Flags) :
    State → Host.Outcome State Fault Refusal :=
  laneLong f u { eat := srcs } fun x _ l => fpOut x srcs op l

/-- R130. -/
def execVFadd (f : Lane) : State → Host.Outcome State Fault Refusal :=
  laneFp f (fpUse [.a, .b] 0x7F true false 0) [.a, .b] fun t rm a b _ => roundR t rm (exactAdd rm (t.value a) (t.value b))
/-- R130. -/
def execVFsub (f : Lane) : State → Host.Outcome State Fault Refusal :=
  laneFp f (fpUse [.a, .b] 0x7F true false 0) [.a, .b] fun t rm a b _ =>
    roundR t rm (exactAdd rm (t.value a) ((t.value b).flip true))
/-- R130. -/
def execVFmul (f : Lane) : State → Host.Outcome State Fault Refusal :=
  laneFp f (fpUse [.a, .b] 0x7F true false 0) [.a, .b] fun t rm a b _ => roundR t rm (exactMul (t.value a) (t.value b))
/-- R131. -/
def execVFfma (f : Lane) : State → Host.Outcome State Fault Refusal :=
  laneFp f (fpUse [.a, .b, .c] 0x7F true false 3) [.a, .b, .c] fun t rm a b c =>
    roundR t rm (exactFma rm (f.imm.getLsbD 1) (f.imm.getLsbD 0) (t.value a) (t.value b) (t.value c))
/-- R132. -/
def execVFmin (f : Lane) : State → Host.Outcome State Fault Refusal :=
  laneFp f (fpUse [.a, .b] 0x7F false true 0) [.a, .b] fun t _ a b _ => minMax t false f.x a b
/-- R132. -/
def execVFmax (f : Lane) : State → Host.Outcome State Fault Refusal :=
  laneFp f (fpUse [.a, .b] 0x7F false true 0) [.a, .b] fun t _ a b _ => minMax t true f.x a b
/-- R133. -/
def execVFsgn (f : Lane) : State → Host.Outcome State Fault Refusal :=
  laneFp f (fpUse [.a, .b] 0x7F false false 3) [.a, .b] fun t _ a b _ => (fsgn t (f.imm.toNat % 4) a b, 0)
/-- R134. -/
def execVFcmp (f : Lane) : State → Host.Outcome State Fault Refusal :=
  laneAlu f { tys := 0xF, vd := .bits 3, a := .op, b := .op, pd := true, x := true } { eat := [.a, .b] } fun x _ l =>
    let t := ftyFormat f.ty.toNat
    let (v, fl) := fcmp t (f.vd.toNat % 8) f.x (element t.width 0 (x.bitsOf .a l)) (element t.width 0 (x.bitsOf .b l))
    { p := some (v, (x.src .a l).mark || (x.src .b l).mark), flags := fl }
/-- R135: the mask in n64; with pd, a class test. -/
def execVFclass (f : Lane) : State → Host.Outcome State Fault Refusal :=
  laneAlu f { tys := 0xF, vd := .op, a := .op, pd := true, imm := if f.pd = 0 then 0 else 0x3FF } { eat := [.a] } fun x _ l =>
    let t := ftyFormat f.ty.toNat
    let a := x.src .a l
    let k := fclass t (element t.width 0 a.val.toNat)
    { d := some ⟨wordN k, a.mark⟩, p := if f.pd = 0 then none else some (k &&& f.imm.toNat % 1024 != 0, a.mark) }
/-- R136. -/
def execVFdiv (f : Lane) : State → Host.Outcome State Fault Refusal :=
  laneFpLong f (fpUse [.a, .b] 0xF true false 0) [.a, .b] fun t rm a b _ => roundR t rm (exactDiv (t.value a) (t.value b))
/-- R136. -/
def execVFsqrt (f : Lane) : State → Host.Outcome State Fault Refusal :=
  laneFpLong f (fpUse [.a] 0xF true false 0) [.a] fun t rm a _ _ => roundR t rm (exactSqrt (t.value a))
/-- R137, R138. -/
def execVFrcp (f : Lane) : State → Host.Outcome State Fault Refusal :=
  laneFpLong f (fpUse [.a] 2 false false 0) [.a] fun _ _ a _ _ => specialBits .frcp a
/-- R137, R138. -/
def execVFrsq (f : Lane) : State → Host.Outcome State Fault Refusal :=
  laneFpLong f (fpUse [.a] 2 false false 0) [.a] fun _ _ a _ _ => specialBits .frsq a
/-- R137, R138. -/
def execVFex2 (f : Lane) : State → Host.Outcome State Fault Refusal :=
  laneFpLong f (fpUse [.a] 2 false false 0) [.a] fun _ _ a _ _ => specialBits .fex2 a
/-- R137, R138. -/
def execVFlg2 (f : Lane) : State → Host.Outcome State Fault Refusal :=
  laneFpLong f (fpUse [.a] 2 false false 0) [.a] fun _ _ a _ _ => specialBits .flg2 a
/-- R137, R138. -/
def execVFsin (f : Lane) : State → Host.Outcome State Fault Refusal :=
  laneFpLong f (fpUse [.a] 2 false false 0) [.a] fun _ _ a _ _ => specialBits .fsin a
/-- R137, R138. -/
def execVFcos (f : Lane) : State → Host.Outcome State Fault Refusal :=
  laneFpLong f (fpUse [.a] 2 false false 0) [.a] fun _ _ a _ _ => specialBits .fcos a

/-- The bits of a format in a register. -/
def lowBits (t : FFmt) (n : Nat) : Nat := n % 2 ^ t.width

/-- R139. -/
def execVFcvt (f : Lane) : State → Host.Outcome State Fault Refusal :=
  laneAlu f (fpUse [.a] 0xF true false 3) { eat := [.a] } fun x _ l =>
    let t := ftyFormat (f.imm.toNat % 4)
    let a := x.src .a l
    let (v, fl) := fcvt (ftyFormat f.ty.toNat) t x.rm (lowBits t a.val.toNat)
    { d := some ⟨wordN v, a.mark⟩, flags := fl }
/-- R140: the direction is imm33 [3]. -/
def execVIcvt (f : Lane) : State → Host.Outcome State Fault Refusal :=
  laneAlu f (fpUse [.a] 0xF true false 0xF) { eat := [.a] } fun x _ l =>
    let t := ftyFormat f.ty.toNat
    let i := f.imm.toNat % 8
    let a := x.src .a l
    let (v, fl) := if f.imm.getLsbD 3 then toInt t x.rm (ityWidth i) (itySigned i) (lowBits t a.val.toNat)
      else let r := fromInt t x.rm (srcInt (ityWidth i) (itySigned i) a.val.toNat); (wordN r.1, r.2)
    { d := some ⟨v, a.mark⟩, flags := fl }
/-- R141. -/
def execVFround (f : Lane) : State → Host.Outcome State Fault Refusal :=
  laneFp f (fpUse [.a] 0xF true true 0) [.a] fun t rm a _ _ => fround t rm f.x a
/-- R142: the exponent is vb as i64, or imm33 with x. -/
def execVFscale (f : Lane) : State → Host.Outcome State Fault Refusal :=
  laneAlu f { fpUse (if f.x then [.a] else [.a, .b]) 0xF true true 0 with imm := if f.x then immAll else 0 }
    { eat := if f.x then [.a] else [.a, .b] } fun x _ l =>
    let t := ftyFormat f.ty.toNat
    let a := x.src .a l
    let n := srcB x l
    let (v, fl) := fscale t x.rm (lowBits t a.val.toNat) n.val.toInt
    { d := some ⟨wordN v, a.mark || n.mark⟩, flags := fl }

end Sys2Proof.Machine
end

