-- ==== Sys2Proof/Machine/Narrow.lean ====
section
/-!
DEFINITION. The narrow formats: MX elements and scales (R68 to R71), NQ4 (R72, R73), their decoding (R144, R145)
and quantisation (R146, R147), as functions of bit patterns.
-/
namespace Sys2Proof.Machine

/-- The NQ4 codebook numerators, over 1024 (R72). -/
def nq4Numerator (index : Nat) : Nat :=
  match index with
  | 0 => 43 | 1 => 130 | 2 => 221 | 3 => 318 | 4 => 427 | 5 => 555 | 6 => 725 | _ => 1024

/-- The element formats of R143 by code; none for INT8 and NQ4. -/
def narrowFormat (fmt : Nat) : Option FFmt :=
  match fmt with
  | 0 | 2 => some .e4m3 | 1 | 3 => some .e5m2 | 4 => some .e3m2 | 5 => some .e2m3 | 6 => some .e2m1 | _ => none

/-- The width of an element of R143. -/
def narrowWidth (fmt : Nat) : Nat :=
  match fmt with
  | 4 | 5 => 6 | 6 | 8 => 4 | _ => 8

/-- The value of an E8M0 scale (R69). -/
def e8m0 (x : Nat) : FVal := if x % 256 = 255 then .nan false else .num false 1 1 ((x % 256 : Nat) - 127)

/-- The value of an element code without its scale (R60, R68). -/
def elementValue (fmt code : Nat) : FVal :=
  match narrowFormat fmt with
  | some f => f.value code
  | none => let k := sext 8 code; .num (k < 0) k.natAbs 1 (-6)

/-- The value of an MX element times its scale (R69); a NaN scale gives NaN whatever the code. -/
def mxValue (fmt code scale : Nat) : FVal :=
  let x := e8m0 scale
  if x.isNan then .nan false else (exactMul (elementValue fmt code) x).1

/-- The NQ4 block factor f (R73), formed from the super-scale's bits and the block scale. -/
def nq4Factor (s m : Nat) : FVal :=
  let v := FFmt.f32.value s
  if v.isNan then .nan false
  else if m % 256 = 0 then .num false 0 1 0
  else roundF32 (exactDiv (exactMul v (.ofInt (m % 256 : Nat))).1 (.ofInt 255)).1

/-- The value of an NQ4 code under a factor (R73). -/
def nq4Value (f : FVal) (code : Nat) : FVal :=
  (exactMul f (.num (bit code 3) (nq4Numerator (bits code 0 3)) 1 (-10))).1

/-- `v.qdec` (R144): `sm` selects the super-scale and block-scale form. Forming the factor raises no flag (R73), also with a signalling NaN as
super-scale (DESIGN CHOICE, log entry 101). -/
def qdec (dst : FFmt) (rm : RMode) (sm : Bool) (a b c idx : Nat) : Nat × Flags :=
  let code := bits a (4 * idx) 4
  let zeroBlock := sm && !(FFmt.f32.value b).isNan && c % 256 == 0
  let f := if sm then nq4Factor b c else FFmt.f32.value b
  if f.isNan then (dst.canonical, Flags.when (!sm && f.isSig) Flags.nv)
  else roundV dst rm false (nq4Value f (if zeroBlock then 0 else code))

/-- `v.mxdec` (R145). -/
def mxdec (dst : FFmt) (rm : RMode) (fmt a b idx : Nat) : Nat × Flags :=
  let w := narrowWidth fmt
  let code := bits a (w * idx) w
  roundV dst rm false (if fmt < 2 then elementValue fmt code else mxValue fmt code b)

/-- The index whose codebook magnitude is nearest |q|, ties to the lower (R146): scans 1 to 7. -/
def nq4Index (q : FVal) : Nat :=
  let mag := q.flip q.neg
  (List.range 8).foldl (fun best j =>
    -- M[j] is nearer than M[best] when |q| is above their midpoint
    let mid := FVal.num false (nq4Numerator best + nq4Numerator j) 2 (-10)
    if j ≠ 0 ∧ cmpV mag mid = some .gt then j else best) 0

/-- The quantised element of `v.pack`, its flags, and whether pd is set (R146, the table of cases). -/
def packElement (src : FFmt) (fmt : Nat) (sat x : Bool) (a b c : Nat) : Nat × Flags × Bool :=
  let v := src.value a
  let scale := e8m0 b
  let isMx := 2 ≤ fmt && fmt ≤ 7
  if v.isNan then
    match narrowFormat fmt with
    | some f => if f.specials == .none then (0, Flags.nv, true) else (f.canonical, Flags.when v.isSig Flags.nv, true)
    | none => (0, Flags.nv, true)
  else if isMx && scale.isNan then (((narrowFormat fmt).map FFmt.canonical).getD 0, 0, false)
  else if fmt = 8 then
    let f := if x then nq4Factor b c else FFmt.f32.value b
    if f.isNan || f.isInf || f.isZero then (0, Flags.nv, false)
    else
      let q := (exactDiv v f).1
      let overs := cmpV (q.flip q.neg) (.ofInt 1) == some .gt
      let j := if overs then 7 else nq4Index q
      let same := cmpV (q.flip q.neg) (.num false (nq4Numerator j) 1 (-10)) == some .eq
      ((if q.neg then 8 else 0) + j,
       if overs then Flags.of ||| Flags.nx else Flags.when (!same) Flags.nx, false)
  else
    let q := if isMx then (exactDiv v scale).1 else v
    match narrowFormat fmt with
    | some f => let (n, fl) := roundV f .rne sat q; (n, fl, false)
    | none =>
      match q with
      | .num n m d e =>
        let (k, ix) := integral .rne n m d (e + 6)
        if k < -127 || 127 < k then (wrapN 8 (if k < 0 then -127 else 127), Flags.of ||| Flags.nx, false)
        else (wrapN 8 k, Flags.when ix Flags.nx, false)
      | q => (wrapN 8 (if q.neg then -127 else 127), Flags.of ||| Flags.nx, false)

/-- Replaces element idx of a register (R146). -/
def insertElement (fmt idx old code : Nat) : Nat :=
  let w := narrowWidth fmt
  let p := w * idx
  old % 2 ^ p + code % 2 ^ w * 2 ^ p + old / 2 ^ (p + w) * 2 ^ (p + w)

/-- emax of an MX element format (R147). -/
def emaxOf (fmt : Nat) : Int :=
  match fmt with
  | 2 => 8 | 3 => 15 | 4 => 4 | 5 | 6 => 2 | _ => 0

/-- The shared scale for a largest magnitude (R147). -/
def packScale (src : FFmt) (fmt a : Nat) : Nat :=
  match src.value a with
  | .nan _ | .inf _ => 0xFF
  | .num _ m d e =>
    if m = 0 then 0 else (maxI 0 (minI 254 (log2Q m d + e - emaxOf fmt + 127))).toNat

end Sys2Proof.Machine
end

