-- ==== Sys2Proof/Machine/MatrixUnit.lean ====
section
/-!
DEFINITION. The matrix unit: accumulator elements (R154), operand tiles (R158 to R162), the summation rule and its marks (R163 to
R165), the rows a region logs (R180).
-/
namespace Sys2Proof.Machine

/-! ### Accumulator elements (R154) -/

/-- Element col of row, FP64 or FP32, with its mark. -/
def Core.accGet (k : Core) (wide : Bool) (row col : Nat) : Nat × Bool :=
  if wide then
    ((k.acc.get 0 (row * 32 + col)).toNat,
     k.accMarks.get false (row * 64 + 2 * col) || k.accMarks.get false (row * 64 + 2 * col + 1))
  else (bits (k.acc.get 0 (row * 32 + col / 2)).toNat (32 * (col % 2)) 32, k.accMarks.get false (row * 64 + col))

/-- Writes an element and its mark. -/
def Core.accSet (k : Core) (wide : Bool) (row col v : Nat) (mark : Bool) : Core :=
  if wide then
    { k with acc := k.acc.set 0 (row * 32 + col) (wordN v)
             accMarks := (k.accMarks.set false (row * 64 + 2 * col) mark).set false (row * 64 + 2 * col + 1) mark }
  else
    let old := (k.acc.get 0 (row * 32 + col / 2)).toNat
    let new := if col % 2 = 0 then old / 2 ^ 32 * 2 ^ 32 + v % 2 ^ 32 else v % 2 ^ 32 * 2 ^ 32 + old % 2 ^ 32
    { k with acc := k.acc.set 0 (row * 32 + col / 2) (wordN new)
             accMarks := k.accMarks.set false (row * 64 + col) mark }

/-- Clears a row (R177). -/
def Core.accClear (k : Core) (row : Nat) : Core :=
  { k with acc := (List.range 32).foldl (fun a i => a.set 0 (row * 32 + i) 0) k.acc
           accMarks := (List.range 64).foldl (fun a i => a.set false (row * 64 + i) false) k.accMarks }

/-- The accumulator format (R159). -/
def accFormat (wide : Bool) : FFmt := if wide then .f64 else .f32

/-! ### Rows that a region logs (R180) -/

/-- The rows that a region would come to hold in its log. -/
def Region.rowsWith (g : Region) (rows : List Nat) : List Nat := sortNats (g.accLog.map (·.row) ++ rows)

/-- Writing rows would need a 129th log row (R180, R420). The rows of a command are counted when it is issued, with those of the commands
queued before it (DEDUCED, log entry 17); the word that an overflow held is let through (log entry 13). -/
def rowsOverflow (m : Team) (rows : List Nat) : Bool :=
  match m.region with
  | some g => !g.passes && decide (128 < (g.rowsWith rows).length)
  | none => false

/-- Logs the rows not yet logged, before they are written. -/
def State.logRows (s : State) (c t : Nat) (rows : List Nat) : State :=
  match (s.team c t).bind (·.region) with
  | none => s
  | some g =>
    let new := (sortNats rows).filter fun r => !g.accLog.any fun e => e.row == r
    s.modTeam c t fun m => { m with region := some { g with
      accLog := g.accLog ++ new.flatMap fun r => windowRows (s.core c) r (r + 1), movable := false } }

/-- A matrix group word, `v.ldacc` or `v.stacc` takes MOVABLE from the region (R181). -/
def State.clearMovable (s : State) (c t : Nat) : State :=
  s.modTeam c t fun m => { m with region := m.region.map fun g => { g with movable := false, passes := false } }

/-! ### Formats and shapes (R158 to R160) -/

/-- The format block's fields. -/
def fbA (d : List Word) : Nat := field d 0 0 4
def fbB (d : List Word) : Nat := field d 0 4 4
def fbRm (d : List Word) : Nat := field d 0 8 3
def fbPitch (d : List Word) (isB : Bool) : Nat := field d 4 (if isB then 16 else 0) 16
def fbScale (d : List Word) (isB : Bool) : Nat := field d (if isB then 0xC else 8) 0 32

/-- Whether a code is an MX format. -/
def isMxCode (f : Nat) : Bool := 5 ≤ f && f ≤ 10

/-- The step that a pair of formats selects (R159): rows m = n, k, G, FP64 accumulator. -/
structure Shape where
  rows : Nat
  k : Nat
  g : Nat
  wide : Bool
deriving DecidableEq, Repr

def pairShape (a b : Nat) : Option Shape :=
  if a = 0 ∧ b = 0 then some ⟨32, 8, 1, true⟩
  else if (a = 1 ∧ b = 1) ∨ (a = 2 ∧ b = 2) then some ⟨64, 32, 8, false⟩
  else if (a = 3 ∨ a = 4) ∧ (b = 3 ∨ b = 4) then some ⟨64, 64, 16, false⟩
  else if a = 9 ∧ b = 9 then some ⟨64, 128, 32, false⟩
  else if isMxCode a ∧ isMxCode b then some ⟨64, 64, 32, false⟩
  else if a = 11 ∧ b = 11 then some ⟨64, 128, 64, false⟩
  else if (a = 11 ∧ b = 1) ∨ (a = 1 ∧ b = 11) then some ⟨64, 64, 64, false⟩
  else none

/-- Bits of an element of a matrix format. -/
def matrixWidth (f : Nat) : Nat :=
  match f with
  | 0 => 64 | 1 | 2 => 16 | 7 | 8 => 6 | 9 | 11 => 4 | _ => 8

/-- Bytes of a dense row. -/
def denseRow (f k : Nat) : Nat := matrixWidth f * k / 8

/-- Bytes of the scale area of a tile (R160, R161). -/
def scaleBytes (f rows k : Nat) : Nat :=
  if isMxCode f then rows * (k / 32)
  else if f = 11 then 4 * ceilDiv (rows * (k / 64)) 4 + 4 * rows
  else 0

/-- A tile of an operand: format, base, pitch and scale area in effect. -/
structure Tile where
  fmt : Nat
  base : Nat
  pitch : Nat
  scale : Nat
deriving DecidableEq, Repr

/-- The tile of an operand under a format block. -/
def tileOf (d : List Word) (sh : Shape) (isB : Bool) (base : Nat) : Tile :=
  let f := if isB then fbB d else fbA d
  let pitch := if fbPitch d isB = 0 then denseRow f sh.k else fbPitch d isB
  ⟨f, base, pitch, if fbScale d isB = 0 then base + sh.rows * pitch else base + fbScale d isB⟩

/-- The tile lies in the scratchpad area (R162). -/
def tileInside (k : Core) (sh : Shape) (t : Tile) : Bool :=
  match k.part with
  | none => false
  | some p =>
    within t.base ((sh.rows - 1) * t.pitch + denseRow t.fmt sh.k) p.spBase p.spSize &&
    (scaleBytes t.fmt sh.rows sh.k == 0 || within t.scale (scaleBytes t.fmt sh.rows sh.k) p.spBase p.spSize)

/-- A pitch or scale offset of a listed pair breaks R162. -/
def pitchBad (d : List Word) (sh : Shape) (isB : Bool) : Bool :=
  let f := if isB then fbB d else fbA d
  let p := fbPitch d isB
  p % 16 != 0 || (p != 0 && decide (p < denseRow f sh.k)) || fbScale d isB % 4 != 0

/-- The RES0 and RM checks of a format block; the pitch floor needs a listed pair (R169). -/
def formatBad (d : List Word) : Bool :=
  field d 0 11 21 != 0 || decide (4 < fbRm d) || dw d 2 != 0 || dw d 3 != 0 ||
  (match pairShape (fbA d) (fbB d) with
   | some sh => pitchBad d sh false || pitchBad d sh true
   | none => fbPitch d false % 16 != 0 || fbPitch d true % 16 != 0 || fbScale d false % 4 != 0 || fbScale d true % 4 != 0)

/-! ### Reading a tile (R160, R161, R165) -/

/-- The plain format of a matrix code, if it is one without a scale. -/
def plainFormat (f : Nat) : Option FFmt :=
  match f with
  | 0 => some .f64 | 1 => some .bf16 | 2 => some .f16 | 3 => some .e4m3 | 4 => some .e5m2 | _ => none

/-- The values of row r of a tile and the mark of the row. -/
def tileRow (c : Core) (sh : Shape) (t : Tile) (r : Nat) : List FVal × Bool :=
  let (bs, mk) := c.read (t.base + r * t.pitch) (denseRow t.fmt sh.k)
  let n := bytesN bs
  let w := matrixWidth t.fmt
  let code (i : Nat) : Nat := bits n (w * i) w
  match plainFormat t.fmt with
  | some f => ((List.range sh.k).map fun i => f.value (code i), mk)
  | none =>
    if t.fmt = 11 then
      let per := sh.k / 64
      let (ms, m1) := c.read (t.scale + r * per) per
      let (ss, m2) := c.read (t.scale + 4 * ceilDiv (sh.rows * per) 4 + 4 * r) 4
      let sv := bytesN ss
      let value (i : Nat) : FVal :=
        let m := (ms.getD (i / 64) 0).toNat
        if (FFmt.f32.value sv).isNan then .nan false
        else if m = 0 then .num false 0 1 0
        else nq4Value (nq4Factor sv m) (code i)
      ((List.range sh.k).map value, mk || m1 || m2)
    else
      let per := sh.k / 32
      let (xs, m1) := c.read (t.scale + r * per) per
      ((List.range sh.k).map fun i => mxValue (t.fmt - 3) (code i) (xs.getD (i / 32) 0).toNat, mk || m1)

/-! ### The summation rule (R163, R164) -/

/-- The exact sum of the products of a group and its flags. -/
def groupSum (rm : RMode) (ps : List (FVal × FVal)) : FVal × Flags :=
  let qs := ps.map fun p => exactMul p.1 p.2
  let fl := qs.foldl (fun a q => a ||| q.2) 0
  if qs.any fun q => q.1.isNan then (.nan false, fl)
  else match qs with
    | [] => (.num false 0 1 0, fl)
    | q :: rest =>
      let t := rest.foldl (fun (acc : FVal × Flags) q => if acc.1.isNan then acc else exactAdd rm acc.1 q.1) (q.1, 0)
      (t.1, fl ||| t.2)

/-- The groups of a step in ascending order. -/
def groupsOf {α : Type} (g : Nat) : Nat → List α → List (List α)
  | 0, _ => []
  | n + 1, xs => xs.take g :: groupsOf g n (xs.drop g)

/-- One output element: the accumulator bits before, the pairs of element values. An accumulator element that is a signalling NaN raises NV
(R63). -/
def stepElement (sh : Shape) (rm : RMode) (acc : Nat) (ps : List (FVal × FVal)) : Nat × Flags :=
  let f := accFormat sh.wide
  (groupsOf sh.g (sh.k / sh.g) ps).foldl (fun (a : Nat × Flags) grp =>
    let (t, fl) := groupSum rm grp
    let v := f.value a.1
    if t.isNan || v.isNan then (f.canonical, a.2 ||| fl)
    else
      let (r, fl2) := roundR f rm (exactAdd rm v t)
      (r, a.2 ||| fl ||| fl2)) (acc, Flags.when (f.value acc).isSig Flags.nv)

/-- A step over all elements: the core after it, its flags, and whether it marked an element. -/
def matrixStepCore (k : Core) (d : List Word) (sh : Shape) (a b row : Nat) (z : Bool) : Core × Flags × Bool :=
  let rm := RMode.ofCode (fbRm d)
  let rows (isB : Bool) (base : Nat) : List (List FVal × Bool) :=
    (List.range sh.rows).map (tileRow k sh (tileOf d sh isB base))
  let as := rows false a
  let bs := rows true b
  ((List.range sh.rows).zip as).foldl (fun (acc : Core × Flags × Bool) ra =>
    ((List.range sh.rows).zip bs).foldl (fun (acc : Core × Flags × Bool) rb =>
      let i := ra.1
      let j := rb.1
      let (old, om) := if z then (0, false) else k.accGet sh.wide (row + i) j
      let (v, fl) := stepElement sh rm old (ra.2.1.zip rb.2.1)
      let sig := ra.2.1.any FVal.isSig || rb.2.1.any FVal.isSig
      let mark := om || ra.2.2 || rb.2.2
      (acc.1.accSet sh.wide (row + i) j v mark, acc.2.1 ||| fl ||| Flags.when sig Flags.nv, acc.2.2 || mark)) acc)
    (k, 0, false)

end Sys2Proof.Machine
end

