-- ==== Sys2Proof/Machine/Matrix.lean ====
section
/-!
DEFINITION. The matrix group words (R172 to R177) and the lane words on accumulator rows (R178, R179).
-/
namespace Sys2Proof.Machine

/-! ### Checks at issue (R169) -/

/-- An outcome of the checks at issue: a trap, a status code, or the command. -/
inductive MatrixCheck where
  | trap (r : Raise)
  | status (code : Nat)
  | ok (cmd : MatrixKind) (fmt : List Word) (row rows : Nat)

/-- n bytes at an offset lie in the launch's scratchpad area. -/
def inScratchpad (k : Core) (off n : Nat) : Bool :=
  match k.part with
  | some p => within off n p.spBase p.spSize
  | none => false

/-- The window holds rows [row, row + n). -/
def Team.holdsRows (m : Team) (row n : Nat) : Bool := decide (row + n ≤ m.regs.accLimit - m.regs.accBase)

/-- The two 32-byte halves of a loop descriptor, or a format block, with a marked sector. -/
def blockMarked (k : Core) (off n : Nat) : Bool := (k.read off n).2

/-- The fields of a loop descriptor (R175). -/
def mlBase (d : List Word) (isB : Bool) : Nat := field d (if isB then 4 else 0) 0 32
def mlStride (d : List Word) (isB : Bool) : Nat := field d (if isB then 0xC else 8) 0 32
def mlWrap (d : List Word) (isB : Bool) : Nat := field d (if isB then 0x14 else 0x10) 0 32
def mlCount (d : List Word) : Nat := field d 0x18 0 16
def mlFlag (d : List Word) (i : Nat) : Bool := field d 0x1C i 1 == 1
def mlWait (d : List Word) (isB : Bool) : Bool := mlFlag d (if isB then 1 else 0)
def mlCons (d : List Word) (isB : Bool) : Bool := mlFlag d (if isB then 3 else 2)
def mlAw (d : List Word) (isB : Bool) : Nat := field d (if isB then 0x24 else 0x20) 0 32
def mlGen (d : List Word) (isB : Bool) : Nat := field d (if isB then 0x2C else 0x28) 0 32
def mlCw (d : List Word) (isB : Bool) : Nat := field d (if isB then 0x34 else 0x30) 0 32

/-- The base of an operand at a step of a loop. -/
def mlBaseAt (d : List Word) (isB : Bool) (step : Nat) : Nat :=
  let o := step * mlStride d isB
  mlBase d isB + (if mlWrap d isB = 0 then o else o % mlWrap d isB)

/-- The fields of a loop descriptor that give BAD_FIELD (R169). -/
def loopBad (s : State) (c : Nat) (m : Team) (d : List Word) : Bool :=
  let out (va n : Nat) : Bool := (scratchPlace s c m m.wide (wordN va) n).isNone
  let side (isB : Bool) : Bool :=
    mlStride d isB % 16 != 0 || mlWrap d isB % 16 != 0 || mlBase d isB % 16 != 0 ||
    (mlWait d isB && (mlAw d isB % 16 != 0 || out (mlAw d isB) 16)) ||
    (mlCons d isB && (mlCw d isB % 4 != 0 || out (mlCw d isB) 4))
  field d 0x18 16 16 != 0 || field d 0x1C 4 28 != 0 || dw d 7 != 0 || mlCount d == 0 || side false || side true

/-- What follows the alignment and bounds checks: fields, formats, areas, rows (R169 orders 3 to 6). -/
def matrixFields (k : Core) (m : Team) (bad : Bool) (fmtOff : Nat) (a b row : Nat) (kind : MatrixKind) : MatrixCheck :=
  let fmt := dwordsOf (k.read fmtOff 32).1
  if bad || formatBad fmt then .status 1
  else match pairShape (fbA fmt) (fbB fmt) with
    | none => .status 2
    | some sh =>
      if !tileInside k sh (tileOf fmt sh false a) then .trap ⟨.scratchBounds, wordN a, 0⟩
      else if !tileInside k sh (tileOf fmt sh true b) then .trap ⟨.scratchBounds, wordN b, 0⟩
      else if !m.holdsRows row sh.rows then .trap ⟨.accWindow, 0, 0⟩
      else .ok kind fmt row sh.rows

/-- The checks of `s.mma` (R169, R172). -/
def mmaCheck (k : Core) (m : Team) (sa sb : Word) : MatrixCheck :=
  let a := bits sa.toNat 0 20
  let b := bits sa.toNat 32 20
  let fo := bits sb.toNat 0 20
  let bad := bits sa.toNat 20 12 != 0 || bits sa.toNat 52 12 != 0 || bits sb.toNat 20 12 != 0 || bits sb.toNat 42 22 != 0
  if fo % 32 ≠ 0 then .trap ⟨.misaligned, wordN fo, 0⟩
  else if a % 16 ≠ 0 then .trap ⟨.misaligned, wordN a, 0⟩
  else if b % 16 ≠ 0 then .trap ⟨.misaligned, wordN b, 0⟩
  else if !inScratchpad k fo 32 then .trap ⟨.scratchBounds, wordN fo, 0⟩
  else matrixFields k m (bad || blockMarked k fo 32) fo a b (bits sb.toNat 32 10) (.mma a b)

/-- The checks of `s.mloop` (R169, R172, R175). -/
def mloopCheck (s : State) (c : Nat) (m : Team) (sa sb : Word) : MatrixCheck :=
  let k := s.core c
  let lo := bits sa.toNat 0 20
  let fo := bits sb.toNat 0 20
  let bad := bits sa.toNat 20 44 != 0 || bits sb.toNat 20 12 != 0 || bits sb.toNat 42 22 != 0
  if fo % 32 ≠ 0 then .trap ⟨.misaligned, wordN fo, 0⟩
  else if lo % 64 ≠ 0 then .trap ⟨.misaligned, wordN lo, 0⟩
  else if !inScratchpad k fo 32 then .trap ⟨.scratchBounds, wordN fo, 0⟩
  else if !inScratchpad k lo 64 then .trap ⟨.scratchBounds, wordN lo, 0⟩
  else
    let d := k.descriptor lo
    matrixFields k m (bad || blockMarked k fo 32 || blockMarked k lo 64 || loopBad s c m d) fo
      (mlBaseAt d false 0) (mlBaseAt d true 0) (bits sb.toNat 32 10) (.mloop d)

/-- The rows that a queued command may still write. -/
def MatrixCmd.rows (x : MatrixCmd) : List Nat :=
  match x.kind with
  | .aclr n => (List.range n).map (x.row + ·)
  | _ =>
    match pairShape (fbA x.fmt) (fbB x.fmt) with
    | some sh => (List.range sh.rows).map (x.row + ·)
    | none => []

/-- The rows that a team's queued commands may still write. -/
def Core.queuedRows (k : Core) (t : Nat) : List Nat := (k.matrix.filter fun x => x.team == t).flatMap MatrixCmd.rows

/-- A command enters the queue (R167), its status, with the mark of the words read (R428), a long result to come; it waits for room, in the queue and in the region's log. -/
def enqueueMatrix (x : Ctx) (s : State) (d : Option (Nat × Bool)) (kind : MatrixKind) (z : Bool) (fmt : List Word) (row rows : Nat) : Eff :=
  let m := x.now s
  let k := s.core x.c
  let first := m.regs.accBase + row
  if 16 ≤ k.matrix.length then .hold s .matrixFull
  else if rowsOverflow m (k.queuedRows x.t ++ (List.range rows).map (first + ·)) then .hold (s.overflow x.c x.t) .record
  else
    let (n, s) := s.longScalar x.c x.t (match d with | some i => [(i.1, ⟨0, i.2⟩)] | none => []) [] false false
    let cmd : MatrixCmd :=
      { team := x.t, pc := x.m.regs.spc, ticket := n, kind, z, fmt, row := first, steps := 0, flags := 0, poisoned := false,
        retried := false, waitSince := s.cycles }
    .done ((s.modCore x.c fun k => { k with matrix := k.matrix ++ [cmd] }).clearMovable x.c x.t)

/-- The shape of `s.mma` and `s.mloop`. -/
def matrixWord (f : SC) (z : Bool) (marked : Core → Word → Word → Bool) (check : State → Nat → Team → Word → Word → MatrixCheck) :
    State → Host.Outcome State Fault Refusal :=
  let srcs := [f.a.toNat, f.b.toNat]
  scalarWord { w := f.w, reads := srcs, writes := [f.d.toNat], consumes := srcs, noisy := true } fun x s =>
    let sa := (x.sreg s f.a.toNat).val
    let sb := (x.sreg s f.b.toNat).val
    match check s x.c x.m sa sb with
    | .trap r => .trap r
    | .status v =>
      let mark := marked (s.core x.c) sa sb
      match descriptorPoison x.m f.b.toNat mark with
      | some r => .trap r
      | none => .done ((x.status s f.d.toNat (wordN v) (mark || x.marked s srcs)).clearMovable x.c x.t)
    | .ok kind fmt row rows => enqueueMatrix x s (some (f.d.toNat, x.marked s srcs)) kind z fmt row rows

/-- R174. -/
def execSMma (z : Bool) (f : SC) : State → Host.Outcome State Fault Refusal :=
  matrixWord f z (fun k _ sb => blockMarked k (bits sb.toNat 0 20) 32) fun s c m sa sb => mmaCheck (s.core c) m sa sb
/-- R175. -/
def execSMloop (z : Bool) (f : SC) : State → Host.Outcome State Fault Refusal :=
  matrixWord f z (fun k sa sb => blockMarked k (bits sb.toNat 0 20) 32 || blockMarked k (bits sa.toNat 0 20) 64)
    fun s c m sa sb => mloopCheck s c m sa sb

/-- R177. -/
def execSAclr (f : SC) : State → Host.Outcome State Fault Refusal :=
  let srcs := [f.a.toNat, f.b.toNat]
  scalarWord { w := f.w, reads := srcs, consumes := srcs, noisy := true } fun x s =>
    let row := (x.sreg s f.a.toNat).val.toNat
    let n := (x.sreg s f.b.toNat).val.toNat
    if n = 0 then .done (s.clearMovable x.c x.t)
    else if !x.m.holdsRows row n then .trap ⟨.accWindow, 0, 0⟩
    else enqueueMatrix x s none (.aclr n) false [] row n

/-! ### Windows (R176) -/

/-- The leader team of a core (R157). -/
def Core.leader (k : Core) : Option Nat := k.residents.head?.map (·.1)

/-- A team has a queued or running lane block or matrix command. -/
def Core.busyFor (k : Core) (t : Nat) (m : Team) : Bool :=
  m.ctl.running.isSome || !m.ctl.queue.isEmpty || m.ctl.hrunning.isSome || !m.ctl.hqueue.isEmpty || k.matrix.any fun x => x.team == t

/-- R176. -/
def execSAwin (q : Bool) (f : SC) : State → Host.Outcome State Fault Refusal :=
  let srcs := if q then [f.a.toNat] else [f.a.toNat, f.b.toNat]
  scalarWord { w := f.w, reads := srcs, writes := [f.d.toNat], consumes := srcs } fun x s =>
    let k := s.core x.c
    let target := (x.sreg s f.a.toNat).val.toNat
    let v := (x.sreg s f.b.toNat).val.toNat
    let base := bits v 0 10
    let count := bits v 16 11
    let code := match k.teams.get none target with
      | none => 6
      | some m =>
        if q then 0
        else if bits v 10 6 ≠ 0 ∨ bits v 27 37 ≠ 0 ∨ 1024 < base + count then 1
        else if k.leader ≠ some x.t ∧ ¬(target = x.t ∧ count = 0) then 5
        else if 0 < count ∧ (k.residents.any fun e =>
            e.1 != target && decide (e.2.regs.accBase < e.2.regs.accLimit ∧ e.2.regs.accBase < base + count ∧
              base < e.2.regs.accLimit)) then 7
        else if k.busyFor target m then 8
        else 0
    let s := (if code = 0 ∧ !q then
        s.modTeam x.c target fun m => m.modRegs fun r => { r with accBase := base, accLimit := base + count }
      else s).clearMovable x.c x.t
    let window := match s.team x.c target with
      | some m => (m.regs.accLimit - m.regs.accBase) * 2 ^ 32 + m.regs.accBase * 2 ^ 16
      | none => 0
    .done (x.setSreg s f.d.toNat ⟨wordN (window + code), x.marked s srcs⟩)

/-! ### Lane access to accumulator rows (R178, R179) -/

/-- Elements of a row. -/
def accCols (wide : Bool) : Nat := if wide then 32 else 64

/-- The element that a lane names. -/
def accElement (x : LaneCtx) (l : Nat) : Nat := (x.src .a l).val.toNat % 2 ^ 32 + x.f.imm.toNat % 2 ^ 16

/-- The checks of R179 on a lane: the physical row and the column. -/
def accCheck (x : LaneCtx) (l : Nat) : Except Raise (Nat × Nat) :=
  let e := accElement x l
  let n := ftyCount x.f.ty.toNat
  if e % n ≠ 0 then .error ⟨.misaligned, wordN e, 0⟩
  else if x.m.regs.accLimit - x.m.regs.accBase ≤ e / accCols x.f.x then .error ⟨.accWindow, 0, 0⟩
  else .ok (x.m.regs.accBase + e / accCols x.f.x, e % accCols x.f.x)

/-- The checks on every running lane. -/
def accLanes (x : LaneCtx) : LaneChecked (Nat × Nat) :=
  let rs := x.lanes.map fun l => (l, accCheck x l)
  match firstFailing (rs.filterMap fun e => match e.2 with | .error r => some (e.1, r) | _ => none) with
  | some r => .bad r
  | none => .ok (rs.filterMap fun e => match e.2 with | .ok p => some (e.1, p) | _ => none)

/-- A lane access waits for the commands issued before its block's `s.lrun` that write its rows (R170 rule 3). -/
def accWaits (s : State) (x : LaneCtx) (rows : List Nat) : Bool :=
  (s.core x.c).matrix.any fun y =>
    y.team == x.t && decide (y.ticket < (x.m.blockOf x.p).after) && y.rows.any fun r => rows.contains r

/-- A conversion between an element and a lane type: an exact move copies the bits (R178). -/
def accConvert (dst src : FFmt) (rm : RMode) (v : Nat) : Nat × Flags := if dst = src then (v % 2 ^ dst.width, 0) else fcvt dst src rm v

/-- What the lanes of `v.ldacc` read, converted (R178, R179). -/
def accLoads (s : State) (x : LaneCtx) (ps : List (Nat × Nat × Nat)) : List (Nat × LaneOut) :=
  let t := ftyFormat x.f.ty.toNat
  ps.map fun e =>
    let es := (List.range (ftyCount x.f.ty.toNat)).map fun i => (s.core x.c).accGet x.f.x e.2.1 (e.2.2 + i)
    let vs := es.map fun v => accConvert t (accFormat x.f.x) x.rm v.1
    (e.1, { d := some ⟨wordN (packElements t.width (vs.map (·.1))), es.any (·.2) || (x.src .a e.1).mark⟩,
            flags := vs.foldl (fun a v => a ||| v.2) 0 })

/-- What a lane of `v.stacc` writes: its elements, converted, with their flags. -/
def accElements (x : LaneCtx) (l : Nat) : List (Nat × Flags) :=
  let t := ftyFormat x.f.ty.toNat
  (List.range (ftyCount x.f.ty.toNat)).map fun i => accConvert (accFormat x.f.x) t x.rm (element t.width i (x.src .b l).val.toNat)

/-- The flags of the lanes of `v.stacc`. -/
def accStoreFlags (x : LaneCtx) (ps : List (Nat × Nat × Nat)) : List (Nat × LaneOut) :=
  ps.map fun e => (e.1, { flags := (accElements x e.1).foldl (fun a v => a ||| v.2) 0 })

/-- The elements of `v.stacc` written, lanes in ascending order, so that the highest decides an element that several write (R179). -/
def accStores (x : LaneCtx) (ps : List (Nat × Nat × Nat)) (k : Core) : Core :=
  ps.foldl (fun k e =>
    let mark := (x.src .b e.1).mark || (x.src .a e.1).mark
    ((List.range (accElements x e.1).length).zip (accElements x e.1)).foldl (fun k v => k.accSet x.f.x e.2.1 (e.2.2 + v.1) v.2.1 mark) k) k

/-- R179. -/
def execVLdacc (f : Lane) : State → Host.Outcome State Fault Refusal :=
  laneWord f { tys := if f.x then 0xF else 0x7F, vd := .op, a := .op, rm := accConverts f, x := true, imm := 0xFFFF }
    { eat := [.a], long := true } fun x s =>
    match accLanes x with
    | .bad r => .trap r
    | .wait => .wait
    | .ok ps =>
      if accWaits s x (ps.map (·.2.1)) then .wait
      else
        let outs := accLoads s x ps
        match fpTrap (x.m.blockOf x.p).fpctl outs with
        | some r => .trap r
        | none => .next (((s.clearMovable x.c x.t).longLane x outs true false).2.addFlags x.c x.t (allFlags outs))

/-- R179. -/
def execVStacc (f : Lane) : State → Host.Outcome State Fault Refusal :=
  laneWord f { tys := if f.x then 0xF else 0x7F, a := .op, b := .op, rm := accConverts f, x := true, imm := 0xFFFF }
    { eat := if accConverts f then [.a, .b] else [.a] } fun x s =>
    match accLanes x with
    | .bad r => .trap r
    | .wait => .wait
    | .ok ps =>
      let rows := ps.map (·.2.1)
      let outs := accStoreFlags x ps
      match fpTrap (x.m.blockOf x.p).fpctl outs with
      | some r => .trap r
      | none =>
        if accWaits s x rows then .wait
        else if rowsOverflow (x.now s) ((s.core x.c).queuedRows x.t ++ rows) then .overflow
        else .next ((((s.logRows x.c x.t rows).clearMovable x.c x.t).addFlags x.c x.t (allFlags outs)).modCore x.c (accStores x ps))

end Sys2Proof.Machine
end

