-- ==== Sys2Proof/Machine/Beam.lean ====
section
/-!
DEFINITION. Yarrow's beam queries (R183 to R212): nodes read, traversal, results and records, the words `s.beam` and `v.trace`.
-/
namespace Sys2Proof.Machine

/-! ### Long results that an engine delivers -/

/-- An engine has formed the scalar results of a long result (R304): the values that it writes; marks stay. -/
def State.finishLong (s : State) (c t ticket : Nat) (v : Word) : State :=
  s.modTeam c t fun m => { m with pend := m.pend.map fun p =>
    if p.ticket = ticket then { p with sregs := p.sregs.map fun r => (r.1, ⟨v, r.2.mark⟩), ready := true } else p }

/-- An engine has formed the lane results of a long result: register, lane and the mark held give the value. -/
def State.finishVregs (s : State) (c t ticket : Nat) (v : Nat → Nat → Bool → Marked) : State :=
  s.modTeam c t fun m => { m with pend := m.pend.map fun p =>
    if p.ticket = ticket then { p with vregs := p.vregs.map fun r => (r.1, r.2.1, v r.1 r.2.1 r.2.2.mark), ready := true }
    else p }

/-! ### Reading nodes (R184, R201) -/

/-- A node as read: its words and mark, the address of a fault, or a wait for another engine's range. -/
inductive NodeRead where
  | ok (w : List Nat) (mark : Bool)
  | fault (addr : Word)
  | wait

/-- A full node cache of 128 KiB gives up a line, the lowest (R184; DESIGN CHOICE, log entry 116). -/
def nodeRoom (xs : SMap Sector) : SMap Sector :=
  match xs with
  | [] => []
  | e :: _ => if xs.length < 4096 then xs else xs.keep fun u _ => u / 4 != e.1 / 4

/-- A sector through the node cache of a cluster's engine. -/
def State.nodeSector (s : State) (q d pa : Nat) : (List Byte × Bool) × State :=
  match (s.cluster q).nodes.get ⟨[], false, 0, 0, 0⟩ (pa / 32) with
  | ⟨[], _, _, _, _⟩ =>
    let (r, s) := s.readHome d pa 32
    (r, s.modCluster q fun k => { k with nodes := (nodeRoom k.nodes).set ⟨[], false, 0, 0, 0⟩ (pa / 32) ⟨r.1, r.2, 0, s.cycles, 0⟩ })
  | x => ((x.data, x.mark), s)

/-- The stores of the issuing team that its own reads see: those of its core on their way, and those its region holds. -/
def State.ownStores (s : State) (c t pa : Nat) (r : List Byte × Bool) : List Byte × Bool :=
  let r := (s.core c).inflight.foldl (fun a x => overlay pa a x.pa x.data x.mark) r
  match (s.team c t).bind (·.region) with
  | some g => g.held.foldl (fun a x => overlay pa a x.pa x.data x.mark) r
  | none => r

/-- The ticket under which a query reads: an engine command of its own, or, for `v.trace`, the issuing split (R211). -/
def BeamCmd.own (cmd : BeamCmd) : Option Nat := match cmd.job with | .trace _ _ => none | .beam _ _ => some cmd.ticket

/-- Reads node n for a query. The reads of `v.trace` are plain reads of its split (R211) and so see the team's own stores. -/
def State.readNode (s : State) (cmd : BeamCmd) (root n : Nat) : NodeRead × State :=
  let q := clusterOf cmd.core
  let d := dieOf cmd.core
  let va := root + 128 * n
  let plain := cmd.own.isNone
  if 2 ^ 54 ≤ va then (.fault (wordN va), s)
  else match engineXlate s d cmd.asid cmd.runtime Need.load va cmd.own with
    | (.error none, s) => (.wait, s)
    | (.error (some _), s) => (.fault (wordN va), s)
    | (.ok pa, s) =>
      if isMgmt pa then (.fault (wordN va), s)
      else if s.blocked pa cmd.own then (.wait, s)
      else
        let (bs, mark, s) := (List.range 4).foldl (fun (acc : List Byte × Bool × State) i =>
          let (r, s) := acc.2.2.nodeSector q d (pa + 32 * i)
          let r := if plain then s.ownStores cmd.core cmd.team (pa + 32 * i) r else r
          (acc.1 ++ r.1, acc.2.1 || r.2, s)) ([], false, s)
        (.ok (words32 bs) mark, s)

/-- The engine starts a query: cached lines outside sealed memory go. -/
def State.dropNodes (s : State) (q : Nat) : State :=
  s.modCluster q fun k => { k with nodes := k.nodes.keep fun u _ => s.mem.sealed (u * 32) }

/-! ### Traversal (R197) -/

def BeamItem.beam : BeamItem → Beam
  | .visit _ b => b
  | .split _ _ b => b
def BeamItem.node : BeamItem → Nat
  | .visit n _ => n
  | .split n _ _ => n

/-- Gives a flag to the live rays of a beam. -/
def BeamRun.flag (r : BeamRun) (b : Beam) (i : Nat) : BeamRun := { r with rays := onLive r.rays b fun y => y.flag i }

/-- What the children of a box node add for a beam, in slot order with their L, and how many are all-miss. -/
def childTodo (q : Query) (rays : List Ray) (w : List Nat) (n : Nat) (b : Beam) : List (FVal × (Nat → BeamTodo)) × Nat :=
  ((List.range (nodeChildren w)).filter fun c => !childEmpty w c).foldl (fun acc c =>
    let cand (r : Nat) : BeamTodo := .cand r (childRef w c) b
    match classify q rays b (childMin w c) (childMax w c) with
    | .miss => (acc.1, acc.2 + 1)
    | .enter l => (acc.1 ++ [(l, cand)], acc.2)
    | .mixed l => (acc.1 ++ [(l, if b.logs = 0 then cand else fun r => .add r (.split n c b))], acc.2)) ([], 0)

/-- The ranks in ascending L, ties in slot order, put on what was added in slot order. -/
def rankTodo (xs : List (FVal × (Nat → BeamTodo))) : List BeamTodo :=
  ((List.range xs.length).zip xs).map fun e =>
    e.2.2 (((List.range xs.length).zip xs).filter fun o =>
      fLt o.2.1 e.2.1 || (!fLt e.2.1 o.2.1 && decide (o.1 < e.1))).length

/-- What the quadrants of a split item add, and how many are all-miss. -/
def quadTodo (q : Query) (rays : List Ray) (w : List Nat) (n c : Nat) (b : Beam) : List BeamTodo × Nat :=
  (List.range 4).foldl (fun acc k =>
    let bq := b.quadrant k
    if (liveIn rays bq).isEmpty then acc
    else match classify q rays bq (childMin w c) (childMax w c) with
      | .miss => (acc.1, acc.2 + 1)
      | .enter _ => (acc.1 ++ [.cand k (childRef w c) bq], acc.2)
      | .mixed _ => (acc.1 ++ [if bq.logs = 0 then .cand k (childRef w c) bq else .add k (.split n c bq)], acc.2)) ([], 0)

/-- Resolves what an item adds, in order, up to a split record that must be answered (R197, R198). -/
def resolveTodo (q : Query) (pool : Nat) : List BeamTodo → List (Nat × BeamItem) → BeamRun → BeamRun
  | [], added, r =>
    { r with phase := .traverse, stack := (sortBy (fun a b => decide (a.1 < b.1)) added).map (·.2) ++ r.stack }
  | .add k x :: rest, added, r => resolveTodo q pool rest (added ++ [(k, x)]) r
  | .cand k ref b :: rest, added, r =>
    if q.nodeCount ≤ ref then resolveTodo q pool rest added (r.flag b 3)
    else if q.handoff && decide (q.logP ≤ b.logs ∧ pool < 4096) then { r with phase := .answer k ref b rest added }
    else resolveTodo q pool rest (added ++ [(k, .visit ref b)]) r

/-- One item popped and processed; none: the node must wait for another engine. -/
def stepItem (s : State) (q : Query) (r : BeamRun) (item : BeamItem) (rest : List BeamItem) : Option (BeamRun × State) :=
  let b := item.beam
  let n := item.node
  let pool := (s.cluster (clusterOf r.cmd.core)).pool
  let r := { r with stack := rest, visits := r.visits + 1, splits := r.splits + (match item with | .split _ _ _ => 1 | .visit _ _ => 0) }
  if (liveIn r.rays b).isEmpty then some (r, s)
  else match s.readNode r.cmd q.root n with
    | (.wait, _) => none
    | (.fault a, s) => some ({ r.flag b 3 with fault := if r.fault.isSome then r.fault else some a }, s)
    | (.ok w mark, s) =>
      let r := if mark then { r.flag b 4 with poisoned := true } else r
      if nodeBad w then some (r.flag b 3, s)
      else match item with
        | .visit _ _ =>
          if nodeType w = 1 then
            let (xs, culled) := childTodo q r.rays w n b
            some (resolveTodo q pool (rankTodo xs) [] { r with culled := r.culled + culled }, s)
          else some ({ r with rays := onLive r.rays b (leafTest q w) }, s)
        | .split _ c _ =>
          if nodeType w ≠ 1 ∨ nodeChildren w ≤ c then some (r.flag b 3, s)
          else if childEmpty w c then some (r, s)
          else
            let (xs, culled) := quadTodo q r.rays w n c b
            some (resolveTodo q pool xs [] { r with culled := r.culled + culled }, s)

/-- Traverses until the stack is empty, the budget is spent, a split record waits for its answer, or a node must wait (then the flag
is false). -/
def traverse (q : Query) : Nat → BeamRun → State → BeamRun × Bool × State
  | 0, r, s => (r, true, s)
  | fuel + 1, r, s =>
    match r.phase, r.stack with
    | .traverse, item :: rest =>
      if r.visits = q.budget then ({ r.stack.foldl (fun r x => r.flag x.beam 2) r with stack := [] }, true, s)
      else match stepItem s q r item rest with
        | none => (r, false, s)
        | some (r, s) => traverse q fuel r s
    | _, _ => (r, true, s)

/-! ### Results and records (R200 to R202) -/

/-- The address of a ray's result. -/
def resultAddr (d : List Word) (r : Ray) : Nat := bmResults d + 16 * (r.j * 2 ^ bmLogN d + r.i)

/-- The merge of R200 of a stored result with a new one. -/
def mergeResult (old new : Nat) : Nat :=
  let key (v : Nat) : Nat := v % 2 ^ 32 * 2 ^ 32 + bits v 32 32
  (if key new < key old then new % 2 ^ 123 else old % 2 ^ 123) + ((old / 2 ^ 123) ||| (new / 2 ^ 123)) * 2 ^ 123

/-- Ends a query at once (R201). -/
def BeamRun.fail (r : BeamRun) (addr : Nat) : BeamRun := { r with resultFault := true, fault := some (wordN addr) }

/-- What a result write, or a merge, needs of its page (R376). -/
def resultNeed (d : List Word) : Need := if bmMerge d then Need.atomic else Need.store

/-- Writes the results of the rays in order, until a fault. -/
def writeResults (d : List Word) : List Ray → BeamRun → State → BeamRun × State
  | [], r, s => (r, s)
  | y :: rest, r, s =>
    let die := dieOf r.cmd.core
    let va := resultAddr d y
    match engineXlate s die r.cmd.asid r.cmd.runtime (resultNeed d) va r.cmd.own with
    | (.error _, s) => (r.fail va, s)
    | (.ok pa, s) =>
      if isMgmt pa || s.mem.sealed pa then (r.fail va, s)
      else
        let v := if bmMerge d then mergeResult (bytesN (s.mem.read pa 16)) y.result else y.result
        writeResults d rest r (s.engineWrite pa (natBytes 16 v) (y.flagged 4))

/-- A line of the result array, or of an entry that its translation reads, must be waited for. -/
def resultsWait (s : State) (d : List Word) (r : BeamRun) : Bool :=
  r.rays.any fun y =>
    match (engineXlate s (dieOf r.cmd.core) r.cmd.asid r.cmd.runtime (resultNeed d) (resultAddr d y) r.cmd.own).1 with
    | .ok pa => s.blocked pa r.cmd.own
    | .error c => c.isNone

/-- The bytes of a split record (R198). -/
def splitRecord (d : List Word) (ref : Nat) (b : Beam) : List Byte :=
  natBytes 8 (bmTab d) ++ natBytes 4 ref ++ natBytes 2 b.i ++ natBytes 2 b.j ++ natBytes 1 b.logs ++ natBytes 15 0

/-- The bytes of a hit record (R202). -/
def hitRecord (d : List Word) (y : Ray) : List Byte :=
  natBytes 16 y.result ++ natBytes 2 y.i ++ natBytes 2 y.j ++ natBytes 4 0 ++ natBytes 8 (resultAddr d y)

/-- Counts an accepted record (R366); the issuing core turns black (R364). -/
def posted (s : State) (r : BeamRun) (q : Nat) : BeamRun × State :=
  let g := qGraph (s.queueDesc q)
  ({ r with tally := r.tally ++ [(q, 0, 1)] }, if g = 0 then s else s.blacken g r.cmd.core)

/-- The virtual address of the entry that a push onto a queue would write. -/
def pushAddr (s : State) (q : Nat) : Nat :=
  let d := s.queueDesc q
  qBase d + 32 * (qTail d % 2 ^ qLog d)

/-- Posts the hit records from the n-th ray on, until a queue refuses one; the flag says that all are posted, or that the query
has failed. An entry at an address that is no multiple of 4 is read there (DESIGN CHOICE, log entry 102). -/
def postRecords (d : List Word) : Nat → List Ray → BeamRun → State → BeamRun × Bool × State
  | _, [], r, s => (r, true, s)
  | n, y :: rest, r, s =>
    if !(y.live && y.isHit) then postRecords d (n + 1) rest r s
    else
      let die := dieOf r.cmd.core
      let va := bmTab d + 4 * bits y.hit 32 24
      match engineXlate s die r.cmd.asid r.cmd.runtime Need.load va r.cmd.own with
      | (.error none, s) => ({ r with phase := .records n }, false, s)
      | (.error (some _), s) => (r.fail va, true, s)
      | (.ok pa, s) =>
        if isMgmt pa then (r.fail va, true, s)
        else if s.blocked pa r.cmd.own then ({ r with phase := .records n }, false, s)
        else
          let ((bs, mark), s) := s.readHome die pa 4
          let e := bytesN bs
          let q := bits e 0 17
          if bit e 31 then postRecords d (n + 1) rest r s
          else if bits e 17 14 ≠ 0 then (r.fail va, true, s)
          else if !s.recordQueue r.cmd.asid q then (r.fail (s.queuePa q), true, s)
          else match s.post q (hitRecord d y) (mark || y.flagged 4) none with
            | .closed => (r.fail (s.queuePa q), true, s)
            | .fault => (r.fail (pushAddr s q), true, s)
            | .full => ({ r with phase := .records n, refused := some s.cycles }, false, s)
            | .wait => ({ r with phase := .records n }, false, s)
            | .done s =>
              let (r, s) := posted s r q
              postRecords d (n + 1) rest r s

/-! ### The end of a query (R203, R208) -/

/-- How many live rays have a hit. -/
def BeamRun.hits (r : BeamRun) : Nat := (r.rays.filter fun y => y.live && y.isHit).length

/-- The status of `s.beam` (R208). -/
def BeamRun.status (r : BeamRun) : Word :=
  let code := if r.engineError then 5 else if r.resultFault then 4 else if r.rays.any (·.flagged 3) then 3
    else if r.rays.any (·.flagged 2) then 2 else 0
  wordN (r.hits * 2 ^ 32 + (decide (0 < r.posts)).toNat * 2 ^ 10 + r.poisoned.toNat * 2 ^ 9 + code)

/-- The counts of a query for its launch's queue and the queues it posted to (R366). -/
def BeamRun.counts (r : BeamRun) (queue : Nat) : List (Nat × Nat × Nat) :=
  [(queue, 0x10, r.visits), (queue, 0x18, r.splits), (queue, 0x20, r.culled), (queue, 0x28, r.posts), (queue, 0x30, r.hits)] ++ r.tally

/-- A query of `s.beam` ends: report, status, range; its counts go to the team that issued it, if that is still there (R203). -/
def State.finishBeam (s : State) (r : BeamRun) (off : Nat) : State :=
  let c := r.cmd.core
  let report := natBytes 4 r.visits ++ natBytes 4 r.splits ++ natBytes 4 r.culled ++ natBytes 4 r.posts ++
    natBytes 8 (r.fault.getD 0).toNat
  let mine := ((s.core c).part.map (·.launch)) == some r.cmd.launch
  let s := (if mine then s.engineScratch c (off + 0x68) report false else s).unregister r.cmd.ticket
  let s := s.modCluster (clusterOf c) fun k => { k with run := none, pool := 0 }
  let s := s.modTeam c r.cmd.team fun m =>
    if m.id.launch = r.cmd.launch then { m with tally := m.tally ++ r.counts m.id.queue } else m
  s.finishLong c r.cmd.team r.cmd.ticket r.status

/-- Keeps a query as it stands; a slot of the pool is held while a split record awaits its answer (R198). -/
def State.keepQuery (s : State) (r : BeamRun) : State :=
  s.modCluster (clusterOf r.cmd.core) fun k => { k with run := some r, pool := match r.phase with | .answer _ _ _ _ _ => 1 | _ => 0 }

/-- The query goes on from where its records stand. -/
def State.recordsOn (s : State) (r : BeamRun) (off : Nat) (d : List Word) (n : Nat) : State :=
  match postRecords d n (r.rays.drop n) r s with
  | (r, true, s) => s.finishBeam r off
  | (r, false, s) => s.keepQuery r

/-- The query goes on: traversal, then results, whose lines are released as they are written (R204, R228), then records; a wait keeps it where
it is. -/
def State.queryOn (s : State) (r : BeamRun) (off : Nat) (d : List Word) : State :=
  let q := queryOf d
  match traverse q (q.budget + 1) r s with
  | (r, done, s) =>
    match r.phase with
    | .traverse =>
      if !done || resultsWait s d r then s.keepQuery r
      else
        let (r, s) := writeResults d r.rays r s
        if r.resultFault || !bmRecords d then s.finishBeam r off else (s.unregister r.cmd.ticket).recordsOn r off d 0
    | _ => s.keepQuery r

/-! ### v.trace (R211) -/

/-- A run with nothing done yet. -/
def BeamRun.start (cmd : BeamCmd) (rays : List Ray) (stack : List BeamItem) : BeamRun :=
  { cmd, phase := .traverse, stack, rays, visits := 0, splits := 0, culled := 0, posts := 0, poisoned := false, fault := none,
    resultFault := false, engineError := false, tally := [], refused := none }

/-- The query of a lane: its record over the descriptor. -/
def laneQuery (d : List Word) (rec' : List Nat) : Query :=
  { queryOf d with o := rec'.take 3, tmin := rec'.getD 3 0, d := [], du := [], dv := [], single := some ((rec'.drop 4).take 3),
                   tmax := rec'.getD 7 0, handoff := false }

/-- The record of a lane is one that is not traced. -/
def laneRayBad (rec' : List Nat) : Bool :=
  (rec'.take 3 ++ (rec'.drop 4).take 3).any (!f32Finite ·) || dirZero ((rec'.drop 4).take 3) ||
  intervalBad (rec'.getD 3 0) (rec'.getD 7 0)

/-- Traces a lane: its result, the mark of the nodes read; none while a node must wait. -/
def traceLane (cmd : BeamCmd) (s : State) (rec' : List Nat) (d : List Word) : Option (Nat × Bool × State) :=
  let bad := laneRayBad rec'
  let ray : Ray := { i := 0, j := 0, dir := (rec'.drop 4).take 3, live := !bad, key := missKey, hit := 0, flags := if bad then 2 else 0 }
  if bad then some (ray.result, false, s)
  else
    let q := laneQuery d rec'
    match traverse q (q.budget + 1) (BeamRun.start cmd [ray] [.visit q.start ⟨0, 0, 0⟩]) s with
    | (_, false, _) => none
    | (r, true, s) => some ((r.rays.headD ray).result, r.poisoned, s)

/-- Traces the lanes of a word in ascending order. -/
def traceLanes (cmd : BeamCmd) : List (Nat × List Nat × Bool × List Word) → State → List (Nat × Nat × Bool) →
    Option (List (Nat × Nat × Bool) × State)
  | [], s, acc => some (acc, s)
  | (l, rec', mark, d) :: rest, s, acc =>
    match traceLane cmd s rec' d with
    | none => none
    | some (v, mk, s) => traceLanes cmd rest s (acc ++ [(l, v, mark || mk)])

/-- A `v.trace` entry runs: it leaves the queue and delivers its results. -/
def State.runTrace (s : State) (cmd : BeamCmd) (reg : Nat) (rs : List (Nat × Nat × Bool)) : State :=
  (s.modCluster (clusterOf cmd.core) fun k => { k with beams := k.beams.drop 1 }).finishVregs cmd.core cmd.team cmd.ticket fun j l mk =>
    match rs.find? fun e => e.1 == l with
    | some e => ⟨wordN (if j = reg then e.2.1 else e.2.1 / 2 ^ 64), e.2.2 || mk⟩
    | none => ⟨0, mk⟩

/-- The engine of a cluster starts its next entry, or goes on with a query that waited (R183). -/
def State.runBeam (s : State) (q : Nat) : State :=
  let k := s.cluster q
  match k.run with
  | some r =>
    match r.cmd.job, r.phase with
    | .beam off d, .traverse => s.queryOn r off d
    | _, _ => s
  | none =>
    match k.beams with
    | [] => s
    | cmd :: rest =>
      match cmd.job with
      | .trace reg rs => s.runTrace cmd reg rs
      | .beam off d =>
        let s := (s.dropNodes q).modCluster q fun k => { k with beams := rest }
        let qy := queryOf d
        s.queryOn (BeamRun.start cmd (gridRays qy d) [.visit qy.start ⟨bmI0 d, bmJ0 d, bmLogS d⟩]) off d

/-- The queue manager answers the split record that a query has posted (R198). -/
def State.answerSplit (s : State) (q : Nat) : State :=
  match (s.cluster q).run with
  | none => s
  | some r =>
    match r.cmd.job, r.phase with
    | .beam off d, .answer k ref b rest added =>
      let sq := bmSplitQ d
      let go (r : BeamRun) (added : List (Nat × BeamItem)) (s : State) : State :=
        s.queryOn (resolveTodo (queryOf d) 0 rest added r) off d
      if !s.recordQueue r.cmd.asid sq then s.finishBeam (r.fail (s.queuePa sq)) off
      else match s.post sq (splitRecord d ref b) false none with
        | .closed => s.finishBeam (r.fail (s.queuePa sq)) off
        | .fault => s.finishBeam (r.fail (pushAddr s sq)) off
        | .wait => s
        | .full => go r (added ++ [(k, .visit ref b)]) s
        | .done s =>
          let (r, s) := posted s { r with posts := r.posts + 1 } sq
          go r added s
    | _, _ => s

/-- A refused hit record is offered again, each microsecond (R202). -/
def State.retryRecord (s : State) (q : Nat) : State :=
  match (s.cluster q).run with
  | none => s
  | some r =>
    match r.cmd.job, r.phase with
    | .beam off d, .records n => if r.refused.any fun t => decide (s.cycles < t + cyclesPerUs) then s else s.recordsOn r off d n
    | _, _ => s

/-! ### The words -/

/-- The entries of a cluster's queue, the running one included. -/
def Cluster.beamCount (k : Cluster) : Nat := k.beams.length + (if k.run.isSome then 1 else 0)

/-- The first fault among the pages of the results, or their pieces of memory (R204, R208); no trap where a walk must wait. -/
def resultPieces (s : State) (m : Team) (die : Nat) (d : List Word) : Except (Option Raise) (List (Nat × Nat)) × State :=
  let s' := 2 ^ bmLogS d
  (List.range s').foldl (fun (acc : Except (Option Raise) (List (Nat × Nat)) × State) j =>
    (List.range s').foldl (fun (acc : Except (Option Raise) (List (Nat × Nat)) × State) i =>
      match acc.1 with
      | .error _ => acc
      | .ok ps =>
        let va := bmResults d + 16 * ((bmJ0 d + j) * 2 ^ bmLogN d + bmI0 d + i)
        match engineXlate acc.2 die m.id.asid m.id.runtime { Need.range with r := bmMerge d } va with
        | (.error k, s) => (.error (k.map fun k => ⟨k, wordN va, 0⟩), s)
        | (.ok pa, s) =>
          (.ok (match ps.getLast? with
            | some p => if p.1 + p.2 = pa then ps.dropLast ++ [(p.1, p.2 + 16)] else ps ++ [(pa, 16)]
            | none => [(pa, 16)]), s)) acc) (.ok [], s)

/-- R207, R208. -/
def execSBeam (f : SC) : State → Host.Outcome State Fault Refusal :=
  let a := f.a.toNat
  scalarWord { w := f.w, reads := [a], writes := [f.d.toNat], consumes := [a], noisy := true } fun x s =>
    let v := (x.sreg s a).val
    let off := v.toNat % 2 ^ 20
    let k := s.core x.c
    let marked := (k.read off 0x68).2
    if off % 128 ≠ 0 then .trap ⟨.misaligned, wordN off, 0⟩
    else if !inScratchpad k off 128 then .trap ⟨.scratchBounds, wordN off, 0⟩
    else match descriptorPoison x.m a marked with
      | some r => .trap r
      | none =>
        let d := dwordsOf (k.read off 128).1
        let bad := v.toNat / 2 ^ 20 ≠ 0 || marked || beamBad d
        let status (s : State) (v : Nat) : Eff := .done (x.status s f.d.toNat (wordN v) (marked || x.marked s [a]))
        if bad then commitFirst x s fun s => status s 1
        else match resultPieces s x.m (dieOf x.c) d with
          | (.error (some r), _) => .trap r
          | (.error none, s) => .hold s .line
          | (.ok ps, s) => commitFirst x s fun s => settleFirst x s fun s =>
            let m := x.now s
            let q := clusterOf x.c
            if 32 ≤ (s.cluster q).beamCount then .hold s .beamFull
            else if s.rangesFull ps then .hold s .line
            else
              let (n, s) := s.longScalar x.c x.t [(f.d.toNat, ⟨0, x.marked s [a]⟩)] [] false false
              let cmd : BeamCmd := { core := x.c, team := x.t, ticket := n, asid := m.id.asid, runtime := m.id.runtime,
                                     launch := m.id.launch, job := .beam off d }
              .done ((s.register n ps).modCluster q fun k => { k with beams := k.beams ++ [cmd] })

/-- The checks of R212 on a running lane, but for those of R43. -/
def traceCheck (x : LaneCtx) (s : State) (l : Nat) : Except Raise (List Nat × Bool × List Word) :=
  let k := s.core x.c
  let ro := (x.src .a l).val
  let dof := (x.src .b l).val
  let d := dwordsOf (k.read dof.toNat 128).1
  if ro.toNat % 32 ≠ 0 then .error ⟨.misaligned, ro, 0⟩
  else if dof.toNat % 128 ≠ 0 then .error ⟨.misaligned, dof, 0⟩
  else if !inScratchpad k ro.toNat 32 then .error ⟨.scratchBounds, ro, 0⟩
  else if !inScratchpad k dof.toNat 128 then .error ⟨.scratchBounds, dof, 0⟩
  else if traceBad d then .error ⟨.illegalOperand, dof, 0⟩
  else .ok (words32 (k.read ro.toNat 32).1, (k.read ro.toNat 32).2 || (k.read dof.toNat 0x68).2, d)

/-- Marked engine data of running lanes under PCTRAP (R426): the lanes, and the operand code that named it. -/
def lanePoison (x : LaneCtx) (y : Src) (marked : Nat → Bool) : Option Raise :=
  if x.m.ctl.policy.getLsbD 0 && x.lanes.any marked then
    some ⟨.poisonConsumed, wordN (codeOf x.f y), maskOf (x.lanes.filter marked)⟩
  else none

/-- R210 to R212. The node reads are made as the word issues, as those of any load of its split, and the entry carries the results (DEDUCED, log
entry 95). -/
def execVTrace (f : Lane) : State → Host.Outcome State Fault Refusal :=
  laneWord f { vd := .op, a := .op, b := .op } { eat := [.a, .b], pairD := true, long := true, illegal := f.vd == 0xF8 } fun x s =>
    let rs := x.lanes.map fun l => (l, traceCheck x s l)
    match firstFailing (rs.filterMap fun e => match e.2 with | .error r => some (e.1, r) | _ => none) with
    | some r => .trap r
    | none =>
      let k := s.core x.c
      let ps := rs.filterMap fun e => match e.2 with | .ok p => some (e.1, p) | _ => none
      match lanePoison x .a fun l => (k.read (x.src .a l).val.toNat 32).2 with
      | some r => .trap r
      | none =>
        match lanePoison x .b fun l => (k.read (x.src .b l).val.toNat 0x68).2 with
        | some r => .trap r
        | none =>
          let q := clusterOf x.c
          if 32 ≤ (s.cluster q).beamCount then .wait
          else
            let mark (l : Nat) : Bool := (x.src .a l).mark || (x.src .b l).mark
            let outs := ps.map fun e => (e.1, ({ d := some ⟨0, mark e.1⟩, d2 := some ⟨0, mark e.1⟩ } : LaneOut))
            let (n, s) := s.longLane x outs false false
            let cmd : BeamCmd := { core := x.c, team := x.t, ticket := n, asid := x.m.id.asid, runtime := x.m.id.runtime,
                                   launch := x.m.id.launch, job := .trace f.vd.toNat [] }
            match traceLanes cmd ps (s.dropNodes q) [] with
            | none => .wait
            | some (rs, s) =>
              .next (s.modCluster q fun k => { k with beams := k.beams ++ [{ cmd with job := .trace f.vd.toNat rs }] })

/-! ### v.tex (R213 to R218) -/

def txSize (d : List Word) : Nat := if field d 0x0C 16 4 = 0 then 4 else 2
def txNearest (d : List Word) : Bool := field d 0x0C 22 1 == 1
def txAddr (d : List Word) : Nat := field d 0x0C 20 2

/-- A descriptor that R213 does not allow. -/
def texBad (d : List Word) (threeD : Bool) : Bool :=
  let n := txSize d
  let row := dw d 2
  decide (1 < field d 0x0C 16 4) || txAddr d == 3 || field d 0x0C 23 9 != 0 || field d 0x24 0 32 != 0 ||
  (d.drop 5).any (· != 0) || dw d 0 % n != 0 || row % n != 0 || decide (row < (field d 0x08 0 16 + 1) * n) ||
  (threeD && (dw d 3 % n != 0 || decide (dw d 3 < (field d 0x08 16 16 + 1) * row)))

/-- The taps of a coordinate (R215): index and weight. -/
def texTaps (nearest : Bool) (c : Nat) : List (Int × FVal) :=
  let one : FVal := .num false 1 1 0
  let far : Int := if bit c 31 then -(2 ^ 31) else 2 ^ 31
  if nearest then [(if f32Inf c then far else fx c / 2 ^ 149, one)]
  else
    let (i0, q) : Int × Nat :=
      if f32Inf c then (far, 0)
      else
        let sN := fx c - 2 ^ 148
        let q := (roundInt .rne false ((sN % 2 ^ 149).toNat * 65536) (2 ^ 149)).1
        if q = 65536 then (sN / 2 ^ 149 + 1, 0) else (sN / 2 ^ 149, q)
    [(i0, .num false (65536 - q) 1 (-16)), (i0 + 1, .num false q 1 (-16))]

/-- A tap's texel index on an axis of a size; none reads BORDER. -/
def texIndex (mode : Nat) (size : Nat) (i : Int) : Option Nat :=
  if mode = 0 then some (minI (maxI i 0) (size - 1)).toNat
  else if mode = 1 then some (i % (size : Int)).toNat
  else if 0 ≤ i ∧ i < (size : Int) then some i.toNat
  else none

/-- The corners of a sample with their weights, in ascending order, those of weight zero left out (R216): the address of the
texel, or none for BORDER. -/
def texCorners (d : List Word) (threeD : Bool) (u v w : Nat) : List (FVal × Option Nat) :=
  let taps (c : Nat) : List (Int × FVal) := texTaps (txNearest d) c
  let pick (l : List (Int × FVal)) (n : Nat) : Option (Int × FVal) := l[n]?
  let zs : List (Int × FVal) := if threeD then taps w else [(0, .num false 1 1 0)]
  let idx (off : Nat) (i : Int) : Option Nat := texIndex (txAddr d) (field d 0x08 off 16 + 1) i
  (List.range 8).filterMap fun c =>
    match pick (taps u) (c % 2), pick (taps v) (c / 2 % 2), pick zs (c / 4) with
    | some x, some y, some z =>
      let wt := roundF32 (exactMul (roundF32 (exactMul x.2 y.2).1) z.2).1
      if wt.isZero then none
      else
        let zi := if threeD then texIndex (txAddr d) (field d 0x0C 0 16 + 1) z.1 else some 0
        some (wt, match idx 0 x.1, idx 16 y.1, zi with
          | some i, some j, some k => some (dw d 0 + k * dw d 3 + j * dw d 2 + i * txSize d)
          | _, _, _ => none)
    | _, _, _ => none

/-- A coordinate that gives the canonical NaN and reads nothing (R215). -/
def texNan (d : List Word) (c : Nat) : Bool := f32Nan c || (f32Inf c && txAddr d == 1)

/-- The combination of R216. -/
def texCombine (cs : List (FVal × FVal)) : Nat :=
  let terms := cs.map fun e => roundF32 (exactMul e.1 e.2).1
  match terms with
  | [] => FFmt.f32.canonical
  | t :: rest =>
    let acc := rest.foldl (fun a b => roundF32 (exactAdd .rne a b).1) t
    if acc.isNan then FFmt.f32.canonical else (roundV .f32 .rne false acc).1

/-- The checks of R218 on a lane's descriptor. -/
def texCheck (x : LaneCtx) (s : State) (l : Nat) : Except Raise (List Word) :=
  let v := (x.src .b l).val
  let k := s.core x.c
  let d := dwordsOf (k.read v.toNat 64).1
  if v.toNat % 64 ≠ 0 then .error ⟨.misaligned, v, 0⟩
  else if !inScratchpad k v.toNat 64 then .error ⟨.scratchBounds, v, 0⟩
  else if texBad d x.f.x then .error ⟨.illegalOperand, v, 0⟩
  else .ok d

/-- The corners of a lane; none for a NaN sample. -/
def laneCorners (x : LaneCtx) (d : List Word) (l : Nat) : Option (List (FVal × Option Nat)) :=
  let uv := (x.src .a l).val.toNat
  let w := if x.f.x then (x.src .c l).val.toNat % 2 ^ 32 else 0
  if texNan d (bits uv 0 32) || texNan d (bits uv 32 32) || (x.f.x && texNan d w) then none
  else some (texCorners d x.f.x (bits uv 0 32) (bits uv 32 32) w)

/-- The texel reads of a lane in order (R216): weight and value of each corner, with the OR of the marks. -/
def texelLoads (x : LaneCtx) (d : List Word) (corners : List (FVal × Option Nat)) (s : State) : List (FVal × FVal) × Bool × State :=
  corners.foldl (fun (a : List (FVal × FVal) × Bool × State) c =>
    match c.2 with
    | none => (a.1 ++ [(c.1, FFmt.f32.value (field d 0x20 0 32))], a.2.1, a.2.2)
    | some va =>
      match checkAccess a.2.2 x.c x.m Need.load false (wordN va) (txSize d) with
      | (.ok pa, s) =>
        let (r, s) := s.load x.c x.t pa (txSize d) false false 0
        let fm := if txSize d = 4 then FFmt.f32 else FFmt.f16
        (a.1 ++ [(c.1, fm.value (bytesN r.1))], a.2.1 || r.2, s)
      | (_, s) => (a.1, a.2.1, s)) ([], false, s)

/-- What the lanes of `v.tex` write. -/
def State.texLanes (s : State) (x : LaneCtx) (ds : List (Nat × List Word)) : List (Nat × LaneOut) × State :=
  ds.foldl (fun (acc : List (Nat × LaneOut) × State) e =>
    let mark := ((acc.2.core x.c).read (x.src .b e.1).val.toNat 64).2 ||
      (sourcesOf { a := .op, b := .op, c := if x.f.x then .op else .bits 0 }).any fun y => (x.src y e.1).mark
    match laneCorners x e.2 e.1 with
    | none => (acc.1 ++ [(e.1, outD (wordN FFmt.f32.canonical) mark)], acc.2)
    | some corners =>
      let r := texelLoads x e.2 corners acc.2
      (acc.1 ++ [(e.1, outD (wordN (texCombine r.1)) (mark || r.2.1))], r.2.2)) ([], s)

/-- The texel addresses of the lanes that read memory, with their size. -/
def texelsOf (x : LaneCtx) (ds : List (Nat × List Word)) : List (Nat × Nat × Nat) :=
  ds.flatMap fun e => ((laneCorners x e.2 e.1).getD []).filterMap fun c => c.2.map fun va => (e.1, txSize e.2, va)

/-- The checks of R218 on the descriptors of the running lanes. -/
def texDescriptors (x : LaneCtx) (s : State) : Except Raise (List (Nat × List Word)) :=
  let rs := x.lanes.map fun l => (l, texCheck x s l)
  match firstFailing (rs.filterMap fun e => match e.2 with | .error r => some (e.1, r) | _ => none) with
  | some r => .error r
  | none => .ok (rs.filterMap fun e => match e.2 with | .ok d => some (e.1, d) | _ => none)

/-- The checks of R235 on the texels in order. -/
def texelChecks (x : LaneCtx) (s : State) (ts : List (Nat × Nat × Nat)) : List (Nat × Access) × State :=
  ts.foldl (fun (acc : List (Nat × Access) × State) e =>
    let (a, s) := checkAccess acc.2 x.c x.m Need.load false (wordN e.2.2) e.2.1
    (acc.1 ++ [(e.1, a)], s)) ([], s)

/-- R213 to R218: the texel reads are plain loads. -/
def execVTex (f : Lane) : State → Host.Outcome State Fault Refusal :=
  laneWord f { vd := .op, a := .op, b := .op, c := if f.x then .op else .bits 0, x := true }
    { eat := if f.x then [.a, .b, .c] else [.a, .b], long := true } fun x s =>
    match texDescriptors x s with
    | .error r => .trap r
    | .ok ds =>
      match lanePoison x .b fun l => ((s.core x.c).read (x.src .b l).val.toNat 64).2 with
      | some r => .trap r
      | none =>
        let (cs, s) := texelChecks x s (texelsOf x ds)
        let bad := cs.filterMap fun e => match e.2 with | .bad r => some (e.1, r) | _ => none
        match bad with
        | (_, r) :: _ => .trap { r with lanes := maskOf (bad.map (·.1)) }
        | [] =>
          if cs.any fun e => match e.2 with | .wait => true | _ => false then .wait
          else
            let (outs, s) := s.texLanes x ds
            .next (s.longLane x outs true true).2

end Sys2Proof.Machine
end

