-- ==== Sys2Proof/Machine/Control.lean ====
section
/-!
DEFINITION. The control words of both streams (chapter 10): branches, calls, lane blocks, markers, special registers, regroup, splits,
votes and shuffles.
-/
namespace Sys2Proof.Machine

/-! ### Scalar branches (R314, R315) -/

/-- An address relative to the word at pc. -/
def relAddr (pc : Word) (unit : Int) (disp : Int) : Word := word (pc.toNat + unit * disp)

/-- Sets the spin detector of the scalar stream (R353). -/
def State.setSpin (s : State) (x : Ctx) (p : Spin) : State := s.modTeam x.c x.t fun m => m.modSched fun y => { y with spin := p }

/-- A branch of major 19 that is taken or not (R314, R353). -/
def branchWord (w : Bool) (kg : Nat) (kn : Bool) (disp : BitVec 21) : State → Host.Outcome State Fault Refusal :=
  scalarWord { w, kreads := [kg] } fun x s =>
    let s := noteControl s x (x.m.regs.predMark kg)
    let pc := x.m.regs.spc
    let p := x.m.sched.spin
    if x.m.regs.pred kg != kn then
      .jump (s.setSpin x (spinTaken p pc (decide (-16 ≤ disp.toInt ∧ disp.toInt < 0)))) (relAddr pc 4 disp.toInt)
    else .done (if p.pc = pc then s.setSpin x Spin.init else s)

/-- R314. -/
def execSBr (f : SB) : State → Host.Outcome State Fault Refusal := branchWord f.w f.kg.toNat f.kn f.disp
/-- R314: taken always, since k0 reads true. -/
def execSJmp (w : Bool) (disp : BitVec 21) : State → Host.Outcome State Fault Refusal := branchWord w 0 false disp

/-- R314. -/
def execSCall (f : SL) : State → Host.Outcome State Fault Refusal :=
  scalarWord { w := f.w, writes := [f.d.toNat] } fun x s =>
    let pc := x.m.regs.spc
    .jump ((x.setSreg s f.d.toNat ⟨pc + 4, false⟩).setSpin x Spin.init) (relAddr pc 4 f.i.toInt)

/-- A jump to the address in a register (R315). -/
def jumpReg (f : SC) : State → Host.Outcome State Fault Refusal :=
  let a := f.a.toNat
  scalarWord { w := f.w, reads := [a], consumes := [a] } fun x s =>
    let v := x.sreg s a
    if v.val.toNat % 4 ≠ 0 then .trap ⟨.misaligned, v.val, 0⟩
    else .jump ((noteControl s x v.mark).setSpin x Spin.init) v.val

/-- R315. -/
def execSRet (f : SC) : State → Host.Outcome State Fault Refusal := jumpReg f
/-- R315. -/
def execSJr (f : SC) : State → Host.Outcome State Fault Refusal := jumpReg f

/-! ### Lane blocks (R301, R316, R317, R386) -/

/-- The team's lane queue of its present side has a free entry. -/
def Team.queueRoom (m : Team) : Bool :=
  if m.trap.handler then decide (m.ctl.hqueue.length + m.ctl.hrunning.isSome.toNat < 2)
  else decide (m.ctl.queue.length + m.ctl.running.isSome.toNat < 8)

/-- A block enters the lane queue of the present side. -/
def Ctl.enqueue (x : Ctl) (handler : Bool) (b : Block) : Ctl :=
  if handler then { x with hqueue := x.hqueue ++ [b] } else { x with queue := x.queue ++ [b] }

/-- R316: n uniform slots from register `first`. -/
def lrunWord (f : SC) (n : Nat) : State → Host.Outcome State Fault Refusal :=
  let a := f.a.toNat
  let us := (List.range n).map (f.b.toNat + ·)
  scalarWord { w := f.w, reads := a :: us, consumes := [a] } fun x s =>
    let v := x.sreg s a
    if v.val.toNat % 4 ≠ 0 then .trap ⟨.misaligned, v.val, 0⟩
    else if !x.m.queueRoom then .hold s .lrun
    else
      let slots := us.map (x.sreg s) ++ List.replicate (8 - n) ⟨0, false⟩
      let b : Block := ⟨v.val, slots, x.m.regs.fpctl, s.ticket⟩
      let s := noteControl s x v.mark
      .done ((s.modTeam x.c x.t fun m => m.modCtl fun y => y.enqueue m.trap.handler b).settle x.c x.t)

/-- R316. -/
def execSLrun (f : SC) : State → Host.Outcome State Fault Refusal := lrunWord f 0
/-- R316. -/
def execSLrunUniforms (n : BitVec 3) (f : SC) : State → Host.Outcome State Fault Refusal := lrunWord f (n.toNat + 1)

/-- R317. -/
def execSLwait (f : SC) : State → Host.Outcome State Fault Refusal :=
  scalarWord { w := f.w } fun x s => if x.m.blocksDone then .done s else .hold s .lwait

/-- Adds what a team has counted (R366). -/
def State.flushTally (s : State) (c t : Nat) : State :=
  match s.team c t with
  | none => s
  | some m => m.tally.foldl (fun s e => s.count e.1 e.2.1 e.2.2) (s.setTeam c t (some { m with tally := [] }))

/-- R317: a commit, the waits of `s.lwait` and of a marker, then the team retires. -/
def execSExit (f : SC) : State → Host.Outcome State Fault Refusal :=
  scalarWord { w := f.w } fun x s =>
    commitFirst x s fun s =>
      let m := x.now s
      if !m.blocksDone then .hold s .lwait
      else if m.halted || !drained s x.c x.t m then .hold s .drain
      else .gone ((s.flushTally x.c x.t).retire x.c x.t)

/-- R317. -/
def execSNop (f : SC) : State → Host.Outcome State Fault Refusal := scalarWord { w := f.w } fun _ s => .done s

/-! ### Special registers (R300, R318, R322) -/

/-- The launch of a team, or one with no replica. -/
def State.launchOf (s : State) (m : Team) : Nat × Nat :=
  match s.launch m.id.launch with
  | some l => (l.pkgIndex, l.pkgCount)
  | none => (0, 1)

/-- A register of R300 that a scalar word reads. -/
def specialRead (s : State) (c : Nat) (m : Team) (n : Nat) : Option Word :=
  let part (f : Partition → Nat) : Word := wordN (((s.core c).part.map f).getD 0)
  if n = 0x000 then some (wordN m.id.index)
  else if n = 0x001 then some (wordN m.id.lanes)
  else if n = 0x002 then some (wordN m.id.cx)
  else if n = 0x003 then some (wordN m.id.cy)
  else if n = 0x004 then some (wordN m.id.rank)
  else if n = 0x005 then some (wordN (s.launchOf m).1)
  else if n = 0x006 then some (wordN (s.launchOf m).2)
  else if n = 0x007 then some (wordN m.id.gen)
  else if n = 0x010 then some (wordN m.id.regwin)
  else if n = 0x011 then some (part (·.spBase))
  else if n = 0x012 then some (part (·.spSize))
  else if n = 0x013 then some (wordN m.regs.accBase)
  else if n = 0x014 then some (wordN m.regs.accLimit)
  else if n = 0x020 then some m.regs.fpctl
  else if n = 0x021 then some m.regs.fpflags
  else if n = 0x030 then some m.lease.reg
  else if n = 0x031 then some m.regionId
  else if n = 0x040 then some m.trap.regs.cause
  else if n = 0x041 then some m.trap.regs.spc
  else if n = 0x042 then some m.trap.regs.lpc
  else if n = 0x043 then some m.trap.regs.addr
  else if 0x050 ≤ n ∧ n < 0x060 then some (maskWord m.trap.regs.mask (n - 0x050))
  else if n = 0x080 then some (wordN s.cycles)
  else none

/-- The trap registers. -/
def isTrapReg (n : Nat) : Bool := (0x040 ≤ n && n ≤ 0x043) || (0x050 ≤ n && n < 0x060)

/-- Replaces word i of a mask of lanes. -/
def setMaskWord (x : Mask) (i : Nat) (v : Word) : Mask :=
  BitVec.ofNat 1024 (x.toNat - bits x.toNat (64 * i) 64 * 2 ^ (64 * i) + v.toNat * 2 ^ (64 * i))

/-- Writes a register of R300 under its field map. -/
def specialWrite (m : Team) (n : Nat) (v : Word) : Team :=
  let trap (f : TrapRegs → TrapRegs) : Team := m.modTrap fun y => { y with regs := f y.regs }
  if n = 0x020 then m.modRegs fun r => { r with fpctl := fpctlWrite r.fpctl v }
  else if n = 0x021 then m.modRegs fun r => { r with fpflags := fpflagsWrite v }
  else if n = 0x040 then trap fun r => { r with cause := wordN (bits v.toNat 0 16) }
  else if n = 0x041 then trap fun r => { r with spc := v }
  else if n = 0x042 then trap fun r => { r with lpc := v }
  else if n = 0x043 then trap fun r => { r with addr := v }
  else if 0x050 ≤ n ∧ n < 0x060 then trap fun r => { r with mask := setMaskWord r.mask (n - 0x050) v }
  else m

/-- The team may write register n. -/
def Team.writable (m : Team) (n : Nat) : Bool := n == 0x020 || n == 0x021 || (isTrapReg n && (m.trap.handler || m.id.runtime))

/-- A number that R300 lists for `s.mfs`. -/
def specialListed (n : Nat) : Bool :=
  n ≤ 7 || (0x010 ≤ n && n ≤ 0x014) || n == 0x020 || n == 0x021 || n == 0x030 || n == 0x031 || isTrapReg n || n == 0x080

/-- R318. A number of 0x800 to 0xFFF in team mode is no register that R300 lists: ILLEGAL_OPERAND, though R372 has naming one raise PRIVILEGE
(DESIGN CHOICE, log entry 97). -/
def execSMfs (f : SSpec) : State → Host.Outcome State Fault Refusal :=
  let n := f.num.toNat
  scalarWord { w := f.w, writes := [f.d.toNat], illegal := fun _ => !specialListed n } fun x s =>
    .done (x.setSreg s f.d.toNat ⟨(specialRead s x.c x.m n).getD 0, false⟩)

/-- R318: a move, which does not consume. -/
def execSMts (f : SSpec) : State → Host.Outcome State Fault Refusal :=
  let n := f.num.toNat
  scalarWord { w := f.w, reads := [f.d.toNat], illegal := fun m => !m.writable n } fun x s =>
    .done (s.modTeam x.c x.t fun m => specialWrite m n (x.sreg s f.d.toNat).val)

/-- R322. -/
def execVMfs (f : Lane) : State → Host.Outcome State Fault Refusal :=
  let n := f.imm.toNat % 2 ^ 12
  let ok := n ≤ 7 || (0x010 ≤ n && n ≤ 0x014) || n == 0x020 || n == 0x080
  laneAlu f { tys := 1, vd := .op, imm := 0xFFF } { illegal := !ok } fun x s _ =>
    let v := if n = 0x020 then (x.m.blockOf x.p).fpctl else (specialRead s x.c x.m n).getD 0
    { d := some ⟨v, false⟩ }

/-! ### Regroup (R323 to R325) -/

/-- The status of `s.regroup` for a team as it stands. -/
def regroupStatus (m : Team) (partner code : Nat) : Word := wordN (partner * 2 ^ 32 + maskCount m.ctl.live * 2 ^ 16 + code)

/-- The offer of another team, no older than 2^16 cycles, that matches one of team t (R324): the team, its status register and the mark of its
status. -/
def matching (now : Nat) (k : Core) (t : Nat) (m : Team) (tag first count : Nat) : Option (Nat × Nat × Bool) :=
  k.residents.findSome? fun e =>
    match e.2.sched.hold with
    | some (.regroup d tg fi co mk) =>
      let lower := if e.1 < t then e.2.id.lanes else m.id.lanes
      if e.1 ≠ t ∧ e.2.id.launch = m.id.launch ∧ e.2.id.vregs = m.id.vregs ∧ tg = tag ∧ fi = first ∧ co = count ∧
          maskCount e.2.ctl.live + maskCount m.ctl.live ≤ lower ∧ now < e.2.sched.holdSince + 2 ^ 16 then some (e.1, d, mk) else none
    | _ => none

/-- What a moving lane carries (R325): its registers from `first` on, its predicates with their marks. -/
def carried (k : Core) (m : Team) (first count l : Nat) : List Marked × List (Bool × Bool) :=
  ((List.range count).map fun j => k.vreg m (first + j) l,
   (List.range 7).map fun n => (m.ctl.pred (n + 1) l, m.ctl.predMark (n + 1) l))

/-- Puts what a lane carried into lane `l`. -/
def receive (k : Core) (m : Team) (first l : Nat) (v : List Marked × List (Bool × Bool)) : Core × Team :=
  (((List.range v.1.length).zip v.1).foldl (fun k e => k.setVreg m (first + e.1) l e.2) k,
   m.modCtl fun x => ((List.range 7).zip v.2).foldl (fun x e => x.setPred (e.1 + 1) l e.2.1 e.2.2) x)

/-- The merge of teams A < B (R325): A with the lanes of both, in their new places. -/
def mergeTeams (k : Core) (a b : Team) (first count : Nat) : Core × Team :=
  let la := lanesOf a.ctl.live a.id.lanes
  let lb := lanesOf b.ctl.live b.id.lanes
  let vals := la.map (carried k a first count) ++ lb.map (carried k b first count)
  let (k, a) := ((List.range vals.length).zip vals).foldl (fun acc e => receive acc.1 acc.2 first e.1 e.2) (k, a)
  (k, { a with
    ctl := { a.ctl with live := maskBelow vals.length }
    regs := { a.regs with fpflags := a.regs.fpflags ||| b.regs.fpflags } })

/-- The end of a wait moves a BLOCKED team to READY (R350). -/
def State.unblock (s : State) (c t : Nat) : State :=
  s.modTeam c t fun m => if m.sched.state = .blocked then m.modSched fun y => { y with state := .ready, since := s.cycles } else m

/-- A held word completes by the act of another agent: its stream goes on at the next word. -/
def State.completeHeld (s : State) (c t : Nat) : State :=
  match s.team c t with
  | none => s
  | some m => (scalarDone s c t (m.regs.spc + 4) m.sched.holdW).unblock c t

/-- Teams with offers that match are merged: team a with status register d stays, team b retires (R325). -/
def State.regroup (s : State) (c a b d first count : Nat) (mark : Bool) : State :=
  match s.team c a, s.team c b with
  | some ma, some mb =>
    let (k, ma) := mergeTeams (s.core c) ma mb first count
    let s := (s.setCore c k).setTeam c a (some ma)
    let s := (s.flushTally c b).retire c b
    (s.longScalar c a [(d, ⟨regroupStatus ma b 0, mark⟩)] [] true false).2
  | _, _ => s

/-- A team whose earlier stores and long results are done may merge with another (R325). -/
def mayMerge (s : State) (c t : Nat) : Bool := match s.team c t with | some m => !m.halted && drained s c t m | none => false

/-- R323, R324, R465: the offer is posted as the word issues. The teams that match merge once the earlier stores and long results of both are done,
for one of them retires (DEDUCED, log entry 63). -/
def execSRegroup (nw : Bool) (f : SC) : State → Host.Outcome State Fault Refusal :=
  let srcs := [f.a.toNat, f.b.toNat]
  scalarWord { w := f.w, reads := srcs, writes := [f.d.toNat], consumes := srcs } fun x s =>
    let a := (x.sreg s f.a.toNat).val.toNat
    let b := (x.sreg s f.b.toNat).val.toNat
    let tag := bits a 0 16
    let first := bits b 0 8
    let count := bits b 8 8
    commitFirst x s fun s =>
      let m := x.now s
      let d := f.d.toNat
      let mark := x.marked s srcs
      let status (code : Nat) : Eff := .done (x.status s d (regroupStatus m 0 code) mark)
      if a / 2 ^ 16 ≠ 0 ∨ b / 2 ^ 16 ≠ 0 ∨ 240 < count ∨ !((List.range count).all fun j => m.laneOk (first + j)) then status 1
      else if (s.core x.c).mode = modeDual then status 5
      else if !(m.ctl.queue.isEmpty && m.ctl.running.isNone && m.ctl.hqueue.isEmpty && m.ctl.hrunning.isNone) then status 3
      else if m.id.lanes < 2 * maskCount m.ctl.live then status 2
      else match matching s.cycles (s.core x.c) x.t m tag first count with
        | none => if nw then status 4 else .hold s (.regroup d tag first count mark)
        | some (p, pd, pmark) =>
          if !(mayMerge s x.c x.t && mayMerge s x.c p) then .hold s (.regroup d tag first count mark)
          else if x.t < p then .done (s.regroup x.c x.t p d first count mark)
          else .gone ((s.regroup x.c p x.t pd first count pmark).completeHeld x.c p)

/-! ### Lane control words (R309 to R313, R319) -/

/-- A signed displacement field of a lane branch. -/
def laneDisp (f : Lane) (lo n : Nat) : Int := sext n (bits f.imm.toNat lo n)

/-- A taken lane branch that the spin detector counts (R353). -/
def laneBack (f : Lane) : Bool := decide (-4 ≤ laneDisp f 16 17 ∧ laneDisp f 16 17 ≤ -1)

/-- Changes the issuing split. -/
def State.modSplit (s : State) (x : LaneCtx) (g : Split → Split) : State :=
  s.modTeam x.c x.t fun m => m.modCtl fun y => match y.split x.i with | some q => y.setSplit x.i (some (g q)) | none => y

/-- What divides a split at `v.br` (R309): the team and core with the two sides in place; none when a record or a spill entry
is wanted and none is free. -/
def divide (k : Core) (m : Team) (x : LaneCtx) (taken rest : List Nat) (target jaddr : Word) : Option (Core × Team) :=
  let same := x.p.join.bind fun r => (m.ctl.joinRec r).bind fun j => if j.jaddr = jaddr then some (r, j) else none
  let placed : Option (Nat × Ctl) := match same with
    | some (r, j) => some (r, m.ctl.setJoin r (some { j with members := j.members + 1 }))
    | none => m.ctl.freeJoin.map fun r =>
        (r, m.ctl.setJoin r (some { jaddr, members := 2, parked := 0, lanes := 0, outer := x.p.join, longs := 0, handler := x.p.handler }))
  match placed with
  | none => none
  | some (r, ctl) =>
    let s' : Split := { x.p with mask := maskOf rest, lpc := x.p.lpc + 12, join := some r, latches := [none, none, none], spin := Spin.init }
    let n : Split := { Split.fresh (maskOf taken) target (some r) x.p.handler with longs := x.p.longs }
    let ctl := ctl.setSplit x.i (some s')
    match ctl.freeSplit with
    | some i => some (k, { m with ctl := ctl.setSplit i (some n) })
    | none => if m.ctl.spills.length < 64 then some (spillOut k { m with ctl } n) else none

/-- R309: pg and pgn are the condition. -/
def execVBr (f : Lane) : State → Host.Outcome State Fault Refusal :=
  laneWord f { tys := 1, imm := immAll } { guarded := false, preds := [f.pg.toNat] } fun x s =>
    let pg := f.pg.toNat
    let s := noteControl s ⟨x.c, x.t, x.m⟩ (x.lanes.any fun l => x.m.ctl.predMark pg l)
    let taken := x.lanes.filter (laneGuard x.m f)
    let rest := x.lanes.filter fun l => !laneGuard x.m f l
    let target := relAddr x.p.lpc 12 (laneDisp f 16 17)
    if taken.isEmpty then
      .next (if x.p.spin.pc = x.p.lpc then s.modSplit x fun q => { q with spin := Spin.init } else s)
    else if rest.isEmpty then
      .goto (s.modSplit x fun q => { q with spin := spinTaken x.p.spin x.p.lpc (laneBack f) }) target
    else match divide (s.core x.c) (x.now s) x taken rest target (relAddr x.p.lpc 12 (laneDisp f 0 16)) with
      | none => .trap ⟨.scratchBounds, wordN (spillArea (s.core x.c) x.m), x.m.active x.p⟩
      | some (k, m) => .gone ((s.setCore x.c k).setTeam x.c x.t (some m))

/-- R319. -/
def execVJmp (f : Lane) : State → Host.Outcome State Fault Refusal :=
  laneWord f { tys := 1, imm := immAll } { guarded := false } fun x s =>
    .goto (s.modSplit x fun q => { q with spin := spinTaken x.p.spin x.p.lpc (laneBack f) }) (relAddr x.p.lpc 12 (laneDisp f 16 17))

/-- The lane stream goes on after the split that has issued (R306). -/
def State.turnOn (s : State) (x : LaneCtx) : State := s.modTeam x.c x.t fun m => m.modCtl fun y => { y with turn := (x.i + 1) % 16 }

/-- R310. -/
def execVJoin (f : Lane) : State → Host.Outcome State Fault Refusal :=
  laneWord f { tys := 1 } { guarded := false } fun x s =>
    match x.p.join.bind fun r => (x.m.ctl.joinRec r).map fun j => (r, j.jaddr) with
    | some (r, jaddr) =>
      if jaddr = x.p.lpc then
        let m := (x.now s).modCtl fun y => y.park x.i x.p r
        .gone ((s.setTeam x.c x.t (some (refill (s.core x.c) 65 m))).turnOn x)
      else .next s
    | none => .next s

/-- R312. -/
def execVLend (f : Lane) : State → Host.Outcome State Fault Refusal :=
  laneWord f { tys := 1 } { guarded := false } fun x s =>
    .gone ((s.setTeam x.c x.t (some (endSplit (s.core x.c) (x.now s) x.i))).turnOn x)

/-- R312. -/
def execVExit (f : Lane) : State → Host.Outcome State Fault Refusal :=
  laneWord f { tys := 1 } {} fun x s =>
    if x.lanes.isEmpty then .next s
    else
      let gone := maskOf x.lanes
      let m := (x.now s).modCtl fun y => y.setSplit x.i (some { x.p with mask := x.p.mask &&& ~~~gone, lpc := x.p.lpc + 12 })
      let s' := s.setTeam x.c x.t (some (exitLanes (s.core x.c) m gone))
      .gone (if x.p.mask &&& x.m.ctl.live &&& ~~~gone = 0 then s'.turnOn x else s')

/-! ### Votes and shuffles (R320, R321) -/

/-- The result of a vote over the participating lanes and their q. -/
def voteResult (ty m : Nat) (ps : List (Nat × Bool)) : Nat :=
  let yes := ps.filter (·.2)
  match ty with
  | 0 => bits (maskOf (yes.map (·.1))).toNat (64 * m) 64
  | 1 => if yes.isEmpty then 0 else 1
  | 2 => if yes.length = ps.length then 1 else 0
  | _ => yes.length

/-- R320. -/
def execVVote (f : Lane) : State → Host.Outcome State Fault Refusal :=
  let p := f.va.toNat % 8
  let d := f.vd.toNat
  laneWord f { tys := 0xF, vd := if f.x then .bits 6 else .op, a := .bits 3, x := true, imm := 0x1F }
    { preds := [p], scalarD := if f.x then some d else none } fun x s =>
    let ps := x.lanes.map fun l => (l, x.m.ctl.pred p l != f.imm.getLsbD 4)
    let v : Marked := ⟨wordN (voteResult f.ty.toNat (f.imm.toNat % 16) ps), x.lanes.any fun l => x.m.ctl.predMark p l⟩
    if f.x then .next (if ps.isEmpty then s else s.setSreg x.c x.m d v)
    else
      let (k, ctl) := writeLanes (s.core x.c) (x.now s) f (x.lanes.map fun l => (l, ({ d := some v } : LaneOut)))
      .next (laneSpin s ((s.setCore x.c k).modTeam x.c x.t fun m => { m with ctl }) x)

/-- The source lane of a shuffle (R321). -/
def shufLane (x : LaneCtx) (l : Nat) : Int :=
  let k := x.f.imm.toNat % 2 ^ 10
  match x.f.ty.toNat with
  | 0 => ((x.src .b l).val.toNat % 2 ^ 32 : Nat)
  | 1 => ((l ^^^ k : Nat) : Int)
  | 2 => (l : Int) - k
  | _ => (l : Int) + k

/-- R321: a shuffle moves, and does not consume: the result has the mark of its source alone, the predicate that of the index (R88). -/
def execVShuf (f : Lane) : State → Host.Outcome State Fault Refusal :=
  let idx := f.ty = 0
  laneAlu f { tys := 0xF, vd := .op, a := .op, b := if idx then .op else .bits 0, c := .op, pd := true, imm := if idx then 0 else 0x3FF }
    {} fun x _ l =>
    let from_ := shufLane x l
    let ok := decide (0 ≤ from_ ∧ from_ < (x.m.id.lanes : Int)) && (x.m.active x.p).getLsbD from_.toNat
    { d := some (if ok then x.src .a from_.toNat else x.src .c l),
      p := if f.pd = 0 then none else some (ok, idx && (x.src .b l).mark) }

end Sys2Proof.Machine
end

