-- ==== Sys2Proof/Machine/Recovery.lean ====
section
/-!
DEFINITION. The recovery words (R438 to R446) and the collective words (R452, R453, R458 to R461).
-/
namespace Sys2Proof.Machine

/-! ### Regions (R439 to R441) -/

/-- R439: the record is written while the team goes on (R421); a snapshot is taken at a park point (R424). -/
def execSRegion (movable : Bool) (f : SC) : State → Host.Outcome State Fault Refusal :=
  let srcs := [f.a.toNat, f.b.toNat]
  scalarWord { w := f.w, reads := srcs, consumes := srcs } fun x s =>
    let v := (x.sreg s f.a.toNat).val.toNat
    let smask := (x.sreg s f.b.toNat).val
    let count := bits v 24 8
    let first := bits v 16 8
    if bits v 32 3 = 7 ∨ v / 2 ^ 35 ≠ 0 ∨ !((List.range count).all fun j => x.m.laneOk (first + j)) ∨
        !((List.range 64).all fun i => !smask.getLsbD i || x.m.scalarOk i) then .trap ⟨.illegalOperand, 0, 0⟩
    else if (s.core x.c).mode = modeNone then .done s
    else commitFirst x s fun s =>
      let m := x.now s
      let snap := (s.core x.c).mode = modeSnapshot
      if !m.blocksDone then .hold s .lwait
      else if snap ∧ (m.halted || !drained s x.c x.t m) then .hold s .drain
      else
        let s := s.openRegion x.c x.t (bits v 0 16) (bits v 32 3) movable
          (recordOf s x.c m (m.regs.spc + 4) smask first count snap)
        .done (s.modTeam x.c x.t fun m => { m with region := m.region.map fun g => { g with record := { g.record with rid := m.regionId } } })

/-- R440. -/
def execSCommit (f : SC) : State → Host.Outcome State Fault Refusal :=
  scalarWord { w := f.w } fun x s => commitFirst x s fun s => .done s

/-- The KiB that a snapshot of a team copies (R441). -/
def snapshotKib (m : Team) : Nat :=
  windowBytes m.id.lanes m.id.vregs / 1024 + ceilDiv ((m.regs.accLimit - m.regs.accBase) * 256) 1024 + 16

/-- R441: the snapshot holds the status register as the word leaves it. -/
def execSCkpt (f : SC) : State → Host.Outcome State Fault Refusal :=
  let d := f.d.toNat
  scalarWord { w := f.w, writes := [d] } fun x s =>
    if (s.core x.c).mode = modeNone then .done (x.status s d 5 false)
    else commitFirst x s fun s =>
      let m := x.now s
      if m.halted || !drained s x.c x.t m then .hold s .drain
      else
        let v := wordN (snapshotKib m * 2 ^ 32)
        let after := { m with regs := { m.regs with slongs := setBit m.regs.slongs d true } }
        let rec' := recordOf (x.setSreg s d ⟨v, false⟩) x.c after (m.regs.spc + 4) 0 0 0 true
        let s := (x.status s d v false).openRegion x.c x.t 0 scPackage false rec'
        .done (s.modTeam x.c x.t fun m => { m with region := m.region.map fun g => { g with record := { g.record with rid := m.regionId } } })

/-! ### Checks (R442, R445) -/

/-- A failed check of a team (R414, R442): replayable, or a trap. -/
def checkFails (s : State) (c t : Nat) (m : Team) (rp : Bool) (x : Trap) : Option State :=
  match m.region with
  | some g =>
    if rp && m.replayable (s.core c) && !g.lastAttempt then
      let r := { teamRecord s c m 16 2 x.what.addr with cause := 13 }
      some ((s.halt c t r).modTeam c t fun m => { m with region := m.region.map fun g => { g with check := some x } })
    else none
  | none => none

/-- R442. -/
def execSCschk (c : Cond) (f : SC) : State → Host.Outcome State Fault Refusal :=
  let srcs := [f.a.toNat, f.b.toNat]
  scalarWord { w := f.w, reads := srcs, consumes := srcs } fun x s =>
    if condHolds c (x.sreg s f.a.toNat).val (x.sreg s f.b.toNat).val then .done s
    else
      let r : Raise := ⟨.checkFail, wordN (f.d.toNat % 32), 0⟩
      match checkFails s x.c x.t x.m (f.d.getLsbD 5) ⟨r, none, some x.m.regs.spc⟩ with
      | some s => .gone s
      | none => .trap r

/-- R445. -/
def execVChk (f : Lane) : State → Host.Outcome State Fault Refusal :=
  laneWord f { LaneUse.binary f false with vd := .bits 4, c := .bits 8 } { eat := if f.x then [.a] else [.a, .b] } fun x s =>
    let bad := x.lanes.filter fun l =>
      !laneCondHolds (f.vd.toNat % 8) (Ity f) (Isg f) (x.src .a l).val.toNat (srcB x l).val.toNat
    if bad.isEmpty then .next s
    else
      let r : Raise := ⟨.checkFail, wordN f.vc.toNat, maskOf bad⟩
      match checkFails s x.c x.t x.m (f.vd.getLsbD 3) ⟨r, some (x.i, x.p.lpc), none⟩ with
      | some s => .gone s
      | none => .trap r

/-- The new checksum of R444 by its kind. -/
def csacc (kind d a : Nat) : Nat :=
  let m61 := 2 ^ 61 - 1
  let q := 2 ^ 32 - 1
  match kind with
  | 0 => (d + a) % 2 ^ 64
  | 1 => d ^^^ a
  | 2 => (d % m61 + a % m61) % m61
  | _ =>
    let lo := (bits d 0 32 + a % q) % q
    let hi := (bits d 32 32 + lo) % q
    hi * 2 ^ 32 + lo

/-- R444: it does not consume. -/
def execVCsacc (f : Lane) : State → Host.Outcome State Fault Refusal :=
  laneAlu f { tys := 0xF, vd := .op, a := .op } { vdRead := true, illegal := 240 ≤ f.vd.toNat } fun x s l =>
    let d := s.vreg x.c x.m f.vd.toNat l
    let a := x.src .a l
    outD (wordN (csacc f.ty.toNat d.val.toNat a.val.toNat)) (d.mark || a.mark)

/-! ### Poison marks (R443) -/

/-- R443. -/
def execSPoisqRegs (f : SC) : State → Host.Outcome State Fault Refusal :=
  scalarWord { w := f.w, writes := [f.d.toNat] } fun x s => .done (x.setSreg s f.d.toNat ⟨(s.core x.c).smark x.m, false⟩)

/-- R443: read at the home. -/
def execSPoisqLine (f : SC) : State → Host.Outcome State Fault Refusal :=
  let a := f.a.toNat
  scalarWord { w := f.w, reads := [a], writes := [f.d.toNat] } fun x s =>
    match checkAccess s x.c x.m Need.load false (x.sreg s a).val 1 with
    | (.bad r, _) => .trap r
    | (.wait, s) => .hold s .line
    | (.ok pa, s) =>
      let (v, s) := (List.range 4).foldl (fun (acc : Nat × State) i =>
        let at_ := pa / 128 * 128 + 32 * i
        let (r, s) := (acc.2.flushSector x.c at_).readHome (dieOf x.c) at_ 32
        (acc.1 + r.2.toNat * 2 ^ i, s)) (0, s)
      .done (x.status s f.d.toNat (wordN v) false)

/-- R443. -/
def execSPoisqSp (f : SC) : State → Host.Outcome State Fault Refusal :=
  let a := f.a.toNat
  scalarWord { w := f.w, reads := [a], writes := [f.d.toNat] } fun x s =>
    let va := (x.sreg s a).val
    match scratchPlace s x.c x.m x.m.wide (wordN (va.toNat / 128 * 128)) 128 with
    | none => .trap ⟨.scratchBounds, va, 0⟩
    | some p =>
      let v := (List.range 4).foldl (fun acc i => acc + (((s.core p.core).read (p.off + 32 * i) 32).2).toNat * 2 ^ i) 0
      .done ((x.status s f.d.toNat (wordN v) false).peerTouch x.c x.t p)

/-- R443. -/
def execSPoisqClr (f : SC) : State → Host.Outcome State Fault Refusal :=
  let a := f.a.toNat
  scalarWord { w := f.w, reads := [a], writes := [f.d.toNat] } fun x s =>
    .done (x.setSreg s f.d.toNat ⟨(x.sreg s a).val, false⟩)

/-- The substitution block at a scratchpad offset (R429); none where it is misaligned, out of bounds or has a RES0 bit set. -/
def substBlock (s : State) (c : Nat) (m : Team) (v : Word) : Option Subst :=
  if v.toNat % 32 ≠ 0 then none
  else match scratchPlace s c m m.wide v 32 with
    | none => none
    | some p =>
      let d := dwordsOf ((s.core p.core).read p.off 32).1
      if dw d 3 ≠ 0 then none
      else some ⟨d.getD 0 0, field d 0x08 0 32, BitVec.ofNat 32 (field d 0x0C 0 32), d.getD 2 0⟩

/-- R443. -/
def execSPoisqPol (f : SC) : State → Host.Outcome State Fault Refusal :=
  scalarWord { w := f.w, reads := [f.a.toNat, f.b.toNat], writes := [f.d.toNat] } fun x s =>
    let v := (x.sreg s f.a.toNat).val.toNat
    let block := substBlock s x.c x.m (x.sreg s f.b.toNat).val
    if v / 8 ≠ 0 ∨ (bit v 2 ∧ block.isNone) then .trap ⟨.illegalOperand, 0, 0⟩
    else
      let old := wordN (x.m.ctl.cpois.toNat * 2 ^ 8 + x.m.ctl.policy.toNat)
      let s := s.modTeam x.c x.t fun m => m.modCtl fun y =>
        { y with policy := BitVec.ofNat 3 v, cpois := false, subst := if bit v 2 then block else y.subst }
      .done (x.setSreg s f.d.toNat ⟨old, false⟩)

/-! ### Collectives -/

def coSrc (d : List Word) : Nat := dw d 0
def coDst (d : List Word) : Nat := dw d 1
def coCount (d : List Word) : Nat := field d 0x10 0 27
def coRoot (d : List Word) : Nat := field d 0x14 24 6
def coAlg (d : List Word) : Nat := field d 0x14 20 2
def coOp (d : List Word) : Nat := field d 0x14 16 4
def coType (d : List Word) : Nat := field d 0x14 12 4
def coKind (d : List Word) : Nat := field d 0x14 0 3
def coMembers (d : List Word) : Nat := dw d 3
def coGen (d : List Word) : Nat := field d 0x20 0 32

/-- Bytes of an element (R453). -/
def coSize (d : List Word) : Nat := if coType d = 0 ∨ coType d = 2 ∨ coType d = 3 then 8 else 4

/-- The slots of a mask, ascending. -/
def slotsOf (m : Nat) : List Nat := (List.range 64).filter fun i => bit m i

/-- Bytes of a member's input and output (R453). -/
def coInput (d : List Word) : Nat := coCount d * coSize d
def coOutput (d : List Word) : Nat := coInput d * (if coKind d = 3 then (slotsOf (coMembers d)).length else 1)

/-- What gives BAD_FIELD (R459 order 3), but for the slots and the marks. -/
def collectiveBad (d : List Word) : Bool :=
  let k := coKind d
  field d 0x10 27 5 != 0 || field d 0x14 30 2 != 0 || field d 0x14 22 2 != 0 || field d 0x14 3 9 != 0 || field d 0x24 0 32 != 0 ||
  (d.drop 5).any (· != 0) || coAlg d == 3 || decide (5 < coOp d) || decide (5 < coType d) || decide (4 < k) ||
  (decide (3 ≤ coOp d) && decide (coType d < 2)) ||
  (if k = 4 then dw d 0 != 0 || dw d 1 != 0 || coCount d != 0 || coRoot d != 0 || coOp d != 0 || coType d != 0 || coAlg d != 0
   else decide (coCount d = 0 ∨ 2 ^ 26 < coCount d) || coSrc d % 32 != 0 || coDst d % 32 != 0 ||
     (if k = 1 ∨ k = 2 then !bit (coMembers d) (coRoot d) else coRoot d != 0) ||
     decide (coSrc d < coDst d + coOutput d ∧ coDst d < coSrc d + coInput d))

/-- Whether this member reads its SRC and writes its DST (R454). -/
def coReads (d : List Word) (slot : Nat) : Bool := coKind d != 4 && (coKind d != 2 || coRoot d == slot)
def coWrites (d : List Word) (slot : Nat) : Bool := coKind d != 4 && (coKind d != 1 || coRoot d == slot)

/-- The pages of [va, va + n): the first that fails its check, with no trap where its walk must wait. -/
def pagesFault (s : State) (m : Team) (die : Nat) (need : Need) (va n : Nat) : Option (Option Raise) × State :=
  let first := va / 65536
  (List.range (if n = 0 then 0 else (va + n - 1) / 65536 - first + 1)).foldl (fun (acc : Option (Option Raise) × State) i =>
    match acc.1 with
    | some _ => acc
    | none =>
      let a := if i = 0 then va else (first + i) * 65536
      match engineXlate acc.2 die m.id.asid m.id.runtime need a with
      | (.error k, s) => (some (k.map fun k => ⟨k, wordN a, 0⟩), s)
      | (.ok _, s) => (none, s)) (none, s)

/-- The contributors of a collective at acceptance (R457 steps 1 and 4): the members that PODLIVE holds, less those that EXCLUDE has named; with
how many it has named. -/
def contributorsOf (s : State) (d : List Word) : List Nat × Nat :=
  let live := (slotsOf (coMembers d)).filter s.present
  let out (i : Nat) : Bool := s.sched.excluded.contains (i, coGen d)
  (live.filter fun i => !out i, (live.filter out).length)

/-- R459: a release at domain scope (R456); the descriptor is read once, after the commit and the release. -/
def execSColl (f : SC) : State → Host.Outcome State Fault Refusal :=
  let a := f.a.toNat
  scalarWord { w := f.w, reads := [a], writes := [f.d.toNat], consumes := [a], noisy := true } fun x s =>
    match checkAccess s x.c x.m Need.load false (x.sreg s a).val 64 with
    | (.bad r, _) => .trap r
    | (.wait, s) => .hold s .line
    | (.ok pa, s) => commitFirst x s fun s => releaseFirst x s scDomain fun s =>
      match descriptorPoison x.m a (s.mem.mark pa 64) with
      | some r => .trap r
      | none =>
        let ((bs, mk), s) := s.readHome (dieOf x.c) pa 64
        let d := dwordsOf bs
        let own := s.boot.podSlot
        let held := s.sched.collectives.any fun e => match e.2 with
          | some y => y.gen == coGen d && y.members == coMembers d && y.asid == x.m.id.asid
          | none => false
        let bad := mk || collectiveBad d || held
        let member := bit (coMembers d) own
        let (fault, s) := if bad || !member then (none, s)
          else
            let (r, s) := if coReads d own then pagesFault s x.m (dieOf x.c) Need.load (coSrc d) (coInput d) else (none, s)
            if r.isSome then (r, s)
            else if coWrites d own then pagesFault s x.m (dieOf x.c) Need.range (coDst d) (coOutput d) else (none, s)
        match fault with
        | some (some r) => .trap r
        | some none => .hold s .line
        | none =>
          let m := x.now s
          let status (s : State) (handle code : Nat) : Eff :=
            .done (x.status s f.d.toNat (wordN (coGen d * 2 ^ 32 + handle * 2 ^ 8 + code)) (mk || x.marked s [a]))
          if bad then status s 0 1
          else if !member then status s 0 2
          else match (List.range 32).find? fun i => (s.sched.collectives.get none i).isNone with
            | none => status s 0 8
            | some h =>
              let (live, outs) := contributorsOf s d
              -- a root that is lost already leaves C at once (R457, DEDUCED, log entry 90)
              let rootLost := (coKind d == 1 || coKind d == 2) && !live.contains (coRoot d)
              let ended : Option Nat := if !live.contains own then some 7 else if rootLost then some 9 else none
              let (ps, s) := if coWrites d own && ended.isNone then s.pieces none (dieOf x.c) m.id.asid m.id.runtime Need.range (coDst d) (coOutput d)
                else ([], s)
              if s.rangesFull ps then .hold s .line
              else
                let (n, s) := s.fresh
                let y : Collective :=
                  { gen := coGen d, members := coMembers d, asid := m.id.asid, desc := d, launch := m.id.launch, team := x.t,
                    runtime := m.id.runtime, contributors := (live.map (2 ^ ·)).foldl (· + ·) 0, restarts := outs,
                    poisoned := false, code := ended, orphan := false, order := n }
                status ((s.register n ps).modSched fun z => { z with
                  collectives := z.collectives.set none h (some y), excluded := z.excluded.filter fun e => e.2 != coGen d }) h 0

/-- The collective that an acceptance status names, with its slot (R460). -/
def State.heldCollective (s : State) (v : Word) : Option (Nat × Collective) :=
  let h := bits v.toNat 8 8
  match s.sched.collectives.get none h with
  | some y => if bits v.toNat 32 32 = y.gen ∧ bits v.toNat 0 8 = 0 then some (h, y) else none
  | none => none

/-- The status of `s.cwait` (R460). -/
def cwaitStatus (y : Collective) (code : Nat) : Word :=
  wordN (y.gen * 2 ^ 32 + y.restarts * 2 ^ 16 + y.poisoned.toNat * 2 ^ 8 + code)

/-- Writes the status pair of `s.cwait`. -/
def State.cwaitDone (s : State) (c t d : Nat) (mark : Bool) (v : Word) (mask : Nat) : State :=
  (s.longScalar c t [(d, ⟨v, mark⟩), (d + 1, ⟨wordN mask, mark⟩)] [] true false).2

/-- R460: an acquire at domain scope when it returns OK or DEGRADED (R456). -/
def execSCwait (f : SC) : State → Host.Outcome State Fault Refusal :=
  let a := f.a.toNat
  let d := f.d.toNat
  scalarWord { w := f.w, reads := [a], writes := [d, d + 1], consumes := [a], even := [d] } fun x s =>
    commitFirst x s fun s =>
      let v := x.sreg s a
      match s.heldCollective v.val with
      | none =>
        -- the GEN of a slot that is not the word's is not stated (DESIGN CHOICE, log entry 3)
        let (w, s) := s.freeWord
        .done (s.cwaitDone x.c x.t d v.mark (wordN (bits w.toNat 32 32 * 2 ^ 32 + 10)) 0)
      | some (h, y) =>
        match y.code with
        | none => .hold s (.collective d h y.gen v.mark)
        | some code =>
          let good := code = 0 ∨ code = 6
          let s := s.modSched fun z => { z with collectives := z.collectives.set none h none }
          let s := s.cwaitDone x.c x.t d v.mark (cwaitStatus y code) (if good then y.contributors else 0)
          .done (if good then s.acquire x.c scDomain else s)

end Sys2Proof.Machine
end

