-- ==== Sys2Proof/Machine/System.lean ====
section
/-!
DEFINITION. The system words (R380, R390, R395, R396), the privileged registers (R372), pre-emption and kill (R391 to R394).
-/
namespace Sys2Proof.Machine

/-! ### Groups of a launch (R295, R391) -/

/-- The sub-rectangle of a group code: X, Y, log2 of width and height. -/
structure GroupRect where
  x : Nat
  y : Nat
  lw : Nat
  lh : Nat

def groupRect (code : Nat) : GroupRect := ⟨bits code 0 5, bits code 5 4, bits code 9 3, bits code 12 3⟩

/-- log2 of the sides of a launch's rectangle, and whether it uses clusters (R335). -/
def ldLw (d : List Word) : Nat := field d 0x18 23 3
def ldLh (d : List Word) : Nat := field d 0x18 26 3
def ldClusters (d : List Word) : Bool := field d 0x18 22 1 == 1

/-- The code is legal for a launch (R295, R391). -/
def GroupRect.legal (g : GroupRect) (d : List Word) : Bool :=
  g.x % 2 ^ g.lw == 0 && g.y % 2 ^ g.lh == 0 && decide (g.lw ≤ 5 ∧ g.lh ≤ 4) &&
  decide (g.x + 2 ^ g.lw ≤ 2 ^ ldLw d ∧ g.y + 2 ^ g.lh ≤ 2 ^ ldLh d) && (!ldClusters d || decide (2 ≤ g.lw ∧ 1 ≤ g.lh))

/-- The pre-emption group of a launch-relative core: its own number, or that of its cluster's first core. -/
def groupOf (clusters : Bool) (cx cy : Nat) : Nat := if clusters then cy / 2 * 2 * 32 + cx / 4 * 4 else cy * 32 + cx

/-- The groups inside a sub-rectangle. -/
def GroupRect.groups (g : GroupRect) (clusters : Bool) : List Nat :=
  sortNats ((List.range (2 ^ g.lh)).flatMap fun dy => (List.range (2 ^ g.lw)).map fun dx => groupOf clusters (g.x + dx) (g.y + dy))

/-- The resident teams of a launch: core, TEAM_INDEX, team. -/
def State.launchTeams (s : State) (l : Nat) : List (Nat × Nat × Team) :=
  s.cores.flatMap fun e => (e.2.residents.filter fun t => t.2.id.launch == l).map fun t => (e.1, t.1, t.2)

/-- The resident teams of a pre-emption group. -/
def State.groupTeams (s : State) (l g : Nat) (clusters : Bool) : List (Nat × Nat × Team) :=
  (s.launchTeams l).filter fun e => groupOf clusters e.2.2.id.cx e.2.2.id.cy == g

/-- The placed launch that a GEN and a QUEUE name, on this package. -/
def State.findLaunch (s : State) (gen queue : Nat) : Option (Nat × Launch) :=
  s.sched.launches.findSome? fun e => e.2.bind fun l => if l.gen = gen ∧ l.queue = queue then some (e.1, l) else none

/-- PSTAT of a team (R372). -/
def State.setPstat (s : State) (c t gen code : Nat) : State :=
  s.modTeam c t fun m => m.modRegs fun r => { r with pstat := wordN (gen * 2 ^ 32 + code) }

/-- The groups of a launch with a pending request. -/
def State.pendingGroups (s : State) (gen queue : Nat) : List Nat :=
  (s.sched.preqs.filter fun p => bits p.value.toNat 32 32 == gen && bits p.value.toNat 15 17 == queue).flatMap (·.groups)

/-- Free save records of a launch's address space, at least n of them if there are so many: of the pool that its context named when the launch was
placed (R371, R391). -/
def State.freeRecords (s : State) (x : Launch) (n : Nat) : List Nat :=
  let asid := x.asid
  let total := field x.ctx 0x18 0 32
  let used := s.sched.records.length
  ((List.range (n + used)).filter fun k => decide (k < total) && !s.sched.records.contains (asid, k)).take n

/-- A write of PREQ (R391). -/
def State.preq (s : State) (c t : Nat) (v : Word) : State :=
  let gen := bits v.toNat 32 32
  let queue := bits v.toNat 15 17
  let rect := groupRect (bits v.toNat 0 15)
  match s.findLaunch gen queue with
  | none => s.setPstat c t gen 4
  | some (l, x) =>
    if !rect.legal x.desc then s.setPstat c t gen 1
    else
      let cl := ldClusters x.desc
      let pending := s.pendingGroups gen queue
      let named := (rect.groups cl).filter fun g => !(s.groupTeams l g cl).isEmpty
      let new := named.filter fun g => !pending.contains g
      let teams := new.flatMap fun g => s.groupTeams l g cl
      let recs := s.freeRecords x teams.length
      if recs.length < teams.length then s.setPstat c t gen 2
      else if teams.any fun e => !e.2.2.hasHandler then s.setPstat c t gen 5
      else if named.isEmpty then s.setPstat c t gen 0
      else
        let s := (teams.zip recs).foldl (fun s e =>
          (s.modTeam e.1.1 e.1.2.1 fun m => m.modTrap fun y => { y with preempt := some e.2 }).modSched fun z =>
            { z with records := (x.asid, e.2) :: z.records }) s
        (s.modSched fun z => { z with
          preqs := (z.preqs.filter fun p => !(p.value == v && p.groups.isEmpty)) ++ [⟨c, t, v, named⟩] }).setPstat c t gen 3

/-- A team's request to save is withdrawn, its record returned (R391). -/
def State.withdraw (s : State) (asid c t : Nat) : State :=
  match s.team c t with
  | none => s
  | some m =>
    match m.trap.preempt with
    | none => s
    | some k =>
      (s.modTeam c t fun m => m.modTrap fun y => { y with preempt := none }).modSched fun z =>
        { z with records := z.records.filter (· != (asid, k)) }

/-- No team of a group has yet had PREEMPT delivered. -/
def State.undelivered (s : State) (l g : Nat) (cl : Bool) : Bool := (s.groupTeams l g cl).all fun e => e.2.2.trap.preempt.isSome

/-- A write of PCANCEL (R391). A request whose named groups have all had PREEMPT delivered and are not all saved yet answers PENDING, and DONE once
they are (DESIGN CHOICE, log entry 117). -/
def State.pcancel (s : State) (c t : Nat) (v : Word) : State :=
  let gen := bits v.toNat 32 32
  let queue := bits v.toNat 15 17
  match (s.sched.preqs.filter fun p => p.value == v).getLast?, s.findLaunch gen queue with
  | some p, some (l, x) =>
    let cl := ldClusters x.desc
    let free := p.groups.filter fun g => s.undelivered l g cl
    let left := p.groups.filter fun g => !s.undelivered l g cl
    let s := (free.flatMap fun g => s.groupTeams l g cl).foldl (fun s e => s.withdraw x.asid e.1 e.2.1) s
    let shrink (q : Preq) : Preq := if q.value = v then { q with groups := left } else q
    let gone (q : Preq) : Bool := q.value == v && left.isEmpty && !free.isEmpty
    let mine : List Preq := if free.isEmpty && !left.isEmpty && (p.core, p.team) != (c, t) then [⟨c, t, v, left⟩] else []
    let s := s.modSched fun z => { z with preqs := ((z.preqs.map shrink).filter fun q => !gone q) ++ mine }
    s.setPstat c t gen (if !free.isEmpty then 6 else if left.isEmpty then 0 else 3)
  | _, _ => s.setPstat c t gen 4

/-- A team stops by a kill: its region is discarded, its rings become BROKEN, its counts are dropped (R394). -/
def State.killTeam (s : State) (c t : Nat) : State :=
  match (s.discard c t).team c t with
  | none => s
  | some m => m.rings.foldl (fun s r => s.breakRing c m r.1) (s.discard c t)

/-- The save records that the teams of a launch hold or have been given (R391). -/
def State.launchRecords (s : State) (l : Nat) : List Nat :=
  ((s.launchTeams l).flatMap fun e => e.2.2.trap.preempt.toList ++ e.2.2.trap.record.toList) ++
  ((s.sched.saved.filter fun g => g.launch == l).flatMap fun g => g.teams.map (·.record))

/-- A launch is killed and published again at the head of its queue (R394). Its save records return to the pool (DEDUCED, log entry 117). -/
def State.kill (s : State) (l : Nat) (x : Launch) : State :=
  let records := s.launchRecords l
  let s := (s.launchTeams l).foldl (fun s e => (s.killTeam e.1 e.2.1).orphan l e.2.1) s
  let s := (s.sched.saved.filter fun g => g.launch == l).foldl (fun s g => g.teams.foldl (fun s m => s.orphan l m.id.index) s) s
  let s := (s.freeCores l).setLaunch l none
  let s := s.modSched fun z => { z with
    saved := z.saved.filter fun g => g.launch != l
    records := z.records.filter fun r => !(r.1 == x.asid && records.contains r.2)
    preqs := z.preqs.filter fun p => !(bits p.value.toNat 32 32 == x.gen && bits p.value.toNat 15 17 == x.queue) }
  let d := s.queueDesc x.queue
  if qKind d = 2 then s.setQueue x.queue { s.queue x.queue with instance_ := none }
  else
    let head := (qHead d + 2 ^ 32 - 1) % 2 ^ 32
    let s := match s.queueEntry x.queue head 64 Need.store with
      | (.ok pa, s) => s.engineWrite pa (bytesOfDwords x.desc) false
      | (_, s) => s
    (s.queueField x.queue 0x08 4 head).lookQueue x.queue

/-- A kill must wait: a team of the launch is between HALT and RESTORE (R423), or an engine writes the line of the queue's head (R228). -/
def State.killWaits (s : State) (l : Nat) (x : Launch) : Bool :=
  let d := s.queueDesc x.queue
  (s.launchTeams l).any (fun e => e.2.2.halted) ||
  (qKind d != 2 && match (s.queueEntry x.queue ((qHead d + 2 ^ 32 - 1) % 2 ^ 32) 64 Need.store).1 with | .wait => true | _ => false)

/-- A write of PKILL (R394): it acts at once, or when what it waits for has ended. -/
def State.pkill (s : State) (v : Word) : State :=
  match s.findLaunch (bits v.toNat 32 32) (bits v.toNat 15 17) with
  | some (l, x) => if s.killWaits l x then s.modSched fun z => { z with kills := z.kills ++ [v] } else s.kill l x
  | none => s

/-- The kill requests that have waited are tried again, in order. -/
def State.serveKills (s : State) : State :=
  s.sched.kills.foldl (fun s v => s.pkill v) (if s.sched.kills.isEmpty then s else s.modSched fun z => { z with kills := [] })

/-! ### Privileged registers (R372) -/

/-- The writable fields of MIGCTL (R383). -/
def migctlWrite (v : Word) : Word := wordN (bits v.toNat 0 24 + bits v.toNat 31 1 * 2 ^ 31)

/-- A breakpoint register's writable fields (R387). -/
def bkptWrite (v : Word) : Word := wordN (bits v.toNat 62 2 * 2 ^ 62 + bits v.toNat 0 54)

/-- A read of a privileged register. -/
def privRead (s : State) (c : Nat) (m : Team) (n : Nat) : Option Word :=
  if n = 0x800 then some (wordN (physCore s c))
  else if n = 0x801 then some (wordN m.id.asid)
  else if n = 0x802 then some (wordN s.boot.ctxBase)
  else if n = 0x804 ∨ n = 0x805 ∨ n = 0x808 then some 0
  else if n = 0x806 then some m.regs.pstat
  else if n = 0x807 then some (s.die (dieOf c)).migctl
  else if 0x810 ≤ n ∧ n ≤ 0x813 then some (m.regs.bkpt.getD (n - 0x810) 0)
  else none

/-- Numbers that `s.mfp` reads and `s.mtp` writes. -/
def privListed (n : Nat) : Bool :=
  n == 0x800 || n == 0x801 || n == 0x802 || (0x804 ≤ n && n ≤ 0x808) || (0x810 ≤ n && n ≤ 0x813)
def privWritable (n : Nat) : Bool := n == 0x804 || n == 0x805 || n == 0x807 || n == 0x808 || (0x810 ≤ n && n ≤ 0x813)

/-- A write of a privileged register. -/
def privWrite (s : State) (c t n : Nat) (v : Word) : State :=
  if n = 0x804 then s.preq c t v
  else if n = 0x805 then s.pkill v
  else if n = 0x808 then s.pcancel c t v
  else if n = 0x807 then s.modDie (dieOf c) fun k => { k with migctl := migctlWrite v }
  else s.modTeam c t fun m => m.modRegs fun r => { r with bkpt := setReg 0 4 r.bkpt (n - 0x810) (bkptWrite v) }

/-- R395. -/
def execSMfp (f : SSpec) : State → Host.Outcome State Fault Refusal :=
  let n := f.num.toNat
  scalarWord { w := f.w, writes := [f.d.toNat], priv := true, illegal := fun _ => !privListed n } fun x s =>
    .done (x.setSreg s f.d.toNat ⟨(privRead s x.c x.m n).getD 0, false⟩)

/-- R395. A team that a PKILL of its own ends issues no further word. -/
def execSMtp (f : SSpec) : State → Host.Outcome State Fault Refusal :=
  let n := f.num.toNat
  scalarWord { w := f.w, reads := [f.d.toNat], priv := true, illegal := fun _ => !privWritable n } fun x s =>
    .done (privWrite s x.c x.t n (x.sreg s f.d.toNat).val)

/-! ### Traps by program (R395, R396) -/

/-- R395. -/
def execSTrap (f : SC) : State → Host.Outcome State Fault Refusal :=
  let a := f.a.toNat
  scalarWord { w := f.w, reads := [a] } fun x s => .trap ⟨.software, (x.sreg s a).val, 0⟩

/-- R396. -/
def execVTrap (f : Lane) : State → Host.Outcome State Fault Refusal :=
  laneWord f { tys := 1, imm := immAll } {} fun x s =>
    if x.lanes.isEmpty then .next s else .trap ⟨.software, wordN f.imm.toNat, maskOf x.lanes⟩

/-! ### Return (R390) -/

/-- R390: PRIVILEGE in team mode outside handler state; in handler state it waits, then the handler ends. -/
def execSEret (f : SC) : State → Host.Outcome State Fault Refusal :=
  scalarWord { w := f.w } fun x s =>
    let pc := x.m.trap.regs.spc
    if !x.m.trap.handler then
      if !x.m.id.runtime then .trap ⟨.privilege, 0, 0⟩
      else if pc.toNat % 4 ≠ 0 then .trap ⟨.misaligned, pc, 0⟩
      else .jump ((s.modTeam x.c x.t fun m => { m with id := { m.id with runtime := false } }).setSpin x Spin.init) pc
    else if pc.toNat % 4 ≠ 0 then .trap ⟨.misaligned, pc, 0⟩
    else if x.m.trap.split.isSome && decide (x.m.trap.regs.lpc.toNat % 4 ≠ 0) then .trap ⟨.misaligned, x.m.trap.regs.lpc, 0⟩
    else if !x.m.blocksDone then .hold s .lwait
    else if x.m.halted || !drained s x.c x.t x.m || !x.m.saveReleased s x.c then .hold s .drain
    else if x.m.resumes && (match x.m.header s x.c with | .error w => w | .ok _ => false) then .hold s .line
    else
      let s := (s.flushTally x.c x.t).modTeam x.c x.t fun m => m.modSched fun y =>
        { y with hold := none, lastScalar := s.cycles, spin := Spin.init }
      match s.team x.c x.t with
      | some m => .gone (returnFromTrap s x.c x.t m)
      | none => .gone s

/-! ### Translations invalidated (R380) -/

/-- What an `s.tlbi` names. -/
inductive TlbiKind where
  | va (v asid : Nat)
  | asid (a : Nat)
  | all

def TlbiKind.entry (k : TlbiKind) (e : TlbEntry) : Bool :=
  match k with
  | .va v a => e.asid == a && e.base == v / 2 ^ levelShift e.level
  | .asid a => e.asid == a
  | .all => true

def TlbiKind.upper (k : TlbiKind) (e : UpperEntry) : Bool :=
  match k with
  | .va v a => e.asid == a && e.base == v / 2 ^ (levelShift e.level + 10)
  | .asid a => e.asid == a
  | .all => true

/-- Removes the entries of the package that match; a root in use is read again after an `.asid` or `.all` (R371). -/
def State.tlbi (s : State) (k : TlbiKind) : State :=
  let s := { s with
    cores := s.cores.mapVals Core.init fun c => { c with tlb := c.tlb.filter fun e => !k.entry e }
    dies := s.dies.mapVals Die.init fun d => { d with tlb := d.tlb.filter (fun e => !k.entry e), upper := d.upper.filter fun e => !k.upper e } }
  s.modSched fun z => { z with roots := match k with
    | .va _ _ => z.roots
    | .asid a => z.roots.set none a none
    | .all => [] }

/-- A store of an address space to an address may have used an entry that matches: for `.va` one of the largest leaf's size, since the entry is gone
(DEDUCED, log entry 118). -/
def TlbiKind.used (k : TlbiKind) (asid : Option Nat) (va : Word) : Bool :=
  match k with
  | .va v a => (asid == none || asid == some a) && va.toNat / 2 ^ levelShift 1 == v / 2 ^ levelShift 1
  | .asid a => asid == none || asid == some a
  | .all => true

/-- A store that may have used an entry that matches is not performed yet: on its way home, or held by a region. -/
def State.tlbiWaits (s : State) (k : TlbiKind) : Bool :=
  s.cores.any fun e =>
    (e.2.inflight.any fun y => k.used ((e.2.teams.get none y.team).map (·.id.asid)) y.va) ||
    e.2.residents.any fun t => match t.2.region with
      | some g => g.held.any fun h => k.used (some t.2.id.asid) h.va
      | none => false

/-- The shape of `s.tlbi`: `dom` sends the invalidation to every other present package. -/
def tlbiWord (f : SC) (dom : Bool) (srcs : List Nat) (bad : Word → Word → Bool) (kind : Word → Word → TlbiKind) :
    State → Host.Outcome State Fault Refusal :=
  scalarWord { w := f.w, reads := srcs, writes := [f.d.toNat], consumes := srcs, priv := true } fun x s =>
    commitFirst x s fun s => releaseFirst x s (if dom then scDomain else scPackage) fun s =>
      let a := (x.sreg s f.a.toNat).val
      let b := (x.sreg s f.b.toNat).val
      let status (s : State) (v : Nat) : Eff := .done (x.status s f.d.toNat (wordN v) (x.marked s srcs))
      if bad a b then status s 1
      else
        let k := kind a b
        let s := s.tlbi k
        if s.tlbiWaits k then .hold s .drain
        else
          let peers := if dom then (slotsOf s.boot.podLive.toNat).filter (· != s.boot.podSlot) else []
          status (peers.foldl (fun s p => s.sendPeer (.invalidate p)) s) 0

/-- R380. -/
def execSTlbiVa (dom : Bool) (f : SC) : State → Host.Outcome State Fault Refusal :=
  tlbiWord f dom [f.a.toNat, f.b.toNat] (fun a b => bits a.toNat 54 10 != 0 || bits b.toNat 16 48 != 0)
    fun a b => .va a.toNat (bits b.toNat 0 16)
/-- R380. -/
def execSTlbiAsid (dom : Bool) (f : SC) : State → Host.Outcome State Fault Refusal :=
  tlbiWord f dom [f.b.toNat] (fun _ b => bits b.toNat 16 48 != 0) fun _ b => .asid (bits b.toNat 0 16)
/-- R380. -/
def execSTlbiAll (dom : Bool) (f : SC) : State → Host.Outcome State Fault Refusal :=
  tlbiWord f dom [] (fun _ _ => false) fun _ _ => .all

end Sys2Proof.Machine
end

