-- ==== Sys2Proof/Machine/Preempt.lean ====
section
/-!
DEFINITION. Cores held for launches to be placed (R338), saving and resuming pre-emption groups (R392, R393) and the events of pre-emption and kill
(R391, R394).
-/
namespace Sys2Proof.Machine

/-! ### Cores held for launches (R338) -/

/-- The launch-relative cores of a launch: cy × 32 + cx. -/
def relCores (d : List Word) : List Nat :=
  (List.range (2 ^ ldLh d)).flatMap fun y => (List.range (2 ^ ldLw d)).map fun x => y * 32 + x

/-- The cores of an aligned place. -/
def placeCores (d : List Word) (p : Nat × Nat) : List Nat :=
  (relCores d).map fun r => coreAt (p.1 + r % 32) (p.2 + r / 32)

/-- The cores of the places that are fixed for an offer. -/
def Offer.cores (o : Offer) : List Nat :=
  (match o.place with | some p => placeCores o.desc p | none => []) ++ (match o.shadow with | some p => placeCores o.desc p | none => [])

/-- Every launch taken for placement and not yet placed: of queues, and of other packages. -/
def State.offers (s : State) : List Offer := (s.sched.queues.filterMap fun e => e.2.offer) ++ s.sched.replicas

/-- A core is free to take a launch's work that is no offer's: it has none, it is in service and it is not held. -/
def State.coreFree (s : State) (c : Nat) : Bool :=
  (s.core c).part.isNone && (s.core c).health.status == .inService && !(s.offers.any fun o => o.cores.contains c)

/-! ### The cores of a group -/

/-- The launch-relative cores of a group: cy × 32 + cx. -/
def groupPlaces (cl : Bool) (g : Nat) : List Nat :=
  if cl then (List.range 8).map fun r => g + r % 4 + 32 * (r / 4) else [g]

/-- The resident cores of a group: launch-relative place and physical core. -/
def State.groupCores (s : State) (l g : Nat) (cl : Bool) : List (Nat × Nat) :=
  (groupPlaces cl g).filterMap fun r =>
    (s.cores.find? fun e => match e.2.part with | some p => p.launch == l && p.cy * 32 + p.cx == r | none => false).map fun e => (r, e.1)

/-! ### Saving (R392 step 4) -/

/-- A copy that is not complete writes scratchpad of one of these cores. -/
def State.copiesInto (s : State) (cs : List Nat) : Bool :=
  s.clusters.any fun e => e.2.copies.any fun x => cpDstSp x.desc && cs.contains (s.enginePlace x.core (cpDst x.desc)).core

/-- Every team of a group has yielded in its handler, and the waits of the save have ended. -/
def State.groupYielded (s : State) (l g : Nat) (cl : Bool) : Bool :=
  let ts := s.groupTeams l g cl
  !ts.isEmpty && ts.all (fun e => e.2.2.trap.yielded && e.2.2.wdq == 0) && !s.copiesInto ((s.groupCores l g cl).map (·.2))

/-- What a save keeps of a core beside its teams. -/
def savedCore (k : Core) (p : Partition) : SavedCore :=
  let inside (off : Nat) : Bool := decide (p.spBase ≤ off ∧ off < p.spBase + p.spSize)
  { cx := p.cx, cy := p.cy, part := p, leader := (k.leader.bind (k.teams.get none)).bind (·.trap.record),
    scratch := k.store.keep fun u _ => inside (8 * u), marks := k.sectorMarks.keep fun u _ => inside (32 * u),
    barriers := k.barriers, streams := k.streams }

/-- The virtual address of save record k of a launch's teams (R371, R391). -/
def Launch.recordVa (x : Launch) (k : Nat) : Nat := wrapN 64 (dw x.ctx 2 + 2 ^ 22 * k : Int)

/-- Writes the scratchpad area of a core into the save record of its leader, sector by sector with its marks. -/
def State.saveScratch (s : State) (d : Nat) (x : Launch) (k : Core) (p : Partition) (r : Nat) : State :=
  (sectorsOf p.spBase p.spSize).foldl (fun s u =>
    let (bs, pm) := k.read (32 * u) 32
    s.deviceWrite d x.asid (x.recordVa r + 0x240000 + (32 * u - p.spBase)) bs pm) s

/-- Saves a core of a group and frees it; the save is an acquire at system scope (R293). -/
def State.saveCore (s : State) (l : Launch) (c : Nat) : Option SavedCore × State :=
  let k := s.core c
  match k.part with
  | none => (none, s)
  | some p =>
    let x := savedCore k p
    let s := match x.leader with
      | some r => s.saveScratch (dieOf c) l k p r
      | none => s
    (some (if x.leader.isSome then { x with scratch := [], marks := [] } else x), (s.modCore c Core.leave).acquire c scSystem)

/-- A team of a group as the save keeps it. -/
def savedTeam (s : State) (m : Team) : Option SavedTeam :=
  m.trap.record.bind fun r => (s.sched.images.get none (recordKey m.id.asid r)).map fun i =>
    { id := m.id, image := { i with rings := m.rings, seq := m.seq, wdq := 0 }, record := r }

/-- A group no longer belongs to the pending requests; a request without a group left is done, and PSTAT of its team says so if
it is the last that the team wrote. A request that is done is kept, for a PCANCEL that names it (R391). -/
def State.groupDone (s : State) (x : Launch) (g : Nat) : State :=
  let mine (p : Preq) : Bool := bits p.value.toNat 32 32 == x.gen && bits p.value.toNat 15 17 == x.queue
  let shrink (p : Preq) : Preq := if mine p then { p with groups := p.groups.filter (· != g) } else p
  let after := s.sched.preqs.map shrink
  let last (p : Preq) : Bool := match (after.filter fun q => q.core == p.core && q.team == p.team).getLast? with
    | some q => q == p
    | none => false
  let pending (p : Preq) : Bool := match s.team p.core p.team with
    | some m => m.regs.pstat == wordN (bits p.value.toNat 32 32 * 2 ^ 32 + 3)
    | none => false
  let s' := ((s.sched.preqs.filter fun p => !p.groups.isEmpty).map shrink |>.filter fun p => p.groups.isEmpty && last p && pending p).foldl
    (fun s p => s.setPstat p.core p.team (bits p.value.toNat 32 32) 0) s
  s'.modSched fun z => { z with preqs := after }

/-- Saves a group whose teams have all yielded (R392 step 4). -/
def State.saveGroup (s : State) (l : Nat) (x : Launch) (g : Nat) (cl : Bool) : State :=
  let cs := s.groupCores l g cl
  let teams := (s.groupTeams l g cl).filterMap fun e => savedTeam s e.2.2
  let (cores, s) := cs.foldl (fun (acc : List SavedCore × State) e =>
    match acc.2.saveCore x e.2 with
    | (some k, s) => (acc.1 ++ [k], s)
    | (none, s) => (acc.1, s)) ([], s)
  (s.modSched fun z => { z with saved := z.saved ++ [⟨l, cl, cores, teams⟩] }).groupDone x g

/-- Completes the save of every pending group that is ready for it; a group whose teams have all retired is done. -/
def State.trySaves (s : State) : State :=
  s.sched.preqs.foldl (fun s p =>
    match s.findLaunch (bits p.value.toNat 32 32) (bits p.value.toNat 15 17) with
    | none => s.modSched fun z => { z with preqs := z.preqs.filter (· != p) }
    | some (l, x) =>
      let cl := ldClusters x.desc
      p.groups.foldl (fun s g =>
        if s.groupYielded l g cl then s.saveGroup l x g cl
        else if (s.groupTeams l g cl).isEmpty then s.groupDone x g
        else s) s) s

/-! ### Resumption (R393) -/

/-- The scratchpad area of a resumed core: from its leader's record, or as it was kept. -/
def State.resumeScratch (s : State) (d c : Nat) (l : Launch) (x : SavedCore) : State :=
  match x.leader with
  | none => s.modCore c fun k => { k with store := x.scratch, sectorMarks := x.marks }
  | some r =>
    (sectorsOf x.part.spBase x.part.spSize).foldl (fun s u =>
      match engineXlate s d l.asid true Need.load (l.recordVa r + 0x240000 + (32 * u - x.part.spBase)) with
      | (.ok pa, s) =>
        let ((bs, pm), s) := s.readHome d pa 32
        s.modCore c fun k => k.write (32 * u) bs pm
      | (.error _, s) => s) s

/-- The save record of a core to be resumed has a line that must be waited for (R228). -/
def State.resumeWaits (s : State) (d : Nat) (l : Launch) (x : SavedCore) : Bool :=
  match x.leader with
  | none => false
  | some r => (sectorsOf x.part.spBase x.part.spSize).any fun u =>
    match (engineXlate s d l.asid true Need.load (l.recordVa r + 0x240000 + (32 * u - x.part.spBase))).1 with
    | .ok pa => s.blocked pa none
    | .error c => c.isNone

/-- A team of a resumed group in handler state at STRAPVEC (R393 step 2), its accumulator window at `base`. -/
def resumeTeam (s : State) (c : Nat) (t : SavedTeam) (base : Nat) : State :=
  let m := Team.start t.id t.image.lease s.cycles
  let va := t.id.recordVa t.record
  let m := { m with
    regs := { m.regs with
      spc := t.id.strapvec, accBase := base, accLimit := base + t.image.window, pstat := t.image.regs.pstat,
      bkpt := t.image.regs.bkpt }
    ctl := Ctl.init t.image.ctl.live
    trap := { m.trap with
      regs := ⟨causeWord .preempt none true false, 0, 0, va, 0⟩, handler := true, record := some t.record }
    seq := t.image.seq, rings := t.image.rings }
  let s := s.setTeam c t.id.index (some m)
  s.setSreg c m 63 ⟨wordN (handlerBlock (s.core c) m), false⟩

/-- Teams of one core are resumed in ascending TEAM_INDEX, their accumulator windows side by side. -/
def resumeTeams (c : Nat) : List SavedTeam → Nat → State → State
  | [], _, s => s
  | t :: rest, base, s => resumeTeams c rest (base + t.image.window) (resumeTeam s c t base)

/-- A saved core is set up on a physical core. -/
def State.resumeCore (s : State) (l : Nat) (y : Launch) (teams : List SavedTeam) (x : SavedCore) (c : Nat) : State :=
  let s := s.modCore c fun k => k.setUp { x.part with launch := l, setup := true, setupAt := s.cycles }
  let s := (s.resumeScratch (dieOf c) c y x).modCore c fun k => { k with barriers := x.barriers, streams := x.streams }
  let mine := teams.filter fun t => t.id.cx == x.cx && t.id.cy == x.cy
  let s := resumeTeams c (sortBy (fun a b => decide (a.id.index < b.id.index)) mine) 0 s
  let s := match s.launch l with
    | some y => s.setLaunch l (some { y with cores := y.cores.set 0 (x.cy * 32 + x.cx) c })
    | none => s
  s.acquire c scSystem

/-- The physical core that a saved core takes at a place: the core itself, or that of its rank in the cluster. -/
def resumePlace (g : SavedGroup) (place : Nat) (x : SavedCore) : Nat :=
  if g.clusters then (coresOfCluster place).getD (rankOf x.cx x.cy) 0 else place

/-- A saved group resumes at a free place: a core, or a cluster (R393). -/
def execGroupResume (group place : Nat) (s : State) : Host.Outcome State Fault Refusal :=
  .next (match s.sched.saved[group]? with
  | none => s
  | some g =>
    match s.launch g.launch with
    | none => s
    | some x =>
      let inside := if g.clusters then decide (place < 64) else decide (place < 512)
      let needed := if g.clusters then coresOfCluster place else [place]
      if !inside || !(needed.all s.coreFree) || g.cores.any (fun k => s.resumeWaits (dieOf (resumePlace g place k)) x k) then s
      else
        let s := g.cores.foldl (fun s k => s.resumeCore g.launch x g.teams k (resumePlace g place k)) s
        s.modSched fun z => { z with saved := (z.saved.take group) ++ z.saved.drop (group + 1) })

/-! ### Requests (R391, R394) -/

/-- A team may write the privileged registers. -/
def State.runtimeTeam (s : State) (c t : Nat) : Bool :=
  match s.team c t with
  | some m => m.id.runtime
  | none => false

/-- R391: the effect of a write of PREQ by a runtime-mode team. -/
def execPreq (core team : Nat) (v : Word) (s : State) : Host.Outcome State Fault Refusal :=
  .next (if s.runtimeTeam core team then s.preq core team v else s)
/-- R391: the effect of a write of PCANCEL. -/
def execPcancel (core team : Nat) (v : Word) (s : State) : Host.Outcome State Fault Refusal :=
  .next (if s.runtimeTeam core team then s.pcancel core team v else s)
/-- R394: the effect of a write of PKILL. -/
def execPkill (core team : Nat) (v : Word) (s : State) : Host.Outcome State Fault Refusal :=
  .next (if s.runtimeTeam core team then s.pkill v else s)

end Sys2Proof.Machine
end

