-- ==== Sys2Proof/Machine/EventsTeam.lean ====
section
/-!
DEFINITION. The events of resident teams: long results, switch markers (R303, R304), waits and their timeouts, the active set
(R347 to R354). An event that finds its condition false changes nothing (DESIGN CHOICE, log entry 1).
-/
namespace Sys2Proof.Machine

/-! ### Long results (R231, R304) -/

/-- A long result changes a scalar register or predicate. -/
def LongRes.scalarNews (p : LongRes) (k : Core) (m : Team) : Bool :=
  p.sregs.any (fun r => (k.sreg m r.1).val != r.2.val) || p.ks.any fun r => m.regs.pred r.1 != r.2.1

/-- A long result changes a register or predicate that a split awaits. -/
def LongRes.splitNews (p : LongRes) (k : Core) (m : Team) (q : Split) : Bool :=
  p.vregs.any (fun r => q.longs.getLsbD r.1 && (k.vreg m r.1 r.2.1).val != r.2.2.val) ||
  p.preds.any fun r => q.longs.getLsbD (240 + r.1) && m.ctl.pred r.1 r.2.1 != r.2.2.1

/-- The spin detectors after a long result: a changed register or predicate ends low priority (R353). -/
def LongRes.spins (p : LongRes) (k : Core) (m : Team) : Team :=
  { m with
    sched := if p.scalarNews k m then { m.sched with spin := Spin.init } else m.sched
    ctl := { m.ctl with splits := m.ctl.splits.map fun e => (e.1, e.2.map fun q =>
      if p.splitNews k m q then { q with spin := Spin.init } else q) } }

/-- Writes the registers and predicates of a long result; `bad`: its data failed the path check twice. -/
def writeLong (k : Core) (m : Team) (p : LongRes) (bad : Bool) : Core × Team :=
  let put (v : Marked) : Marked := ⟨v.val, v.mark || bad⟩
  let n := p.spins k m
  let k := p.sregs.foldl (fun k r => k.setSreg m r.1 (put r.2)) k
  let k := p.vregs.foldl (fun k r => k.setVreg m r.1 r.2.1 (put r.2.2)) k
  (k, { n with
    regs := p.ks.foldl (fun y r => y.setPred r.1 r.2.1 (r.2.2 || bad)) m.regs
    ctl := p.preds.foldl (fun y r => y.setPred r.1 r.2.1 r.2.2.1 (r.2.2.2 || bad)) n.ctl })

/-- The log record of a path check that failed on a result's way; the address is one of several and not stated. -/
def State.logPath (s : State) (c : Nat) (m : Team) (resp : Nat) : State :=
  let (a, s) := s.freeWord
  (s.log (dieOf c) (teamRecord s c m 12 resp a)).2

/-- The team's region is being discarded: the results of issued words are ignored (R423). A failed check that may still end in a trap
keeps them. -/
def Team.recovering (m : Team) : Bool :=
  match m.region with
  | some g => g.check.isNone && (g.recovery == .halt || g.recovery == .discard || g.recovery == .restore)
  | none => false

/-- A long result was issued inside the team's open region. -/
def Team.ofRegion (m : Team) (p : LongRes) : Bool := match m.region with | some g => decide (g.opened ≤ p.ticket) | none => false

/-- R304, R231: a result that is ready returns; its marks stay until the next switch marker. -/
def execLongResultReturn (core team ticket : Nat) (check : PathCheck) (s : State) : Host.Outcome State Fault Refusal :=
  .next (match s.team core team with
  | none => s
  | some m =>
    match m.pend.find? fun p => p.ticket == ticket && p.ready with
    | none => s
    | some p =>
      let bad := p.fill && check == .twice
      let s := if p.fill && check == .once then s.logPath core m 1 else if bad then s.logPath core m 5 else s
      let m := { m with pend := m.pend.filter fun y => y.ticket != ticket }
      let (k, m) := if m.recovering && m.ofRegion p then (s.core core, m) else writeLong (s.core core) m p bad
      ((s.setCore core k).setTeam core team (some m)).settle core team)

/-- R87: the divider has formed its quotient. -/
def execScalarDividerComplete (core : Nat) (s : State) : Host.Outcome State Fault Refusal :=
  .next (match (s.core core).divider with
  | some (t, n, at_) =>
    if s.cycles < at_ then s
    else (s.modCore core fun k => { k with divider := none }).modTeam core t fun m =>
      { m with pend := m.pend.map fun p => if p.ticket = n then { p with ready := true } else p }
  | none => s)

/-! ### Switch markers (R303, R392) -/

/-- A wait that a pre-emption withdraws (R284, R324, R361, R460). -/
def Hold.withdrawn : Hold → Bool
  | .barrier _ _ | .queue _ | .regroup _ _ _ _ _ | .collective _ _ _ _ => true
  | _ => false

/-- The wait of a team ends without its word having completed: a barrier arrival is taken back (R284). -/
def State.withdrawHold (s : State) (c t : Nat) : State :=
  match s.team c t with
  | none => s
  | some m =>
    let s := match m.sched.hold with
      | some (.barrier b p) =>
        let v := s.barrier c b
        if v.phase = p then s.setBarrier c b { v with count := v.count - 1 } else s
      | _ => s
    (s.modTeam c t fun m => m.modSched fun y => { y with hold := none }).unblock c t

/-- A handler that answers PREEMPT (R368). -/
def Team.savingHandler (m : Team) : Bool := m.trap.handler && bits m.trap.regs.cause.toNat 0 8 == Cause.preempt.code

/-- What follows the marker of `s.yield` (R368). -/
def State.yieldDone (s : State) (c t : Nat) (saving : Bool) : State :=
  match s.team c t with
  | none => s
  | some m =>
    if m.sched.parked || !m.sched.yielding then s
    else
      let s := s.modTeam c t fun m => m.modSched fun y => { y with yielding := false }
      if saving then (s.modTeam c t fun m => m.modTrap fun y => { y with yielded := true }).deactivate c t .blocked
      else s.deactivate c t .ready

/-- Releases a parked team (R303 steps 3 to 5), with what `s.yield` adds. -/
def State.passMarker (s : State) (c t : Nat) : State :=
  match s.team c t with
  | none => s
  | some m =>
    let home := m.home.getD c
    let due (k : Core) : Bool := !(k.health.retiring.isEmpty && k.health.waysPending.isEmpty)
    let s := if m.released s c t then
        s.modCore c fun k => if due k then { k with health := { k.health with safePoint := true } } else k
      else s
    let s := (markerRelease s c t).yieldDone c t m.savingHandler
    (if home = c then s else s.yieldDone home t m.savingHandler).trySaves

/-- R303, R392: a marker whose waits have ended; a pre-emption that reaches a waiting team parks it at its word first. -/
def execSwitchMarkerRelease (core team : Nat) (s : State) : Host.Outcome State Fault Refusal :=
  .next (match s.team core team with
  | none => s
  | some m =>
    if m.sched.parked then s.passMarker core team
    else match m.trap.preempt, m.sched.hold with
      | some _, some h =>
        if h.withdrawn && !m.halted && (!m.trap.handler || m.blocksDone) then
          ((s.withdrawHold core team).modTeam core team fun m => m.modSched fun y => { y with parked := true }).passMarker core team
        else s
      | _, _ => s)

/-! ### Timeouts of waits -/

/-- How long the held word has waited. -/
def Team.waited (s : State) (m : Team) : Nat := s.cycles - m.sched.holdSince

/-- R324: an offer withdrawn after 2^16 cycles, unless it has matched (R465). -/
def execRegroupOfferTimeout (core team : Nat) (s : State) : Host.Outcome State Fault Refusal :=
  .next (match s.team core team with
  | none => s
  | some m =>
    match m.sched.hold with
    | some (.regroup d tag first count mark) =>
      if Team.waited s m < 2 ^ 16 || (matching s.cycles (s.core core) team m tag first count).isSome then s
      else (s.longScalar core team [(d, ⟨regroupStatus m 0 4, mark⟩)] [] true false).2.completeHeld core team
    | _ => s)

/-- R244: `s.awwait` after 2^20 cycles. -/
def execAwwaitTimeout (core team : Nat) (s : State) : Host.Outcome State Fault Refusal :=
  .next (match s.team core team with
  | none => s
  | some m =>
    match m.sched.hold with
    | some (.arrival d q off _) =>
      if Team.waited s m < 2 ^ 20 then s
      else (s.longScalar core team [(d, ⟨awStatus (s.core q) off 4, ((s.core q).read off 16).2⟩)] [] true false).2.completeHeld
        core team
    | _ => s)

/-- R284: `.sync` after 2^24 cycles. -/
def execBarrierSyncTimeout (core team : Nat) (s : State) : Host.Outcome State Fault Refusal :=
  .next (match s.team core team with
  | none => s
  | some m =>
    match m.sched.hold with
    | some (.barrier b p) =>
      if Team.waited s m < 2 ^ 24 || (s.barrier core b).phase != p then s
      else
        let s := s.withdrawHold core team
        match s.team core team with
        | some m => raise s core team m ⟨⟨.timeout, wordN b, 0⟩, none, some m.regs.spc⟩
        | none => s
    | _ => s)

/-- R361: a push or pop after 2^20 cycles. -/
def execQueueWaitTimeout (core team : Nat) (s : State) : Host.Outcome State Fault Refusal :=
  .next (match s.team core team with
  | none => s
  | some m =>
    match m.sched.hold with
    | some (.queue op) => if Team.waited s m < 2 ^ 20 then s else (queueStatus s core team op 4).completeHeld core team
    | _ => s)

/-- R460: `s.cwait` after 2^24 cycles; the slot stays held. A slot that another `s.cwait` has freed meanwhile is a bad handle; the GEN of such a
status is not stated (DESIGN CHOICE, log entry 3). -/
def execCwaitTimeout (core team : Nat) (s : State) : Host.Outcome State Fault Refusal :=
  .next (match s.team core team with
  | none => s
  | some m =>
    match m.sched.hold with
    | some (.collective d handle gen mark) =>
      if Team.waited s m < 2 ^ 24 then s
      else match (s.sched.collectives.get none handle).filter fun y => y.gen == gen with
        | some y =>
          if y.code.isSome then s else (s.cwaitDone core team d mark (cwaitStatus y 3) 0).completeHeld core team
        | none =>
          let (w, s) := s.freeWord
          (s.cwaitDone core team d mark (wordN (bits w.toNat 32 32 * 2 ^ 32 + 10)) 0).completeHeld core team
    | _ => s)

/-- R359: the queue manager performs the operation of a waiting team on a record queue. -/
def execRecordQueueOperation (core team : Nat) (s : State) : Host.Outcome State Fault Refusal :=
  .next (match s.team core team with
  | none => s
  | some m =>
    match m.sched.hold with
    | some (.queue op) =>
      if handleRing op.handle || m.halted then s
      else match queueAttempt s core team op with
        | .code n s => (queueStatus s core team op n).completeHeld core team
        | _ => s
    | _ => s)

/-! ### Blocked teams (R350) -/

/-- A blocking wait of R350. -/
def Hold.blocks : Hold → Bool
  | .barrier _ _ | .arrival _ _ _ _ | .queue _ | .regroup _ _ _ _ _ | .matrixFull | .beamFull | .copyFull => true
  | _ => false

/-- The wait of a blocked team has ended; that of `s.regroup` ends once it has matched and may merge. -/
def waitOver (s : State) (c t : Nat) : Hold → Bool
  | .barrier b p => (s.barrier c b).phase != p
  | .arrival _ q off g => (s.core q).passed off g
  | .queue op => match queueAttempt s c t op with | .wait _ => false | _ => true
  | .regroup _ tag first count _ =>
    match s.team c t with
    | some m => (matching s.cycles (s.core c) t m tag first count).any fun e => mayMerge s c t && mayMerge s c e.1
    | none => false
  | .matrixFull => decide ((s.core c).matrix.length < 16)
  | .beamFull => decide ((s.cluster (clusterOf c)).beamCount < 32)
  | .copyFull => decide ((s.cluster (clusterOf c)).copies.length < 32)
  | _ => true

/-- R350: a blocking wait has lasted 1024 cycles and goes on. -/
def execTeamBlocked (core team : Nat) (s : State) : Host.Outcome State Fault Refusal :=
  .next (match s.team core team with
  | none => s
  | some m =>
    match m.sched.hold with
    | some h =>
      if m.sched.state = .active ∧ h.blocks ∧ 1024 ≤ Team.waited s m ∧ !waitOver s core team h then s.deactivate core team .blocked else s
    | none => s)

/-- R350: the wait of a blocked team ends. A team that has yielded to a save stays until its group is saved. -/
def execTeamUnblocked (core team : Nat) (s : State) : Host.Outcome State Fault Refusal :=
  .next (match s.team core team with
  | none => s
  | some m =>
    if m.trap.yielded then s
    else match m.sched.hold with
      | some h => if waitOver s core team h then s.unblock core team else s
      | none => s.unblock core team)

/-- R354: the hold after an EMPTY poll ends; the team is at low priority. -/
def execQpollBackoffEnd (core team : Nat) (s : State) : Host.Outcome State Fault Refusal :=
  .next (match s.team core team with
  | none => s
  | some m =>
    if m.sched.holdUntil = 0 ∨ s.cycles < m.sched.holdUntil then s
    else s.modTeam core team fun m => m.modSched fun y => { y with holdUntil := 0, lowPoll := true })

/-! ### Admission (R348, R349) -/

/-- The READY teams of a core, longest READY first, then lower TEAM_INDEX. -/
def Core.readyTeams (k : Core) : List (Nat × Team) :=
  sortBy (fun a b => decide (a.2.sched.since < b.2.sched.since))
    (k.residents.filter fun e => e.2.sched.state == .ready && e.2.sched.started)

/-- Some team of the core is in the active set. -/
def Core.anyActive (k : Core) : Bool := k.residents.any fun e => e.2.sched.state == .active

/-- A team enters the active set. -/
def State.admitTeam (s : State) (c t : Nat) (overs solo : Bool) : State :=
  s.modTeam c t fun m => { m with
    lease := { m.lease with overBit := overs, solo := solo }
    sched := { m.sched with state := .active, lastScalar := s.cycles, lastLane := s.cycles } }

/-- Rule 3 of R349 applies: the first READY team has waited 4096 cycles and no team holds OVER. -/
def overDue (s : State) (k : Core) : Option (Nat × Team) :=
  match k.readyTeams with
  | [] => none
  | e :: _ => if 4096 ≤ s.cycles - e.2.sched.since ∧ !(k.residents.any fun x => x.2.lease.overBit) then some e else none

/-- Admission is held for a team with a lease above the share, or by a team that runs alone (R349). -/
def Core.admissionHeld (k : Core) : Bool :=
  k.admitHold.isSome || k.residents.any fun e => e.2.sched.state == .active && e.2.lease.solo

/-- Rules 1, 2 and 4 of R349 over the READY teams in order. -/
def State.admitFitting (s : State) (c : Nat) : State :=
  ((s.core c).readyTeams).foldl (fun s e =>
    let k := s.core c
    if k.leaseSum + e.2.lease.cur ≤ k.shareGranules then s.admitTeam c e.1 false false else s) s

/-- R349, rules 1, 2 and 4. -/
def execTeamAdmission (core : Nat) (s : State) : Host.Outcome State Fault Refusal :=
  let k := s.core core
  .next (if k.admissionHeld || (overDue s k).isSome then s else s.admitFitting core)

/-- R349, rule 3. -/
def execOverBudgetAdmission (core : Nat) (s : State) : Host.Outcome State Fault Refusal :=
  let k := s.core core
  .next (match k.admitHold with
  | some t =>
    if k.anyActive then s
    else (s.modCore core fun k => { k with admitHold := none }).admitTeam core t false true
  | none =>
    if k.residents.any fun e => e.2.sched.state == .active && e.2.lease.solo then s
    else match overDue s k with
      | none => s
      | some (t, m) =>
        if m.lease.cur ≤ k.shareGranules then (s.admitTeam core t true false).clearOver core
        else if k.anyActive then s.modCore core fun k => { k with admitHold := some t }
        else s.admitTeam core t false true)

/-- The lines that a team filled into the L1 of its core. -/
def Core.residentLines (k : Core) (t : Nat) : Nat :=
  (sortNats (k.l1.filterMap fun e => e.2.bind fun x => if x.team = t then some (e.1 / 4) else none)).length

/-- R348: a measured lease without a victim hit in an interval of 65536 cycles falls by 8 lines. -/
def execLeaseDecay (core team : Nat) (s : State) : Host.Outcome State Fault Refusal :=
  .next (match s.team core team with
  | none => s
  | some m =>
    let l := m.lease
    if !l.auto || s.cycles < l.decayed + 65536 then s
    else
      let pinned := match m.region with | some g => g.pinned.length | none => 0
      let floor := if pinned < 8 then 8 else pinned
      let low := if l.lines - 8 < floor then floor else l.lines - 8
      let lines := if !l.hit && decide ((s.core core).residentLines team < l.lines) && decide (low < l.lines) then low else l.lines
      (s.modTeam core team fun m => { m with lease := { l with lines := lines, hit := false, decayed := s.cycles } }).clearOver core)

end Sys2Proof.Machine
end

