-- ==== Sys2Proof/Machine/EventsEngine.lean ====
section
/-!
DEFINITION. The events of stores on their way (R231, R269), the copy engine (R246 to R249), tile streams (R250 to R253), the matrix
unit (R163 to R177) and Yarrow (R183, R198, R202).
-/
namespace Sys2Proof.Machine

/-! ### Stores (R231, R269) -/

/-- An earlier store that must be performed first: one that meets the same sector, or of the same team in the management range. -/
def storeBehind (xs : List Store) (x : Store) : Bool :=
  xs.any fun y => decide (y.pa / 32 = x.pa / 32) || (isMgmt y.pa && isMgmt x.pa && y.team == x.team)

/-- A sector at its home is poisoned by a failed path check, and the record is logged (R231). -/
def State.poisonSector (s : State) (pa : Nat) : State :=
  let d := homeDie (paOff pa)
  let s := s.modMem fun m => { m with marks := m.marks.set false (pa / 32) true }
  (s.log d { LogRecord.blank with det := 12, resp := 5, addr := wordN pa, place := memPlace (paSlot pa) d }).2

/-- A store performed at its home. A failed check of the old sector poisons it before the bytes are merged. -/
def execStorePerformedAtHome (core index : Nat) (check : PathCheck) (s : State) : Host.Outcome State Fault Refusal :=
  .next (match (s.core core).inflight[index]? with
  | none => s
  | some x =>
    let before := (s.core core).inflight.take index
    if storeBehind before x || s.blocked x.pa none then s
    else
      let s := s.modCore core fun k => { k with inflight := before ++ k.inflight.drop (index + 1) }
      let s := if check = .good ∨ isMgmt x.pa ∨ s.lost x.pa then s else s.poisonSector x.pa
      (s.performStore core x).launchDrained core)

/-! ### Engine accesses to global memory -/

/-- What an engine's access to global memory meets. -/
inductive EngRead where
  | ok (bs : List Byte) (mark : Bool)
  | fault (c : Cause) (va : Nat)
  | wait

/-- Reads n bytes as an engine, page by page; `own` is its ticket. -/
def State.engineRead (s : State) (d asid : Nat) (runtime : Bool) (own : Option Nat) (va n : Nat) : EngRead × State :=
  let first := va / 65536
  (List.range (if n = 0 then 0 else (va + n - 1) / 65536 - first + 1)).foldl (fun (acc : EngRead × State) i =>
    match acc.1 with
    | .ok bs mark =>
      let lo := if i = 0 then va else (first + i) * 65536
      let hi := if va + n < (first + i + 1) * 65536 then va + n else (first + i + 1) * 65536
      match engineXlate acc.2 d asid runtime Need.load lo own with
      | (.error none, s) => (.wait, s)
      | (.error (some c), s) => (.fault c lo, s)
      | (.ok pa, s) =>
        if isMgmt pa then (.fault .protection lo, s)
        else if s.blocked pa own || s.blocked (pa + (hi - lo) - 1) own then (.wait, s)
        else
          let ((b, pm), s) := s.readHome d pa (hi - lo)
          (.ok (bs ++ b) (mark || pm), s)
    | r => (r, acc.2)) (.ok [] false, s)

/-- The address of n bytes within one page that an engine writes. -/
def State.engineTarget (s : State) (d asid : Nat) (runtime : Bool) (own : Option Nat) (va : Nat) :
    Except (Option (Cause × Nat)) Nat × State :=
  match engineXlate s d asid runtime Need.store va own with
  | (.error none, s) => (.error none, s)
  | (.error (some c), s) => (.error (some (c, va)), s)
  | (.ok pa, s) =>
    if isMgmt pa then (.error (some (.protection, va)), s)
    else if s.mem.sealed pa then (.error (some (.sealViolation, va)), s)
    else if s.blocked pa own then (.error none, s)
    else (.ok pa, s)

/-! ### The copy engine (R246 to R249) -/

/-- Where moving the bytes of a tile has come to. -/
inductive Moved where
  | ok (s : State) (mark : Bool)
  | fault (s : State) (mark : Bool) (c : Cause) (va : Nat)
  | wait

/-- The core of a scratchpad side is still held by the launch of the command. -/
def copyCoreHeld (s : State) (x : CopyCmd) (q : Nat) : Bool := ((s.core q).part.map (·.launch)) == some x.launch

/-- A copy as its moving has come on: the state, the command with the source sectors it has read, and how it went. -/
inductive Copied where
  | ok (s : State) (x : CopyCmd)
  | fault (s : State) (x : CopyCmd) (c : Cause) (va : Nat)
  | wait

/-- A line of the copy's destination has been released already. -/
def copyReleased (s : State) (x : CopyCmd) (line : Nat) : Bool :=
  s.mem.ranges.any fun r => r.ticket == x.ticket && r.released.contains line

/-- The bytes of a copy's source that lie in its sector u: first, and past the last. -/
def copySpan (x : CopyCmd) (u : Nat) : Nat × Nat :=
  (if cpSrc x.desc < 32 * u then 32 * u else cpSrc x.desc,
   if cpSrc x.desc + cpLen x.desc < 32 * u + 32 then cpSrc x.desc + cpLen x.desc else 32 * u + 32)

/-- Reads sector u of a copy's source, unless the copy has it (R249). After an engine error the data is marked (R414). -/
def takeSector (s : State) (x : CopyCmd) (u : Nat) : EngRead × State × CopyCmd :=
  match x.taken.find? fun e => e.1 == u with
  | some e => (.ok e.2.1 e.2.2, s, x)
  | none =>
    let lo := (copySpan x u).1
    let n := (copySpan x u).2 - lo
    let keep (bs : List Byte) (mark : Bool) (s : State) : EngRead × State × CopyCmd :=
      (.ok bs mark, s, { x with taken := x.taken ++ [(u, bs, mark)] })
    if cpSrcSp x.desc then
      let p := s.enginePlace x.core lo
      let r := (s.core p.core).read p.off n
      keep r.1 (r.2 || x.broken) s
    else match s.engineRead (dieOf x.core) x.asid x.runtime (some x.ticket) lo n with
      | (.ok bs mark, s) => keep bs (mark || x.broken) s
      | (r, s) => (r, s, x)

/-- Reads bytes [o, o + n) of a copy's source, sector by sector. -/
def copyRead (s : State) (x : CopyCmd) (o n : Nat) : EngRead × State × CopyCmd :=
  let va := cpSrc x.desc + o
  (List.range ((va + n + 31) / 32 - va / 32)).foldl (fun (acc : EngRead × State × CopyCmd) i =>
    match acc.1 with
    | .ok bs mark =>
      let u := va / 32 + i
      match takeSector acc.2.1 acc.2.2 u with
      | (.ok b mk, s, x) =>
        let lo := (copySpan x u).1
        let first := if lo < va then va else lo
        let last := if (copySpan x u).2 < va + n then (copySpan x u).2 else va + n
        (.ok (bs ++ (b.drop (first - lo)).take (last - first)) (mark || mk), s, x)
      | r => r
    | _ => acc) (.ok [] false, s, x)

/-- Moves bytes [o, stop) of a copy, one destination sector at a time. -/
def moveCopy : Nat → State → CopyCmd → Nat → Nat → Copied
  | 0, s, x, _, _ => .ok s x
  | fuel + 1, s, x, o, stop =>
    if stop ≤ o then .ok s x
    else
      let dst := cpDst x.desc + o
      let n := if stop - o < 32 - dst % 32 then stop - o else 32 - dst % 32
      if cpDstSp x.desc then
        match copyRead s x o n with
        | (.wait, _, _) => .wait
        | (.fault c va, s, x) => .fault s x c va
        | (.ok bs mk, s, x) =>
          let p := s.enginePlace x.core dst
          let mk := mk || x.entry
          let s := if copyCoreHeld s x p.core then s.engineScratch p.core p.off bs mk else s
          moveCopy fuel s { x with marked := x.marked || mk, entry := false } (o + n) stop
      else match s.engineTarget (dieOf x.core) x.asid x.runtime (some x.ticket) dst with
        | (.error none, _) => .wait
        | (.error (some e), s) => .fault s x e.1 e.2
        | (.ok pa, s) =>
          if copyReleased s x (pa / 128) then moveCopy fuel s x (o + n) stop
          else match copyRead s x o n with
            | (.wait, _, _) => .wait
            | (.fault c va, s, x) => .fault s x c va
            | (.ok bs mk, s, x) => moveCopy fuel (s.engineWrite pa bs mk) { x with marked := x.marked || mk } (o + n) stop

/-- The parts of a copy's range, by offset, that lie in a line of memory. -/
def copyLine (s : State) (x : CopyCmd) (line : Nat) : List (Nat × Nat) :=
  let va := cpDst x.desc
  let first := va / 65536
  (List.range ((va + cpLen x.desc - 1) / 65536 - first + 1)).filterMap fun i =>
    let lo := if i = 0 then va else (first + i) * 65536
    let hi := if va + cpLen x.desc < (first + i + 1) * 65536 then va + cpLen x.desc else (first + i + 1) * 65536
    match engineXlate s (dieOf x.core) x.asid x.runtime Need.range lo (some x.ticket) with
    | (.ok pa, _) =>
      let a := if pa < line * 128 then line * 128 else pa
      let b := if pa + (hi - lo) < line * 128 + 128 then pa + (hi - lo) else line * 128 + 128
      if a < b then some (lo - va + (a - pa), lo - va + (b - pa)) else none
    | (.error _, _) => none

/-- R246: the engine starts the oldest command that waits, up to four at a time. -/
def execCopyStart (cluster : Nat) (s : State) : Host.Outcome State Fault Refusal :=
  let k := s.cluster cluster
  .next (if 4 ≤ (k.copies.filter (·.started)).length then s
  else match k.copies.find? fun x => !x.started with
    | none => s
    | some x => s.modCluster cluster fun k => { k with copies := k.copies.map fun y =>
        if y.ticket = x.ticket then { y with started := true } else y })

/-- R228: a copy engine finishes writing one line of its range and releases it. Other engines write a range in one step and release it
whole. -/
def execEngineLineRelease (ticket line : Nat) (s : State) : Host.Outcome State Fault Refusal :=
  .next (match s.clusters.findSome? fun e => (e.2.copies.find? fun x => x.ticket == ticket && x.started).map fun x => (e.1, x) with
  | none => s
  | some (q, x) =>
    if cpDstSp x.desc || copyReleased s x line then s
    else
      let parts := copyLine s x line
      match parts.foldl (fun (acc : Copied) p =>
          match acc with
          | .ok s x => moveCopy (p.2 - p.1) s x p.1 p.2
          | r => r) (.ok s x) with
      | .ok s' x' =>
        if parts.isEmpty then s
        else (s'.modCluster q fun k => { k with copies := k.copies.map fun y => if y.ticket = ticket then x' else y }).releaseLine ticket line
      | _ => s)

/-- The end of a copy: RESULT and FAULTADDR, the contribution, the range released (R242, R247, R249). -/
def finishCopy (s : State) (q : Nat) (x : CopyCmd) (cause va : Nat) : State :=
  let s := if copyCoreHeld s x x.core then
      s.engineScratch x.core (x.off + 0x20) (natBytes 4 (2 ^ 31 + cause) ++ natBytes 4 0 ++ natBytes 8 va) false
    else s
  let s := if cpAwen x.desc then
      let p := s.enginePlace x.core (cpAw x.desc)
      if copyCoreHeld s x p.core then s.contribute p.core p.off (cpLen x.desc) cause x.marked else s
    else s
  ((s.unregister x.ticket).modCluster q fun k => { k with copies := k.copies.filter fun y => y.ticket != x.ticket }).trySaves

/-- R249: a started copy moves what it has not moved yet and completes; a fault ends it where it is met. -/
def execCopyComplete (cluster ticket : Nat) (s : State) : Host.Outcome State Fault Refusal :=
  .next (match (s.cluster cluster).copies.find? fun x => x.ticket == ticket && x.started with
  | none => s
  | some x =>
    match moveCopy (cpLen x.desc) s x 0 (cpLen x.desc) with
    | .wait => s
    | .ok s x => finishCopy s cluster x 0 0
    | .fault s x c va => finishCopy s cluster x c.code va)

/-! ### Tile streams (R250 to R253) -/

/-- A row of a tile: memory address, scratchpad address value. -/
def stRowVa (d : List Word) (t r : Nat) : Nat := wrapN 64 ((stGaddr d : Int) + t * stGstride d + r * stPitch d)
def stRowSp (d : List Word) (t r : Nat) : Nat :=
  stRing d + t % stSlots d * stSlotBytes d + r * stRowBytes d

/-- Writes bytes to scratchpad sector by sector, each piece with the mark of its source sectors; `entry`: the path check of the first failed as
it entered the scratchpad (R231). -/
def fillRow (c d asid : Nat) (runtime broken : Bool) : Nat → State → Bool → Bool → Nat → Nat → Nat → Moved
  | 0, s, mark, _, _, _, _ => .ok s mark
  | fuel + 1, s, mark, entry, va, sp, n =>
    if n = 0 then .ok s mark
    else
      let k := if n < 32 - sp % 32 then n else 32 - sp % 32
      match s.engineRead d asid runtime none va k with
      | (.wait, _) => .wait
      | (.fault e a, s) => .fault s mark e a
      | (.ok bs mk, s) =>
        let p := s.enginePlace c sp
        let mk := mk || broken || entry
        fillRow c d asid runtime broken fuel (s.engineScratch p.core p.off bs mk) (mark || mk) false (va + k) (sp + k) (n - k)

/-- Writes a row from scratchpad to memory, sector by sector. -/
def drainRow (c d asid : Nat) (runtime broken : Bool) : Nat → State → Bool → Nat → Nat → Nat → Moved
  | 0, s, mark, _, _, _ => .ok s mark
  | fuel + 1, s, mark, va, sp, n =>
    if n = 0 then .ok s mark
    else
      let k := if n < 32 - va % 32 then n else 32 - va % 32
      match s.engineTarget d asid runtime none va with
      | (.error none, _) => .wait
      | (.error (some e), s) => .fault s mark e.1 e.2
      | (.ok pa, s) =>
        let p := s.enginePlace c sp
        let (bs, mk) := (s.core p.core).read p.off k
        drainRow c d asid runtime broken fuel (s.engineWrite pa bs (mk || broken)) (mark || mk || broken) (va + k) (sp + k) (n - k)

/-- The rows of tile t. -/
def moveTile (c : Nat) (x : Stream) (t : Nat) (s : State) : Moved :=
  let d := x.desc
  let row (s : State) (mark : Bool) (r va : Nat) : Moved :=
    if stDrain d then drainRow c (dieOf c) x.asid x.runtime x.broken (stRowBytes d) s mark va (stRowSp d t r) (stRowBytes d)
    else fillRow c (dieOf c) x.asid x.runtime x.broken (stRowBytes d) s mark (x.entry && r == 0) va (stRowSp d t r) (stRowBytes d)
  (List.range (stRows d)).foldl (fun (acc : Moved) r =>
    match acc with
    | .ok s mark =>
      let va := stRowVa d t (if stRows d = 1 then 0 else r)
      if 2 ^ 54 < va + stRowBytes d then .fault s mark .pageFault va
      else row s mark r va
    | o => o) (.ok s false)

/-- The tile may be moved: its slot is free, or filled (R252). -/
def tileReady (s : State) (c : Nat) (x : Stream) : Bool :=
  let p := s.enginePlace c (stHw x.desc)
  let h := (s.core p.core).readN p.off 4
  if stDrain x.desc then
    let n := (h + 2 ^ 32 - x.next % 2 ^ 32) % 2 ^ 32
    decide (1 ≤ n ∧ n < 2 ^ 31)
  else decide ((x.next + 2 ^ 32 - h) % 2 ^ 32 < stSlots x.desc)

/-- The pieces of memory that a drained tile writes (R228). -/
def tilePieces (s : State) (c : Nat) (x : Stream) : List (Nat × Nat) :=
  (List.range (stRows x.desc)).flatMap fun r =>
    (s.pieces none (dieOf c) x.asid x.runtime Need.range (stRowVa x.desc x.next r) (stRowBytes x.desc)).1

/-- A tile has been moved, or has met a fault: the contribution; the stream goes on or ends. -/
def tileDone (s : State) (c i : Nat) (x : Stream) (mark : Bool) (cause : Nat) : State :=
  let p := s.enginePlace c (stAw x.desc)
  let s := s.contribute p.core p.off (stRows x.desc * stRowBytes x.desc) cause mark
  let after := if cause ≠ 0 ∨ stCount x.desc ≤ x.next + 1 then none else some { x with next := x.next + 1, broken := false, entry := false }
  s.modCore c fun k => { k with streams := k.streams.set none i after }

/-- One tile of a stream. -/
def streamTile (s : State) (c i : Nat) (drain : Bool) : State :=
  match (s.core c).streams.get none i with
  | none => s
  | some x =>
    if stDrain x.desc != drain || !tileReady s c x || (drain && s.rangesFull (tilePieces s c x)) then s
    else match moveTile c x x.next s with
      | .wait => s
      | .ok s mark => tileDone s c i x mark 0
      | .fault s mark e _ => tileDone s c i x mark e.code

/-- R252. -/
def execStreamTileFill (core stream : Nat) (s : State) : Host.Outcome State Fault Refusal := .next (streamTile s core stream false)
/-- R252. -/
def execStreamTileDrain (core stream : Nat) (s : State) : Host.Outcome State Fault Refusal := .next (streamTile s core stream true)

/-! ### The matrix unit (R163 to R177) -/

/-- An operand's arrival word has reached the generation that step `n` needs (R175). -/
def mloopReady (s : State) (c : Nat) (d : List Word) (n : Nat) : Bool :=
  [false, true].all fun isB =>
    !mlWait d isB ||
      (let p := s.enginePlace c (mlAw d isB)
       let g := (s.core p.core).readN (p.off + 8) 4
       decide (n < (g + 2 ^ 32 - mlGen d isB) % 2 ^ 32))

/-- A command waits on an arrival word. -/
def MatrixCmd.waits (s : State) (c : Nat) (x : MatrixCmd) : Bool :=
  match x.kind with
  | .mloop d => !mloopReady s c d x.steps
  | _ => false

/-- The oldest command of each team that has commands queued, teams in ascending order (R167). -/
def Core.matrixHeads (k : Core) : List MatrixCmd :=
  (sortNats (k.matrix.map (·.team))).filterMap fun i => k.matrix.find? fun x => x.team == i

/-- The command whose turn it is among the oldest of each team that may run a step (R167). -/
def nextCommand (s : State) (c : Nat) : Option MatrixCmd :=
  let k := s.core c
  let heads := k.matrixHeads.filter fun x =>
    !x.waits s c && !(match k.teams.get none x.team with | some m => m.recovering | none => true)
  match heads.find? fun x => decide (k.matrixTurn ≤ x.team) with
  | some x => some x
  | none => heads.head?

/-- The status of R173. -/
def MatrixCmd.status (x : MatrixCmd) (code : Nat) : Word :=
  wordN (x.steps * 2 ^ 16 + x.retried.toNat * 2 ^ 14 + x.poisoned.toNat * 2 ^ 13 + x.flags.toNat * 2 ^ 8 + code)

/-- A command leaves the queue with its status; the team's next one may begin to wait (R175). -/
def finishMatrix (s : State) (c : Nat) (x : MatrixCmd) (code : Nat) : State :=
  (s.modCore c fun k => { k with matrix := (k.matrix.filter fun y => y.ticket != x.ticket).map fun y =>
    if y.team = x.team then { y with waitSince := s.cycles } else y }).finishLong c x.team x.ticket (x.status code)

/-- Keeps the progress of a command. -/
def keepMatrix (s : State) (c : Nat) (x : MatrixCmd) : State :=
  s.modCore c fun k => { k with matrix := k.matrix.map fun y => if y.ticket = x.ticket then x else y }

/-- The error record of a residue mismatch (R166). -/
def residueRecord (s : State) (c : Nat) (m : Team) (x : MatrixCmd) (resp : Nat) : LogRecord :=
  { teamRecord s c m 2 resp 0 with spc := x.pc }

/-- A step that the residue check lets through: rows logged and written, consumption words, progress (R163, R175, R180). It reads its operands and writes
its rows at one instant (DEDUCED, log entry 109). -/
def runStep (s : State) (c : Nat) (x : MatrixCmd) (sh : Shape) (a b : Nat) : State :=
  let s := s.logRows c x.team x.rows
  let (k, fl, mark) := matrixStepCore (s.core c) x.fmt sh a b x.row (x.z && x.steps == 0)
  let x := { x with steps := x.steps + 1, flags := x.flags ||| fl, poisoned := x.poisoned || mark, waitSince := s.cycles }
  let s := s.setCore c k
  match x.kind with
  | .mloop d =>
    let s := [false, true].foldl (fun s isB =>
      if mlCons d isB then
        let p := s.enginePlace c (mlCw d isB)
        s.engineScratch p.core p.off (natBytes 4 x.steps) false
      else s) s
    if x.steps = mlCount d then finishMatrix s c x 0 else keepMatrix s c x
  | _ => finishMatrix s c x 0

/-- A step of a multiply under the verdict of its residue check (R166). -/
def multiplyStep (s : State) (c : Nat) (x : MatrixCmd) (a b : Nat) (residue : Residue) : State :=
  match pairShape (fbA x.fmt) (fbB x.fmt), s.team c x.team with
  | some sh, some m =>
    let k := s.core c
    if !tileInside k sh (tileOf x.fmt sh false a) || !tileInside k sh (tileOf x.fmt sh true b) then finishMatrix s c x 1
    else match residue with
      | .pass => runStep s c x sh a b
      | .once => runStep (s.log (dieOf c) (residueRecord s c m x 0)).2 c { x with retried := true } sh a b
      | .twice =>
        if m.replayable k then s.halt c x.team (residueRecord s c m x 2)
        else finishMatrix (s.machineCheck c x.team (residueRecord s c m x 6)) c x 3
  | _, _ => finishMatrix s c x 1

/-- Eight rows of `s.aclr` (R177). -/
def clearStep (s : State) (c : Nat) (x : MatrixCmd) (rows : Nat) : State :=
  let n := if rows < 8 then rows else 8
  let now := (List.range n).map (x.row + ·)
  let s := (s.logRows c x.team now).modCore c fun k => now.foldl (fun k r => k.accClear r) k
  if rows ≤ 8 then finishMatrix s c x 0 else keepMatrix s c { x with kind := .aclr (rows - 8), row := x.row + 8 }

/-- R163, R167, R175, R177: the unit runs one step of the command whose turn it is. -/
def execMatrixStep (core : Nat) (residue : Residue) (s : State) : Host.Outcome State Fault Refusal :=
  .next (match nextCommand s core with
  | none => s
  | some x =>
    let s := s.modCore core fun k => { k with matrixTurn := x.team + 1 }
    match x.kind with
    | .aclr rows => clearStep s core x rows
    | .mma a b => multiplyStep s core x a b residue
    | .mloop d => multiplyStep s core x (mlBaseAt d false x.steps) (mlBaseAt d true x.steps) residue)

/-- R175: a step that has waited 2^20 cycles ends its command. -/
def execMloopWaitTimeout (core : Nat) (s : State) : Host.Outcome State Fault Refusal :=
  let k := s.core core
  .next (match k.matrixHeads.find? fun x => x.waits s core && decide (x.waitSince + 2 ^ 20 ≤ s.cycles) with
  | none => s
  | some x => finishMatrix s core x 4)

/-! ### Yarrow -/

/-- R183: the engine starts its next entry, or goes on with a query that waited for a line. -/
def execBeamQueryStart (cluster : Nat) (s : State) : Host.Outcome State Fault Refusal := .next (s.runBeam cluster)
/-- R198. -/
def execSplitRecordAnswer (cluster : Nat) (s : State) : Host.Outcome State Fault Refusal := .next (s.answerSplit cluster)
/-- R202. -/
def execHitRecordRetry (cluster : Nat) (s : State) : Host.Outcome State Fault Refusal := .next (s.retryRecord cluster)

end Sys2Proof.Machine
end

