-- ==== Sys2Proof/Machine/Place.lean ====
section
/-!
DEFINITION. Launches from a queue's head to resident teams: the checks of R337, places (R338), partitions (R20, R21), the start of a
launch and its replicas (R339 to R343).
-/
namespace Sys2Proof.Machine

/-! ### Fields of a launch descriptor (R335) -/

def ldEntry (d : List Word) : Nat := dw d 0
def ldMap (d : List Word) : Nat := dw d 1
def ldTrapres (d : List Word) : Bool := field d 0x10 31 1 == 1
def ldSregs (d : List Word) : Nat := field d 0x10 24 7
def ldVregs (d : List Word) : Nat := field d 0x10 16 8
def ldLanes (d : List Word) : Nat := field d 0x10 0 11
def ldAuto (d : List Word) : Bool := field d 0x14 16 1 == 1
def ldLease (d : List Word) : Nat := field d 0x14 0 16
def ldMode (d : List Word) : Nat := field d 0x18 20 2
def ldSp (d : List Word) : Nat := field d 0x18 10 10 * 1024
def ldPkgs (d : List Word) : Nat := field d 0x1C 16 6
def ldTeams (d : List Word) : Nat := field d 0x1C 0 15
def ldArgs (d : List Word) : Word := d.getD 4 0
def ldCnttab (d : List Word) : Nat := dw d 5
def ldSignal (d : List Word) : Nat := dw d 6
def ldSigscope (d : List Word) : Nat := field d 0x38 0 3

/-- The fields that order 2 of R337 refuses, but for the counter table's. LW above 5, LH above 4 and TEAMS of 0 or above 16384, which R335 limits and
the list of R337 does not name, are refused with them (DESIGN CHOICE, log entry 105). -/
def launchBad (d : List Word) : Bool :=
  field d 0x10 11 5 != 0 || field d 0x14 17 15 != 0 || field d 0x18 29 3 != 0 || field d 0x18 0 10 != 0 ||
  field d 0x1C 22 10 != 0 || field d 0x1C 15 1 != 0 || field d 0x38 3 29 != 0 || field d 0x3C 0 32 != 0 ||
  ldLanes d % 32 != 0 || decide (ldLanes d = 0 ∨ 1024 < ldLanes d) ||
  (if ldTrapres d then decide (ldVregs d < 9 ∨ 240 < ldVregs d ∨ ldSregs d = 0 ∨ 56 < ldSregs d)
   else decide (ldVregs d = 0 ∨ 240 < ldVregs d ∨ ldSregs d = 0 ∨ 64 < ldSregs d)) ||
  decide (ldLease d = 0 ∨ 1024 < ldLease d) || ldSigscope d == 7 || decide (5 < ldLw d ∨ 4 < ldLh d) ||
  decide (ldTeams d = 0 ∨ 16384 < ldTeams d) || ldEntry d % 4 != 0 || ldMap d % 4 != 0 || ldCnttab d % 8 != 0 || ldSignal d % 8 != 0

/-! ### Reading for a queue -/

/-- What the queue manager reads: bytes; nothing, where they cannot be read or carry a mark; or a line to wait for (R228). -/
inductive QueueRead where
  | ok (bs : List Byte)
  | fault
  | wait

/-- Bytes of memory as the queue manager of a die reads them in an address space. -/
def State.queueRead (s : State) (d asid va n : Nat) : QueueRead × State :=
  match s.engineRead d asid (contextRT (s.context asid)) none va n with
  | (.ok bs mark, s) => (if mark then .fault else .ok bs, s)
  | (.wait, s) => (.wait, s)
  | (.fault _ _, s) => (.fault, s)

/-- The 32-bit words of bytes. -/
def words4 (bs : List Byte) : List Nat := (List.range (bs.length / 4)).map fun i => bytesN ((bs.drop (4 * i)).take 4)

/-- The counters of a table: NEXT, LIMIT, STEP. -/
def countersOf (ws : List Word) : List (Nat × Nat × Nat) :=
  (List.range 8).map fun i => (0, bits (dw ws i) 0 32, bits (dw ws i) 32 16)

/-! ### Partitions (R20, R21) -/

/-- The teams that a map puts on a launch-relative core, ascending. -/
def teamsOn (map : List Nat) (rel : Nat) : List Nat :=
  ((List.range map.length).zip map).filterMap fun e => if e.2 = rel then some e.1 else none

/-- The bytes of a core's windows, scratchpad and trap reserve for a number of teams. -/
def usedBytes (d : List Word) (teams : Nat) : Nat :=
  teams * windowBytes (ldLanes d) (ldVregs d) + ldSp d + 8192 + 1024 * teams

/-! ### The checks (R337) -/

/-- Checks a launch whose descriptor has been read; the error code, none where a line must be waited for, or the map and the counters. -/
def launchCheck (s : State) (die asid : Nat) (d : List Word) : Except (Option Nat) (List Nat × List (Nat × Nat × Nat)) × State :=
  let (mapBytes, s) := s.queueRead die asid (ldMap d) (4 * ldTeams d)
  let (cntBytes, s) := if ldCnttab d = 0 then (.ok (List.replicate 64 (0 : Byte)), s) else s.queueRead die asid (ldCnttab d) 64
  if !contextValid (s.context asid) then (.error (some 8), s)
  else match mapBytes, cntBytes with
    | .wait, _ | _, .wait => (.error none, s)
    | .ok mb, .ok cb =>
      let map := words4 mb
      let cs := dwordsOf cb
      let cores := relCores d
      let most := (cores.map fun r => (teamsOn map r).length)
      if launchBad d || cs.any fun w => bits w.toNat 48 16 != 0 then (.error (some 1), s)
      else if ldClusters d && decide (ldLw d < 2 ∨ ldLh d < 1) then (.error (some 2), s)
      else if map.any fun e => e / 512 != 0 || decide (2 ^ ldLw d ≤ e % 32) || decide (2 ^ ldLh d ≤ e / 32) then (.error (some 3), s)
      else if most.any fun n => decide (32 < n) then (.error (some 4), s)
      else if most.any fun n => decide (2 ^ 20 < usedBytes d n + 65536) then (.error (some 5), s)
      else if ((List.range 64).filter s.present).length < ldPkgs d + 1 then (.error (some 7), s)
      else (.ok (map, countersOf cs), s)
    | _, _ => (.error (some 8), s)

/-! ### Rejection (R337) -/

/-- A launch is rejected with a code: LASTERR, ERRCOUNT, completion in its address space. -/
def State.rejectLaunch (s : State) (q asid code : Nat) (desc : Option (List Word)) : State :=
  let d := s.queueDesc q
  let s := s.queueField q 0x28 4 ((field d 0x28 8 24 + 1) % 2 ^ 24 * 256 + code)
  match desc with
  | some x => s.complete q asid x
  | none => s

/-- The queue goes on to its next entry. A record queue keeps its records. -/
def State.nextEntry (s : State) (q : Nat) : State :=
  let d := s.queueDesc q
  if qKind d = 1 then (s.queueField q 0x08 4 (qHead d + 1)).lookQueue q else s

/-! ### Offers -/

/-- Generations in their order, modulo 2^32 (R342). -/
def genBefore (a b : Nat) : Bool := let n := (b + 2 ^ 32 - a) % 2 ^ 32; decide (1 ≤ n ∧ n < 2 ^ 31)

/-- The pod slots of the replicas of a launch placed by this package, replica 0 first (R341). -/
def State.replicaSlots (s : State) (count : Nat) : List Nat :=
  let own := s.boot.podSlot
  (((List.range 64).map fun i => (own + i) % 64).filter s.present).take count

/-- The generation of a launch: its package's count, or the pod's (R342). A counter on another package answers with a value that this package
cannot know; this package's own has meanwhile advanced by as many launches as the other packages have drawn for (log entry 3). -/
def State.drawGen (s : State) (count : Nat) : Option Nat × State :=
  if count = 1 then (none, s)
  else
    let lowest := ((List.range 64).find? s.present).getD 0
    let (w, s) := s.freeWord
    if lowest = s.boot.podSlot then
      let gen := (s.sched.podGen + bits w.toNat 0 31) % 2 ^ 32
      (some gen, s.modSched fun z => { z with podGen := (gen + 1) % 2 ^ 32 })
    else (some (bits w.toNat 0 32), s)

/-- Sends a message to the packages of the other replicas, made for each from its slot and index. -/
def State.toReplicas (s : State) (peers : List Nat) (msg : Nat → Nat → Message) : State :=
  ((List.range peers.length).zip peers).foldl (fun s e => if e.1 = 0 then s else s.sendPeer (msg e.2 e.1)) s

/-- The launch is published by a core of the package, which is no host and no other package (R292): the core, for a launch queue's head. -/
def State.headProducer (s : State) (q : Nat) : Option Nat := s.producer q (qHead (s.queueDesc q))

/-- Takes the head launch of a queue, or the NODE launch of a record queue (R333): it becomes the queue's offer, or is rejected. -/
def State.takeLaunch (s : State) (q : Nat) : State :=
  let d := s.queueDesc q
  let asid := qAsid d
  let va := if qKind d = 1 then qBase d + 64 * (qHead d % 2 ^ qLog d) else qNode d
  match s.queueRead (q % 4) asid va 64 with
  | (.wait, _) => s
  | (.fault, s) => (s.rejectLaunch q asid 8 none).nextEntry q
  | (.ok bs, s) =>
    let desc := dwordsOf bs
    match launchCheck s (q % 4) asid desc with
    | (.error none, _) => s
    | (.error (some code), s) => (s.rejectLaunch q asid code (some desc)).nextEntry q
    | (.ok (map, cs), s) =>
      let count := ldPkgs desc + 1
      let peers := s.replicaSlots count
      let (gen, s) := s.drawGen count
      let o : Offer :=
        { queue := q, prio := qPrio d, asid, scope := qScope d, desc, gen, place := none, shadow := none, producer := s.headProducer q, map,
          counters := cs, pkgIndex := 0, pkgCount := count, home := s.boot.podSlot, peers, ready := [] }
      let s := s.setQueue q { s.queue q with offer := some o }
      match gen with
      | some g => s.toReplicas peers fun slot i =>
          .replica slot ⟨s.boot.podSlot, q, qPrio d, asid, qScope d, g, i, count, bytesOfDwords desc⟩
      | none => s

/-! ### Places (R338) -/

/-- The aligned places of a launch's shape, lowest Y0 then lowest X0 first. -/
def alignedPlaces (d : List Word) : List (Nat × Nat) :=
  (List.range (16 / 2 ^ ldLh d)).flatMap fun y => (List.range (32 / 2 ^ ldLw d)).map fun x => (x * 2 ^ ldLw d, y * 2 ^ ldLh d)

/-- A candidate's rank (R333): E, entries and log2 of the size of its queue, when its head entry was published. -/
structure Rank where
  e : Nat
  count : Nat
  log : Nat
  age : Nat

/-- One candidate is ranked before another: by descending E, then by fill, then by the oldest head entry. -/
def Rank.before (a b : Rank) : Bool :=
  let fa := a.count * 2 ^ b.log
  let fb := b.count * 2 ^ a.log
  decide (b.e < a.e ∨ (a.e = b.e ∧ (fb < fa ∨ (fa = fb ∧ a.age < b.age))))

/-- The rank of a queue of the package. -/
def State.queueRank (s : State) (q : Nat) : Rank :=
  let d := s.queueDesc q
  ⟨s.queuePrio q, qCount d, qLog d, (((s.queue q).seen.head?).map (·.2)).getD s.cycles⟩

/-- The rank of an offer. One of another package has its queue's priority, and no fill that this package knows (DESIGN CHOICE, log entry 43). -/
def State.offerRank (s : State) (o : Offer) : Rank := if o.pkgIndex = 0 then s.queueRank o.queue else ⟨o.prio, 0, 0, s.cycles⟩

/-- Two offers are the same launch's. -/
def Offer.same (a b : Offer) : Bool := a.queue == b.queue && a.pkgIndex == b.pkgIndex && a.gen == b.gen

/-- The cores of the places fixed for other offers. -/
def State.heldCores (s : State) (o : Offer) : List Nat := (s.offers.filter fun x => !x.same o).flatMap Offer.cores

/-- The cores that are held for other offers though a place fixed for this one holds them too: those of the offers ranked before it (R333). -/
def State.heldAbove (s : State) (o : Offer) : List Nat :=
  (s.offers.filter fun x => !x.same o && (s.offerRank x).before (s.offerRank o)).flatMap Offer.cores

/-- Places without a quarantined or retired core. -/
def State.candidates (s : State) (d : List Word) : List (Nat × Nat) :=
  (alignedPlaces d).filter fun p => (placeCores d p).all fun c => (s.core c).health.status == .inService

/-- Every core of a place is free of any launch. -/
def State.placeFree (s : State) (d : List Word) (held : List Nat) (p : Nat × Nat) : Bool :=
  (placeCores d p).all fun c => (s.core c).part.isNone && !held.contains c

/-- The places that may be the shadow of a DUAL launch at a place (R431): disjoint from it, and quarantined cores may serve. -/
def State.shadows (s : State) (d : List Word) (p : Nat × Nat) : List (Nat × Nat) :=
  (alignedPlaces d).filter fun x => (placeCores d x).all fun c => (s.core c).health.status != .retired && !(placeCores d p).contains c

/-- Of places in order of Y0 and X0, the one with the fewest occupied cores (R338). -/
def State.fewestOccupied (s : State) (d : List Word) (ps : List (Nat × Nat)) : Option (Nat × Nat) :=
  let n (p : Nat × Nat) : Nat := ((placeCores d p).filter fun c => (s.core c).part.isSome).length
  (sortBy (fun a b => decide (n a < n b)) ps).head?

/-- What placing an offer comes to now: it is placed, its place is fixed or released, with its shadow's in mode DUAL, or it waits. -/
inductive PlaceMove where
  | put (p : Nat × Nat) (shadow : Option (Nat × Nat))
  | fix (p shadow : Option (Nat × Nat))
  | stuck
deriving DecidableEq, Repr

/-- An earlier replicated launch is not placed yet (R342). -/
def State.behindEarlier (s : State) (o : Offer) : Bool :=
  match o.gen with
  | none => false
  | some g => s.offers.any (fun (x : Offer) => x.gen.any fun h => genBefore h g) || s.sched.incoming.any fun (r : ReplicaMsg) => genBefore (r.gen % 2 ^ 32) g

/-- A launch without a fixed place takes the first that is free of launches and of what is held for others; with none it fixes the one with the
fewest occupied cores (R338), and so for the shadow of mode DUAL (R431). -/
def choosePlace (s : State) (o : Offer) : PlaceMove :=
  let d := o.desc
  let free (p : Nat × Nat) : Bool := s.placeFree d (s.heldCores o) p
  let put (p : Nat × Nat) : Option PlaceMove :=
    if !free p then none
    else if ldMode d ≠ modeDual then some (.put p none)
    else ((s.shadows d p).find? free).map fun x => .put p (some x)
  match (s.candidates d).findSome? put with
  | some m => m
  | none => match s.fewestOccupied d (s.candidates d) with
    | none => .stuck
    | some p => .fix (some p) (if ldMode d ≠ modeDual then none else s.fewestOccupied d (s.shadows d p))

/-- The move of an offer (R338). A launch whose place is fixed is placed once all its cores are free, but for those that are held for an offer ranked
before it (R333; DEDUCED, log entry 38). -/
def placeMove (s : State) (o : Offer) : PlaceMove :=
  if s.behindEarlier o then .stuck
  else
    let d := o.desc
    match o.place with
    | none => choosePlace s o
    | some p =>
      let fixed : Bool := (s.candidates d).contains p &&
        (ldMode d != modeDual || match o.shadow with | some x => (s.shadows d p).contains x | none => false)
      let free (p : Nat × Nat) : Bool := s.placeFree d (s.heldAbove o) p
      if !fixed then (match choosePlace s o with | .stuck => .fix none none | m => m)
      else if free p && o.shadow.all free then .put p o.shadow
      else .stuck

/-! ### Placement (R339) -/

/-- The partition of a launch-relative core. -/
def partitionOf (l : Nat) (d : List Word) (map : List Nat) (now rel : Nat) : Partition :=
  let n := (teamsOn map rel).length
  let spBase := n * windowBytes (ldLanes d) (ldVregs d)
  { launch := l, clusters := ldClusters d, mode := ldMode d, spBase, spSize := ldSp d, trapBase := spBase + ldSp d,
    l1Base := usedBytes d n, cx := rel % 32, cy := rel / 32, setup := false, setupAt := now }

/-- An offer is placed: its cores are taken and their partitions begin to be set up. A shadow core is set up without teams. Its start will be an
acquire at a scope that covers the producer and each of its cores (R292, R340). -/
def State.place (s : State) (o : Offer) (p : Nat × Nat) (shadow : Option (Nat × Nat)) : State :=
  let l := s.sched.nextLaunch
  let d := s.queueDesc o.queue
  let at_ (p : Nat × Nat) (r : Nat) : Nat := coreAt (p.1 + r % 32) (p.2 + r / 32)
  let rels := relCores o.desc
  let s := rels.foldl (fun (s : State) r => s.modCore (at_ p r) fun k => k.setUp (partitionOf l o.desc o.map s.cycles r)) s
  let s := match shadow with
    | some x => rels.foldl (fun (s : State) r => s.modCore (at_ x r) fun k => k.setUp { partitionOf l o.desc [] s.cycles r with setup := true }) s
    | none => s
  let scope := if qKind d = 2 ∧ o.pkgIndex = 0 then o.scope else rels.foldl (fun n r => handOff n o.producer (at_ p r)) o.scope
  let x : Launch :=
    { gen := o.gen.getD (s.sched.launchCount % 2 ^ 32), queue := o.queue, asid := o.asid, desc := o.desc, x0 := p.1, y0 := p.2,
      map := o.map, cores := rels.foldl (fun m r => m.set 0 r (at_ p r)) [], counters := o.counters, live := o.map.length,
      started := false, pkgIndex := o.pkgIndex, pkgCount := o.pkgCount, home := o.home, peers := o.peers, ready := o.ready,
      graph := if qKind d = 2 ∧ o.pkgIndex = 0 then qGraph d else 0, scope, ctx := s.context o.asid, requests := [], shadow }
  let s := (s.setLaunch l (some x)).modSched fun z => { z with nextLaunch := l + 1, launchCount := z.launchCount + 1 }
  let s := if x.graph = 0 then s
    else rels.foldl (fun (s : State) r => s.blacken x.graph (at_ p r)) s
  s.count o.queue 0x38 1

/-- The offer of a queue is settled: its entry is consumed, or its instance noted. -/
def State.offerDone (s : State) (q l : Nat) : State :=
  let k := qKind (s.queueDesc q)
  (s.setQueue q { s.queue q with offer := none, instance_ := if k = 2 then some l else none }).nextEntry q

/-! ### The start (R339, R340, R343) -/

/-- The teams of a core at the end of its setup. -/
def State.makeTeams (s : State) (c l : Nat) (x : Launch) (p : Partition) : State :=
  let d := x.desc
  let ctx := x.ctx
  let ts := teamsOn x.map (p.cy * 32 + p.cx)
  let size := windowBytes (ldLanes d) (ldVregs d)
  ((List.range ts.length).zip ts).foldl (fun s e =>
    let id : TeamId :=
      { index := e.2, lanes := ldLanes d, sregs := ldSregs d, vregs := ldVregs d, trapres := ldTrapres d, launch := l, gen := x.gen,
        queue := x.queue, asid := x.asid, runtime := contextRT ctx, cx := p.cx, cy := p.cy, rank := rankOf p.cx p.cy, order := e.1,
        regwin := e.1 * size, strapvec := ctx.getD 1 0, saveBase := dw ctx 2, entry := wordN (ldEntry d) }
    let m := Team.start id (Lease.start (ldAuto d) (ldLease d) s.cycles) s.cycles
    s.modCore c fun k => k.place { m with sched := { m.sched with started := x.started } } (ldArgs d)) s

/-- The teams of a launch begin: each start is an acquire at the queue's SCOPE (R340). -/
def State.startLaunch (s : State) (l : Nat) : State :=
  match s.launch l with
  | none => s
  | some x =>
    let s := s.setLaunch l (some { x with started := true })
    let cs := (s.cores.filter fun e => (e.2.part.map (·.launch)) == some l).map (·.1)
    cs.foldl (fun s c =>
      ((s.core c).residents.foldl (fun s e => s.modTeam c e.1 fun m => m.modSched fun y => { y with started := true, since := s.cycles }) s).acquire
        c x.scope) s

/-- Replica 0 holds every report: START goes out (R343). -/
def State.tryStart (s : State) (l : Nat) : State :=
  match s.launch l with
  | none => s
  | some x =>
    if x.started || x.pkgIndex != 0 || x.ready.length < x.pkgCount then s
    else (if x.pkgCount = 1 then s else s.toReplicas x.peers fun slot i => .launch slot 2 x.gen i).startLaunch l

/-- Every core of the launch has been set up. -/
def State.launchSetUp (s : State) (l : Nat) : Bool :=
  s.cores.all fun e => match e.2.part with | some p => p.launch != l || p.setup | none => true

/-- A replica is placed: it reports READY (R343). -/
def State.reportReady (s : State) (l : Nat) : State :=
  match s.launch l with
  | none => s
  | some x =>
    if x.pkgIndex = 0 then (s.setLaunch l (some { x with ready := insertNat 0 x.ready })).tryStart l
    else s.sendPeer (.launch x.home 1 x.gen x.pkgIndex)

/-- R155, R339: the setup of a core ends after 128 cycles; its teams become resident. -/
def execPartitionSetupComplete (core : Nat) (s : State) : Host.Outcome State Fault Refusal :=
  .next (match (s.core core).part with
  | none => s
  | some p =>
    if p.setup ∨ s.cycles < p.setupAt + 128 then s
    else match s.launch p.launch with
      | none => s
      | some x =>
        let s := s.modCore core fun k => { k with part := some { p with setup := true } }
        let s := s.makeTeams core p.launch x p
        if s.launchSetUp p.launch then s.reportReady p.launch else s)

/-! ### Replicas of launches placed elsewhere (R341 to R343) -/

/-- A descriptor from the placing package, checked as if it had come from a queue of the same number and priority (R341); it waits where a line that
it needs is an engine's. -/
def State.replicaIn (s : State) (r : ReplicaMsg) : State :=
  let q := r.queue % 2 ^ 17
  let desc := dwordsOf r.desc
  match launchCheck s (q % 4) r.asid desc with
  | (.error none, _) => s.modSched fun z => { z with incoming := z.incoming ++ [r] }
  | (.error (some code), s) => s.rejectLaunch q r.asid code (some desc)
  | (.ok (map, cs), s) =>
    s.modSched fun z => { z with replicas := z.replicas ++ [
      { queue := q, prio := r.prio, asid := r.asid, scope := r.scope, desc, gen := some (r.gen % 2 ^ 32), place := none, shadow := none,
        producer := none, map, counters := cs, pkgIndex := r.index, pkgCount := r.count, home := r.home, peers := [r.home], ready := [] }] }

/-- The descriptors that have waited are tried again, in order. -/
def State.serveIncoming (s : State) : State :=
  s.sched.incoming.foldl (fun s r => s.replicaIn r) (if s.sched.incoming.isEmpty then s else s.modSched fun z => { z with incoming := [] })

/-- R341: the message carries the priority, the address space and the SCOPE of the issuing queue. -/
def execReplicaDescriptorReceived (r : ReplicaMsg) (s : State) : Host.Outcome State Fault Refusal := .next (s.replicaIn r)

/-- The launch of a generation with a role on this package: placed, and not started. -/
def State.findReplica (s : State) (gen : Nat) (first : Bool) : Option (Nat × Launch) :=
  s.sched.launches.findSome? fun e => e.2.bind fun x =>
    if x.gen = gen ∧ 1 < x.pkgCount ∧ !x.started ∧ (x.pkgIndex == 0) = first then some (e.1, x) else none

/-- R343: a report arrives at replica 0, placed or not. -/
def execReplicaReady (gen index : Nat) (s : State) : Host.Outcome State Fault Refusal :=
  .next (match s.findReplica gen true with
  | some (l, x) => if index < x.pkgCount then (s.setLaunch l (some { x with ready := insertNat index x.ready })).tryStart l else s
  | none => s.modSched fun z => { z with queues := z.queues.mapVals QueueInt.init fun i => { i with
      offer := i.offer.map fun o => if o.gen = some gen ∧ index < o.pkgCount then { o with ready := insertNat index o.ready } else o } })

/-- R343: START arrives. -/
def execReplicaStart (gen : Nat) (s : State) : Host.Outcome State Fault Refusal :=
  .next (match s.findReplica gen false with
  | some (l, _) => s.startLaunch l
  | none => s)

/-- A replicated launch that has not started is given up (R343). -/
def State.abortLaunch (s : State) (gen : Nat) : State :=
  let s := match (s.findReplica gen true).orElse fun _ => s.findReplica gen false with
    | some (l, x) =>
      let s := (s.freeCores l).setLaunch l none
      let s := s.setQueue x.queue { s.queue x.queue with instance_ := if (s.queue x.queue).instance_ = some l then none else (s.queue x.queue).instance_ }
      s.rejectLaunch x.queue x.asid 9 (some x.desc)
    | none => s
  let s := (s.sched.queues.filterMap fun e => e.2.offer).foldl (fun s o =>
    if o.gen = some gen then
      ((s.setQueue o.queue { s.queue o.queue with offer := none }).rejectLaunch o.queue o.asid 9 (some o.desc)).nextEntry o.queue
    else s) s
  let mine := s.sched.replicas.filter fun o => o.gen == some gen
  let s := s.modSched fun z => { z with replicas := z.replicas.filter fun o => o.gen != some gen }
  mine.foldl (fun s o => s.rejectLaunch o.queue o.asid 9 (some o.desc)) s

/-- R343: ABORT arrives. -/
def execReplicaAbort (gen : Nat) (s : State) : Host.Outcome State Fault Refusal := .next (s.abortLaunch gen)

end Sys2Proof.Machine
end

