-- ==== Sys2Proof/Machine/EventsSched.lean ====
section
/-!
DEFINITION. The events of the queue manager and the work distributor (R328 to R346, R363 to R365, R404), and of the migration engine
(R381 to R383).
-/
namespace Sys2Proof.Machine

/-! ### Periodic events -/

/-- Runs `k` once in each period of an event: `kind` and `id` name the event and its unit. -/
def State.periodic (s : State) (kind id period : Nat) (k : State → State) : State :=
  let key := kind + 16 * id
  let n := s.cycles / period
  if n ≤ s.sched.timers.get 0 key then s else k (s.modSched fun z => { z with timers := z.timers.set 0 key n })

/-- Ten microseconds, in cycles. -/
def quantum : Nat := 10 * cyclesPerUs

/-! ### Queues (R328 to R333) -/

/-- R404: the queue manager sees a write of TAIL. -/
def execQueueTailSeen (queue : Nat) (s : State) : Host.Outcome State Fault Refusal :=
  .next (if queue < 2 ^ 17 then s.lookQueue queue else s)

/-- The queues of a die that the queue manager keeps anything of. -/
def State.queuesOf (s : State) (d : Nat) : List Nat := (s.sched.queues.map (·.1)).filter fun q => q % 4 == d

/-- A launch of a queue is in placement. -/
def State.inPlacement (s : State) (q : Nat) : Bool :=
  (s.queue q).offer.isSome || s.sched.launches.any fun e => match e.2 with | some x => x.queue == q && !x.started | none => false

/-- The top of the class of a queue (R328). -/
def classTop (d : List Word) : Nat := if qPrio d ≤ 11 then 11 else 23

/-- The slots that a queue may take (R329), lowest first. -/
def slotsFor (d : List Word) : List Nat := if qPrio d ≤ 11 then List.range 256 else (List.range 240).map (· + 16)

/-- The queue that holds a slot of a die. -/
def State.slotHolder (s : State) (d k : Nat) : Option Nat := (s.queuesOf d).find? fun q => (s.queue q).slot == some k

/-- The WAITING queues of a die in rank order (R332). -/
def State.waitingRank (s : State) (d : Nat) : List Nat :=
  let w (q : Nat) : Nat := (s.queue q).waitSince.getD 0
  sortBy (fun a b => decide (s.queuePrio b < s.queuePrio a ∨ (s.queuePrio a = s.queuePrio b ∧ w a < w b)))
    ((s.queuesOf d).filter fun q => (s.queue q).waitSince.isSome)

/-- A queue takes a slot. -/
def State.mapQueue (s : State) (q k : Nat) : State :=
  s.setQueue q { s.queue q with slot := some k, waitSince := none, mapSince := s.cycles, emptyBefore := false }

/-- A queue leaves its slot; a launch it had taken returns to its head, but for one that has its generation (R332, R342). -/
def State.unmapQueue (s : State) (q : Nat) : State :=
  let i := s.queue q
  let keep := i.offer.bind fun o => if o.gen.isSome then some { o with place := none, shadow := none } else none
  (s.setQueue q { i with slot := none, waitSince := none, offer := keep }).lookQueue q

/-- Gives a free slot to a waiting queue, if there is one. -/
def State.giveSlot (s : State) (d q : Nat) : State :=
  match (slotsFor (s.queueDesc q)).find? fun k => (s.slotHolder d k).isNone with
  | some k => s.mapQueue q k
  | none => s

/-- The mapped queue that a waiting one may displace (R332 step 4). -/
def State.displaced (s : State) (d w : Nat) : Option Nat :=
  let e := s.queuePrio w
  let top := classTop (s.queueDesc w)
  let long (q : Nat) : Bool := decide ((s.queue q).mapSince + 1000 * cyclesPerUs ≤ s.cycles)
  let ok (q : Nat) : Bool := match (s.queue q).slot with
    | some k => (slotsFor (s.queueDesc w)).contains k &&
        (decide (s.queuePrio q < e) || (s.queuePrio q == e && e == top && long q))
    | none => false
  let before (a b : Nat) : Bool :=
    let pa := s.queuePrio a
    let pb := s.queuePrio b
    let ma := (s.queue a).mapSince
    let mb := (s.queue b).mapSince
    decide (pa < pb ∨ (pa = pb ∧ (ma < mb ∨ (ma = mb ∧ b < a))))
  (sortBy before ((s.queuesOf d).filter ok)).head?

/-- Up to n displacements by the waiting queues in rank order. -/
def State.displace (s : State) (d : Nat) : Nat → List Nat → State
  | 0, _ => s
  | _, [] => s
  | n + 1, w :: rest =>
    match s.displaced d w with
    | none => s.displace d (n + 1) rest
    | some q =>
      match (s.queue q).slot with
      | some k => ((s.unmapQueue q).mapQueue w k).displace d n rest
      | none => s.displace d (n + 1) rest

/-- One re-evaluation of a die (R332). -/
def State.reevaluate (s : State) (d : Nat) : State :=
  let qs := s.queuesOf d
  let s := qs.foldl (fun s q => s.lookQueue q) s
  let s := qs.foldl (fun s q =>
    let e := s.queueDesc q
    let i := s.queue q
    if i.slot.isSome && (queueBroken e || (i.emptyBefore && qCount e == 0 && !s.inPlacement q)) then s.unmapQueue q else s) s
  let ranked := s.waitingRank d
  let s := ranked.foldl (fun s q => s.giveSlot d q) s
  let s := s.displace d 4 (ranked.filter fun q => (s.queue q).slot.isNone)
  let s := qs.foldl (fun s q =>
    let i := s.queue q
    s.setQueue q { i with emptyBefore := i.slot.isSome && qCount (s.queueDesc q) == 0 }) s
  (qs.foldl (fun s q => s.lookQueue q) s).trySaves

/-- R332: at every multiple of 10 µs. -/
def execQueueReevaluation (die : Nat) (s : State) : Host.Outcome State Fault Refusal :=
  .next (if die < 4 then s.periodic 0 die quantum fun s => s.reevaluate die else s)

/-! ### Placement (R333, R338, R339) -/

/-- A mapped queue that has a launch to offer. A record queue with NODE 0 offers none (DESIGN CHOICE, log entry 107). -/
def State.offersLaunch (s : State) (q : Nat) : Bool :=
  let d := s.queueDesc q
  let i := s.queue q
  i.slot.isSome && !queueBroken d && !queueOverfull d && !i.closed &&
    (i.offer.isSome || (qCount d != 0 && (qKind d == 1 || (qKind d == 2 && i.instance_.isNone && qNode d != 0))))

/-- An offer can go on: it can be placed, or its place is to be fixed or released. -/
def State.canMove (s : State) (o : Offer) : Bool :=
  match placeMove s o with
  | .stuck => false
  | .fix p x => p != o.place || x != o.shadow
  | .put _ _ => true

/-- A candidate can go on: its launch is still to be taken, or can move. -/
def State.canOffer (s : State) (q : Nat) : Bool := s.offersLaunch q && (s.queue q).offer.all s.canMove

/-- A candidate of a die, of a queue or of another package, that is ranked before a rank and can go on (R333, R341). -/
def State.aheadOf (s : State) (d : Nat) (r : Rank) : Bool :=
  (s.queuesOf d).any (fun q => (s.queueRank q).before r && s.canOffer q) ||
  s.sched.replicas.any fun o => o.queue % 4 == d && (s.offerRank o).before r && s.canMove o

/-- Places an offer, fixes its place, or leaves it; the launch number when it was placed. -/
def State.moveOffer (s : State) (o : Offer) : Option Nat × Option Offer × State :=
  match placeMove s o with
  | .stuck => (none, some o, s)
  | .fix p x => (none, some { o with place := p, shadow := x }, s)
  | .put p shadow => (some s.sched.nextLaunch, none, s.place o p shadow)

/-- The replicated launch of another package with that queue number that is next in its order (R342). -/
def State.nextReplica (s : State) (q : Nat) : Option Offer :=
  (s.sched.replicas.filter fun o => o.queue == q && !s.behindEarlier o).head?

/-- The replicated launch of another package is placed, or its place fixed. -/
def State.moveReplica (s : State) (o : Offer) : State :=
  let (_, left, s) := s.moveOffer o
  s.modSched fun z => { z with replicas := match left with
    | some n => z.replicas.map fun y => if y = o then n else y
    | none => z.replicas.filter (· != o) }

/-- The head launch of a queue is taken, or the launch that it has taken is placed or its place fixed. -/
def State.moveQueue (s : State) (q : Nat) : State :=
  match (s.queue q).offer with
  | none => s.takeLaunch q
  | some o =>
    match s.moveOffer o with
    | (some l, _, s) => s.offerDone q l
    | (none, left, s) => s.setQueue q { s.queue q with offer := left }

/-- R333, R338: the queue manager goes on with the launch of another package that bears a queue's number, or with the queue's own; a candidate
ranked before it on its die goes first while it can go on. -/
def execLaunchPlacement (queue : Nat) (s : State) : Host.Outcome State Fault Refusal :=
  let d := queue % 4
  .next (match (s.nextReplica queue).filter fun o => s.canMove o && !s.aheadOf d (s.offerRank o) with
  | some o => s.moveReplica o
  | none => if s.aheadOf d (s.queueRank queue) || !s.offersLaunch queue then s else s.moveQueue queue)

/-! ### The work distributor (R344 to R346) -/

/-- R345: one request is answered: the item, then 8 bytes at the arrival word. -/
def execWdqServe (launch index : Nat) (s : State) : Host.Outcome State Fault Refusal :=
  .next (match s.launch launch with
  | none => s
  | some x =>
    match x.requests[index]? with
    | none => s
    | some (rel, t, n, ans, aw) =>
      let c := x.cores.get 0 rel
      let (next, limit, step) := x.counters.getD n (0, 0, 0)
      let item := if limit ≤ next then 0xFFFFFFFF else next
      let after := if limit ≤ next then next else if next + step < limit then next + step else limit
      let s := s.setLaunch launch (some { x with
        requests := x.requests.take index ++ x.requests.drop (index + 1), counters := x.counters.set n (after, limit, step) })
      let s := match s.cores.find? fun e => match e.2.teams.get none t with | some m => m.id.launch == launch | none => false with
        | some e => s.modTeam e.1 t fun m => { m with wdq := m.wdq - 1 }
        | none => s
      let p := s.enginePlace c ans
      let a := s.enginePlace c aw
      ((s.engineScratch p.core p.off (natBytes 8 item) false).contribute a.core a.off 8 0 false).trySaves)

/-! ### Work graphs (R363 to R365) -/

/-- The queues whose descriptors hold anything, ascending. -/
def State.knownQueues (s : State) : List Nat :=
  let base := s.queuePa 0
  sortNats (s.mem.bytes.filterMap fun e => if base ≤ e.1 ∧ e.1 < base + 2 ^ 23 then some ((e.1 - base) / 64) else none)

/-- The queues of a graph, ascending. -/
def State.graphQueues (s : State) (g : Nat) : List Nat :=
  s.knownQueues.filter fun q => let d := s.queueDesc q; !queueBroken d && qKind d == 2 && qGraph d == g

/-- The core that the token visits n-th: ascending die, then y, then x. -/
def tokenCore (n : Nat) : Nat := coreAt (16 * (n / 128 % 2) + n % 16) (8 * (n / 256) + n % 128 / 16)

/-- A team waits in a pop on a queue of a graph. -/
def popsFrom (s : State) (g : Nat) (m : Team) : Bool :=
  match m.sched.hold with
  | some (.queue op) => op.kind == .pop && !handleRing op.handle && qGraph (s.queueDesc (op.handle.toNat % 2 ^ 17)) == g
  | _ => false

/-- A core is passive for a graph (R364). -/
def State.passive (s : State) (g c : Nat) : Bool :=
  let ofGraph (l : Nat) : Bool := match s.launch l with | some x => x.graph == g | none => false
  let placing := match (s.core c).part with
    | some p => ofGraph p.launch && (match s.launch p.launch with | some x => !x.started | none => false)
    | none => false
  !placing && (s.core c).residents.all fun e =>
    !ofGraph e.2.id.launch || !(e.2.sched.state == .ready || e.2.sched.state == .active) || popsFrom s g e.2

/-- The queues that the material table of a query names for the leaves of its structure (R202, R364; DEDUCED, log entry 40). -/
def State.tableQueues (s : State) (cmd : BeamCmd) (d : List Word) : List Nat :=
  let at_ (va : Nat) : Option Nat :=
    match (engineXlate s (dieOf cmd.core) cmd.asid cmd.runtime Need.load va cmd.own).1 with
    | .ok pa => some pa
    | .error _ => none
  (List.range (queryOf d).nodeCount).filterMap fun n =>
    (at_ ((queryOf d).root + 128 * n)).bind fun pa =>
      let w := words32 (s.mem.read pa 128)
      if nodeBad w || nodeType w == 1 then none
      else (at_ (bmTab d + 4 * nodeMaterial w)).bind fun pa =>
        let e := bytesN (s.mem.read pa 4)
        if bit e 31 || bits e 17 14 != 0 then none else some (bits e 0 17)

/-- A running query names a queue of a graph: in SPLITQ, or in its material table. -/
def State.beamNames (s : State) (qs : List Nat) : Bool :=
  s.clusters.any fun e => match e.2.run with
    | some r => match r.cmd.job with
      | .beam _ d => (qs.contains (bmSplitQ d) && (queryOf d).handoff) || (bmRecords d && (s.tableQueues r.cmd d).any qs.contains)
      | .trace _ _ => false
    | none => false

/-- A graph has terminated (R365). A GSIGNAL of 0 names no word (DESIGN CHOICE, log entry 106). -/
def State.terminate (s : State) (g : Nat) (qs : List Nat) : State :=
  let s := qs.foldl (fun s q =>
    (s.setQueue q { s.queue q with closed := true, slot := none, offer := none, waitSince := none }).lookQueue q) s
  let s := s.modSched fun z => { z with graphs := z.graphs.set none g none }
  match qs with
  | [] => s
  | q :: _ =>
    let d := s.queueDesc q
    if qSignal d = 0 then s else s.atomicAdd (q % 4) (qAsid d) (qSignal d) 8 1

/-- R364: a round begins at core 0 with a white token. -/
def execTerminationRound (graph : Nat) (s : State) : Host.Outcome State Fault Refusal :=
  let y := (s.sched.graphs.get none graph).getD ⟨0, true, false, []⟩
  .next (if y.running || graph == 0 || (s.graphQueues graph).all (fun q => (s.queue q).closed) then s
  else s.modSched fun z => { z with graphs := z.graphs.set none graph (some { y with at_ := 0, white := true, running := true }) })

/-- R364: the token leaves a passive core; after the last core the round is judged. -/
def execTerminationTokenPass (graph : Nat) (s : State) : Host.Outcome State Fault Refusal :=
  .next (match s.sched.graphs.get none graph with
  | none => s
  | some y =>
    let c := tokenCore y.at_
    if !y.running || !s.passive graph c then s
    else
      let white := y.white && !y.black.contains c
      let y := { y with white, black := y.black.filter (· != c), at_ := y.at_ + 1 }
      let put (y : Graph) : State := s.modSched fun z => { z with graphs := z.graphs.set none graph (some y) }
      if y.at_ < 512 then put y
      else
        let qs := s.graphQueues graph
        if white && qs.all (fun q => qCount (s.queueDesc q) == 0 && !s.inPlacement q) && !s.beamNames qs then s.terminate graph qs
        else put { y with at_ := 0, white := true })

/-! ### Migration (R381 to R383) -/

/-- R381: every millisecond each counter is halved and the epoch's requesters are forgotten. -/
def execHotnessDecay (die : Nat) (s : State) : Host.Outcome State Fault Refusal :=
  .next (s.periodic 1 die (1000 * cyclesPerUs) fun s => s.modDie die fun k =>
    { k with hot := k.hot.mapVals none fun v => v.map fun e => { e with h := e.h / 2, mixed := false, dies := [] } })

/-- A decision of R382. -/
inductive Decision where
  | keep | replicate (target : Nat) | migrate (target : Nat)
deriving DecidableEq, Repr

/-- The migration control of a die: FRES, HTH, OFF. -/
def migFres (w : Word) : Nat := bits w.toNat 8 16
def migHth (w : Word) : Nat := bits w.toNat 0 8

/-- The decision about a page homed on a die (R382). -/
def migrationDecision (s : State) (d frame occupancy : Nat) : Decision :=
  let k := s.die d
  match k.hot.get none frame with
  | none => .keep
  | some e =>
    let pa := frame * 65536
    let leaf := s.mem.dword e.leaf
    let target := if e.mixed then d else e.last
    if e.h < migHth k.migctl then .keep
    else if k.migctl.getLsbD 31 || bit leaf 10 || e.shared || isNear target pa then .keep
    else if e.h < migHth k.migctl + occupancy / 32 || (s.die target).free.length ≤ migFres k.migctl then .keep
    else if s.mem.sealed pa && target != d then .replicate target
    else .migrate target

/-- Something is still on its way to a page, or an engine writes it: the page must wait. -/
def State.pageBusy (s : State) (pa : Nat) : Bool :=
  s.cores.any (fun e => e.2.inflight.any fun x => decide (pa ≤ x.pa ∧ x.pa < pa + 65536)) ||
  s.mem.ranges.any fun r => meets r.pieces pa 65536

/-- Copies a page with its marks (R232). -/
def Memory.copyPage (m : Memory) (src dst : Nat) : Memory :=
  (List.range 2048).foldl (fun m i =>
    let o := 32 * i
    m.write (dst + o) (m.read (src + o) 32) (m.mark (src + o) 32)) m

/-- Held region stores and store translations follow a page to its new frame. -/
def State.moveHeld (s : State) (src dst : Nat) : State :=
  { s with cores := s.cores.mapVals Core.init fun k => { k with teams := k.teams.map fun e => (e.1, e.2.map fun m =>
      { m with region := m.region.map fun g => { g with held := g.held.map fun h =>
          if src ≤ h.pa ∧ h.pa < src + 65536 then { h with pa := dst + (h.pa - src) } else h } }) } }

/-- Moves a page to a new frame (R383 steps 2 to 7): a seal and the CMP note move with it; the old frame returns to its list. -/
def State.migrate (s : State) (d frame target new : Nat) (e : Hot) : State :=
  let src := frame * 65536
  let leaf := s.mem.dword e.leaf
  let leaf' := leaf - frame * 65536 + new
  let wasSealed := s.mem.sealed src
  let s := (s.modMem fun m => m.copyPage src new).moveHeld src new
  let s := s.modMem fun m => { m with
    seals := if wasSealed then (new, 65536) :: cutRanges m.seals src 65536 else m.seals
    cmp := (m.cmp.set false (new / 65536) (m.cmp.get false frame)).set false frame false }
  let s := s.writeHome e.leaf (natBytes 8 leaf') (s.mem.mark e.leaf 8)
  let s := { s with
    cores := s.cores.mapVals Core.init fun k => { k with tlb := k.tlb.filter fun t => t.leafPa != e.leaf }
    dies := s.dies.mapVals Die.init fun k => { k with tlb := k.tlb.filter fun t => t.leafPa != e.leaf } }
  let s := s.dropPages [(src, 65536)]
  let s := s.modDie target fun k => { k with free := k.free.filter (· != new) }
  let s := s.modDie d fun k => { k with hot := k.hot.set none frame none }
  let s := if isNear d src then freePush s d (wordN src) else s
  ((slotsOf s.boot.podLive.toNat).filter (· != s.boot.podSlot)).foldl (fun s p => s.sendPeer (.invalidate p)) s

/-- R382, R383: a die's engine examines a page every 100 µs. A leaf that software has changed ends the migration without effect. -/
def execMigrationExamine (die frame occupancy : Nat) (s : State) : Host.Outcome State Fault Refusal :=
  let q := if occupancy < 1023 then occupancy else 1023
  .next (s.periodic 2 frame (100 * cyclesPerUs) fun s =>
    match (s.die die).hot.get none frame, migrationDecision s die frame q with
    | some e, .migrate t =>
      let leaf := s.mem.dword e.leaf
      match (s.die t).free with
      | new :: _ =>
        if s.pageBusy (frame * 65536) || bits leaf 16 36 != frame || !bit leaf 0 || !bit leaf 1 then s
        else s.migrate die frame t new e
      | [] => s
    | some e, .replicate t =>
      let leaf := s.mem.dword e.leaf
      match (s.die t).free with
      | new :: rest =>
        if bits leaf 16 36 != frame || (s.die t).replicas.any (fun r => r.page == frame * 65536) then s
        else (s.modMem fun m => m.copyPage (frame * 65536) new).modDie t fun k =>
          { k with free := rest, replicas := k.replicas ++ [⟨frame * 65536, t, new⟩] }
      | [] => s
    | _, _ => s)

end Sys2Proof.Machine
end

