-- ==== Sys2Proof/Machine/EventsRecovery.lean ====
section
/-!
DEFINITION. The events of error detection and recovery: detectors and their responses (R414, R436), Speedwell (R421 to R424), the third
core of DUAL (R431), lanes, ways and rows that retire (R432 to R434), wear (R435).
-/
namespace Sys2Proof.Machine

/-- The DET code of a detector (R436). -/
def detCode : Detector → Nat
  | .none => 0 | .fp64Residue => 1 | .matrixResidue => 2 | .laneParity => 3 | .coreStoreEcc => 4 | .accEcc => 5 | .controlParity => 6
  | .l2Ecc => 7 | .rdcEcc => 8 | .hbmEcc => 9 | .lpddrEcc => 10 | .link => 11 | .pathCheck => 12 | .poison => 13 | .dualMismatch => 14
  | .engine => 15 | .check => 16 | .checkpoint => 17 | .wear => 18 | .coreState => 19

/-- The sites that a detector covers (R231, R414). -/
def covers : Detector → ErrSite → Bool
  | .fp64Residue, .scalar _ _ _ | .fp64Residue, .scalarPred _ _ _ | .fp64Residue, .lanes _ _ _ _ | .fp64Residue, .preds _ _ _ _ => true
  | .laneParity, .lanes _ _ _ _ | .laneParity, .preds _ _ _ _ | .laneParity, .store _ _ _ => true
  | .coreStoreEcc, .coreStore _ _ | .coreStoreEcc, .l1 _ _ => true
  | .coreStoreEcc, .way l _ => l == 1
  | .accEcc, .acc _ _ => true
  | .controlParity, .control _ _ => true
  | .l2Ecc, .memory _ => true
  | .l2Ecc, .way l _ => l == 2
  | .rdcEcc, .rdc _ _ => true
  | .rdcEcc, .way l _ => l == 3
  | .hbmEcc, .memory pa => paOff pa < 0x8000000000
  | .lpddrEcc, .memory pa => 0x10000000000 ≤ paOff pa
  | .link, .station _ => true
  | .pathCheck, .rdc _ _ | .pathCheck, .l1 _ _ | .pathCheck, .memory _ | .pathCheck, .copy _ _ | .pathCheck, .stream _ _ => true
  | .engine, .copy _ _ | .engine, .stream _ _ | .engine, .yarrow _ | .engine, .launch _ => true
  | .checkpoint, .checkpoint _ _ => true
  | .dualMismatch, .copies _ _ => true
  | _, _ => false

/-- The detectors whose errors can be corrected (R414). -/
def correctable : Detector → Bool
  | .coreStoreEcc | .accEcc | .l2Ecc | .rdcEcc | .hbmEcc | .lpddrEcc | .link | .pathCheck | .checkpoint => true
  | _ => false

/-- Milliseconds in cycles. -/
def msCycles (n : Nat) : Nat := n * 1000 * cyclesPerUs

/-- The times of a list that lie within a span before now. -/
def recent (now span : Nat) (ts : List Nat) : List Nat := ts.filter fun t => decide (now ≤ t + span)

/-- A record about a core, without a team. -/
def coreRecord (s : State) (c det resp unit : Nat) : LogRecord := { LogRecord.blank with det, resp, unit, place := physCore s c }

/-- A record about a sector of a die's memory or cache. -/
def dieRecord (s : State) (d det resp unit : Nat) (addr : Word) : LogRecord :=
  { LogRecord.blank with det, resp, unit, addr, place := memPlace s.boot.podSlot d }

/-- TRY of a record about a region: MOVES and ATTEMPT (R436). -/
def Region.tries (g : Region) : Nat := g.moves + 4 * g.attempt

/-- The record of an error report about a team. -/
def errRecord (s : State) (c : Nat) (m : Team) (e : ErrorReport) (resp : Nat) (addr : Word) : LogRecord :=
  { teamRecord s c m (detCode e.det) resp addr with
    unit := e.unit, data := e.data, tries := match m.region with | some g => g.tries | none => 0 }

/-- Logs a record with a RESP that the manual does not state (DESIGN CHOICE, log entry 3). -/
def State.logFree (s : State) (d : Nat) (r : LogRecord) : State :=
  let (w, s) := s.freeWord
  (s.log d { r with resp := bits w.toNat 0 8 }).2

/-! ### Changes of a core's state (R430) -/

/-- A core that is in service is quarantined; the change is logged. -/
def State.quarantine (s : State) (c : Nat) : State :=
  if (s.core c).health.status ≠ .inService then s
  else (s.log (dieOf c) (coreRecord s c 19 9 0)).2.modCore c fun k => { k with health := { k.health with status := .quarantined } }

/-- A core has lost an arbitration of DUAL. -/
def State.loseArbitration (s : State) (c : Nat) : State :=
  let s := s.modCore c fun k => { k with health := { k.health with lost := k.health.lost + 1 } }
  if (s.core c).health.status = .quarantined then
    (s.log (dieOf c) (coreRecord s c 19 8 0)).2.modCore c fun k => { k with health := { k.health with status := .retired } }
  else s.quarantine c

/-- A residue or parity detector (R430). -/
def residueOrParity (det : Nat) : Bool := det == 1 || det == 2 || det == 3 || det == 6

/-- Recovered errors are counted when their restore completes; three within 60 s quarantine the core (R430, R469). -/
def State.countRecovered (s : State) (c : Nat) (rs : List LogRecord) : State :=
  let n := (rs.filter fun r => residueOrParity r.det).length
  let s := s.modCore c fun k => { k with health := { k.health with
    recovered := recent s.cycles (msCycles 60000) k.health.recovered ++ List.replicate n s.cycles } }
  if 3 ≤ (s.core c).health.recovered.length then s.quarantine c else s

/-! ### Lanes and ways that retire (R432, R433, R470) -/

/-- A physical lane has had a parity error: the third within 10 ms retires it at the next safe point (R432). -/
def State.parityError (s : State) (c lane : Nat) : State :=
  s.modCore c fun k =>
    let h := k.health
    let ps := (h.parity.filter fun e => decide (s.cycles ≤ e.2 + msCycles 10)) ++ [(lane, s.cycles)]
    if 3 ≤ (ps.filter fun e => e.1 == lane).length ∧ !h.retiring.contains lane then
      { k with health := { h with parity := ps.filter fun e => e.1 != lane, retiring := h.retiring ++ [lane], safePoint := false } }
    else { k with health := { h with parity := ps } }

/-- The logical lane that a physical lane serves. -/
def CoreHealth.logical (h : CoreHealth) (lane : Nat) : Option Nat :=
  (List.range 32).find? fun l => (match h.remap.find? fun e => e.1 == l with | some e => e.2 | none => l) == lane

/-- A lane is remapped onto the lowest free spare; with both spares used it stays mapped, and the flag says that the core must be quarantined. -/
def retireLane (base : LogRecord) (c : Nat) (s : State) (lane : Nat) : Bool × State :=
  let h := (s.core c).health
  match h.logical lane with
  | none => (false, s)
  | some l =>
    if 2 ≤ h.spares then (true, s)
    else
      let s := s.modCore c fun k => { k with health := { h with
        remap := (l, 32 + h.spares) :: h.remap.filter (fun e => e.1 != l), spares := h.spares + 1, pauseUntil := s.cycles + 64 } }
      (false, (s.log (dieOf c) { base with det := 3, resp := 8, unit := lane }).2)

/-- A way of an L1 set group is retired, and the lines it held are dropped; a fifth quarantines the core. The stores that a region holds there stay
held (DEDUCED, log entry 11). -/
def retireWay (base : LogRecord) (c : Nat) (s : State) (w : WayPlace) : Bool × State :=
  if 4 ≤ ((s.core c).health.ways.filter fun e => e.1 == w.group).length then (true, s)
  else
    let s := s.modCore c fun k => { k with
      l1 := k.l1.keep fun u _ => !w.lines.contains (u / 4)
      health := { k.health with ways := k.health.ways ++ [(w.group, w.way)] } }
    (false, (s.log (dieOf c) { base with det := 4, resp := 8, unit := w.way }).2)

/-- Every pending retirement of a core is applied; the flag says that the core must then be quarantined. -/
def State.retirements (s : State) (c : Nat) (base : LogRecord) : Bool × State :=
  let h := (s.core c).health
  let step {α : Type} (f : State → α → Bool × State) (acc : Bool × State) (x : α) : Bool × State :=
    let r := f acc.2 x
    (acc.1 || r.1, r.2)
  let a := h.retiring.foldl (step (retireLane base c)) (false, s)
  let a := h.waysPending.foldl (step (retireWay base c)) a
  (a.1, a.2.modCore c fun k => { k with health := { k.health with retiring := [], waysPending := [], safePoint := false } })

/-- R432, R433: the pending retirements of a core take effect at the safe point after a switch marker. -/
def execLaneRetirement (core : Nat) (s : State) : Host.Outcome State Fault Refusal :=
  let k := s.core core
  let idle := k.residents.all fun e => e.2.laneIdle
  .next (if !k.health.safePoint || !idle then s
  else
    let (full, s) := s.retirements core (coreRecord s core 0 0 0)
    if full then s.quarantine core else s)

/-- R432: the lane pipeline has paused for 64 cycles. -/
def execLaneRemapPauseEnd (core : Nat) (s : State) : Host.Outcome State Fault Refusal :=
  let h := (s.core core).health
  .next (if h.pauseUntil = 0 ∨ s.cycles < h.pauseUntil then s
  else s.modCore core fun k => { k with health := { h with pauseUntil := 0 } })

/-- The key of a set group of a die's L2 or RDC. -/
def wayKey (level group : Nat) : Nat := level * 2 ^ 16 + group

/-- The detector of a cache level's ECC: 1 L1, 2 L2, 3 RDC. -/
def wayDet (level : Nat) : Nat := if level = 1 then 4 else if level = 2 then 7 else 8

/-- A way of an L2 or RDC set group is retired, its clean lines dropped and its dirty ones written back; a fifth failing way is only logged (R433). -/
def State.retireDieWay (s : State) (d level : Nat) (w : WayPlace) : State :=
  let key := wayKey level w.group
  let r := dieRecord s d (wayDet level) 8 w.way 0
  if 4 ≤ ((s.die d).ways.filter fun e => e.1 == key).length then (s.log d { r with resp := 10 }).2
  else
    let s := s.modDie d fun k => { k with ways := k.ways ++ [(key, w.way)] }
    let s := if level = 2 then w.lines.foldl (fun s l => s.dropL2 d l) s
      else s.modDie d fun k => { k with rdc := k.rdc.keep fun u _ => !w.lines.contains (u / 4) }
    (s.log d r).2

/-- The errors of an L1 way: an uncorrectable one, or the fourth corrected one within 1 s, makes it wait for its retirement (R433). -/
def CoreHealth.wayError (h : CoreHealth) (now : Nat) (w : WayPlace) (corrected : Bool) : CoreHealth :=
  let es := (h.wayErrors.filter fun e => decide (now ≤ e.2.2 + msCycles 1000)) ++ (if corrected then [(w.group, w.way, now)] else [])
  let mine (e : Nat × Nat × Nat) : Bool := e.1 == w.group && e.2.1 == w.way
  let known := h.ways.contains (w.group, w.way) || h.waysPending.any fun x => x.group == w.group && x.way == w.way
  if known || (corrected && decide ((es.filter mine).length < 4)) then { h with wayErrors := es }
  else { h with wayErrors := es.filter fun e => !mine e, waysPending := h.waysPending ++ [w], safePoint := false }

/-- The same for a way of a die's L2 or RDC, which retires at once. -/
def State.dieWayError (s : State) (d level : Nat) (w : WayPlace) (corrected : Bool) : State :=
  let k := s.die d
  let es := (k.wayErrors.filter fun e => decide (s.cycles ≤ e.2.2.2 + msCycles 1000)) ++
    (if corrected then [(level, w.group, w.way, s.cycles)] else [])
  let mine (e : Nat × Nat × Nat × Nat) : Bool := e.1 == level && e.2.1 == w.group && e.2.2.1 == w.way
  if k.ways.contains (wayKey level w.group, w.way) || (corrected && decide ((es.filter mine).length < 4)) then
    s.modDie d fun k => { k with wayErrors := es }
  else (s.modDie d fun k => { k with wayErrors := es.filter fun e => !mine e }).retireDieWay d level w

/-- The cache whose ECC a report is about: level 1 to 3, and the core or die. -/
def reportCache (e : ErrorReport) : Option (Nat × Nat) :=
  match e.det, e.site with
  | .coreStoreEcc, .l1 c _ => some (1, c)
  | .l2Ecc, .memory pa => some (2, homeDie (paOff pa))
  | .rdcEcc, .rdc d _ => some (3, d)
  | _, .way level unit => some (level, unit)
  | _, _ => none

/-- An error in a cache counts toward the way that its report names (R433). -/
def State.wayError (s : State) (e : ErrorReport) : State :=
  match reportCache e, e.way with
  | some (level, unit), some w =>
    if level = 1 then s.modCore unit fun k => { k with health := k.health.wayError s.cycles w e.corrected }
    else s.dieWayError unit level w e.corrected
  | _, _ => s

/-! ### HBM rows (R434) -/

/-- The stack that holds an HBM4E address (R227), 0 to 7. -/
def stackOf (pa : Nat) : Nat :=
  let p := paOff pa
  2 * homeDie p + (if bit p 8 != bit p 20 then 1 else 0)

/-- A row is remapped while its stack has an entry left. -/
def State.remapRow (s : State) (pa unit : Nat) : State :=
  let d := homeDie (paOff pa)
  let st := stackOf pa
  let used := (s.die d).rows.get 0 st
  if 4096 ≤ used then s
  else (s.modDie d fun k => { k with rows := k.rows.set 0 st (used + 1) }).log d (dieRecord s d 9 8 unit (wordN pa)) |>.2

/-- An error in a row: an uncorrectable one, or the sixteenth corrected one within an hour, remaps it. -/
def State.rowError (s : State) (pa unit : Nat) (corrected : Bool) : State :=
  let d := homeDie (paOff pa)
  let key := stackOf pa * 2 ^ 16 + unit
  let es : List (Nat × Nat) := ((s.die d).rowErrors.filter fun e => decide (s.cycles ≤ e.2 + msCycles 3600000)) ++
    (if corrected then [(key, s.cycles)] else [])
  let fail := !corrected || decide (16 ≤ (es.filter fun e => e.1 == key).length)
  let s := s.modDie d fun k => { k with rowErrors := if fail then es.filter fun e => e.1 != key else es }
  if fail then s.remapRow pa unit else s

/-! ### Marking (R222, R232, R414) -/

/-- Marks what a team's word delivers to a register in some lanes, or to a scalar register: the outstanding result, or the register. -/
def State.markScalar (s : State) (c t : Nat) (m : Team) (reg : Nat) : State :=
  if m.pend.any fun p => p.sregs.any fun r => r.1 == reg then
    s.modTeam c t fun m => { m with pend := m.pend.map fun p => { p with
      sregs := p.sregs.map fun r => if r.1 = reg then (r.1, { r.2 with mark := true }) else r } }
  else s.setSreg c m reg { s.sreg c m reg with mark := true }

/-- The same for lane registers. -/
def State.markLanes (s : State) (c t : Nat) (m : Team) (reg : Nat) (lanes : Mask) : State :=
  (lanesOf lanes m.id.lanes).foldl (fun s l =>
    if m.pend.any fun p => p.vregs.any fun r => r.1 == reg && r.2.1 == l then
      s.modTeam c t fun m => { m with pend := m.pend.map fun p => { p with
        vregs := p.vregs.map fun r => if r.1 = reg ∧ r.2.1 = l then (r.1, r.2.1, { r.2.2 with mark := true }) else r } }
    else s.setVreg c m reg l { s.vreg c m reg l with mark := true }) s

/-- The same for a scalar predicate. -/
def State.markPred (s : State) (c t k : Nat) : State :=
  s.modTeam c t fun m =>
    if m.pend.any fun p => p.ks.any fun r => r.1 == k then
      { m with pend := m.pend.map fun p => { p with ks := p.ks.map fun r => if r.1 = k then (r.1, r.2.1, true) else r } }
    else { m with regs := m.regs.setPred k (m.regs.pred k) true }

/-- The same for a lane predicate. -/
def State.markPreds (s : State) (c t p : Nat) (lanes : Mask) : State :=
  s.modTeam c t fun m => (lanesOf lanes m.id.lanes).foldl (fun m l =>
    if m.pend.any fun y => y.preds.any fun r => r.1 == p && r.2.1 == l then
      { m with pend := m.pend.map fun y => { y with
        preds := y.preds.map fun r => if r.1 = p ∧ r.2.1 = l then (r.1, r.2.1, r.2.2.1, true) else r } }
    else { m with ctl := m.ctl.setPred p l (m.ctl.pred p l) true }) m

/-- Marks the data of a team's stores to some addresses, on their way or held: those of the lanes that failed. -/
def State.markStore (s : State) (c t : Nat) (pas : List Nat) : State :=
  let s := s.modCore c fun k => { k with inflight := k.inflight.map fun x =>
    if x.team = t ∧ x.pa ∈ pas then { x with mark := true } else x }
  s.modTeam c t fun m => { m with region := m.region.map fun g => { g with held := g.held.map fun h =>
    if h.pa ∈ pas then { h with mark := true } else h } }

/-- Marks the L1 copy of a sector; an ECC error there has also hit the stores that regions hold in it, a path check has not. -/
def Core.markL1 (k : Core) (pa : Nat) (stores : Bool) : Core :=
  { k with
    l1 := match k.l1.get none (pa / 32) with
      | some x => k.l1.set none (pa / 32) (some { x with mark := true })
      | none => k.l1
    teams := k.teams.map fun e => (e.1, e.2.map fun m => { m with region := m.region.map fun g => { g with held := g.held.map fun h =>
      if stores ∧ h.pa / 32 = pa / 32 then { h with mark := true } else h } }) }

/-- Marks the sector of a core store that an offset lies in: in a window, each of its 8-byte units (R222). -/
def Core.markSector (k : Core) (off : Nat) : Core :=
  let u := off / 32
  if off < k.windowEnd then { k with unitMarks := (List.range 4).foldl (fun m i => m.set false (4 * u + i) true) k.unitMarks }
  else { k with sectorMarks := k.sectorMarks.set false u true }

/-- The team whose window holds an offset of a core store. -/
def Core.windowTeam (k : Core) (off : Nat) : Option (Nat × Team) :=
  k.residents.find? fun e => within off 1 e.2.id.regwin (windowBytes e.2.id.lanes e.2.id.vregs)

/-! ### Uncorrectable errors (R414) -/

/-- The response to an error about a team when no replay answers it. -/
def State.otherwise (s : State) (e : ErrorReport) : State :=
  let name (c t : Nat) (k : Team → State) : State := match s.team c t with | some m => k m | none => s
  let lane (c t : Nat) (m : Team) (s' : State) : State :=
    if e.det = .fp64Residue then s'.machineCheck c t (errRecord s c m e 6 0) else (s'.log (dieOf c) (errRecord s c m e 5 0)).2
  match e.site with
  | .scalar c t reg => name c t fun m => (s.markScalar c t m reg).machineCheck c t (errRecord s c m e 6 0)
  | .scalarPred c t k => name c t fun m => (s.markPred c t k).machineCheck c t (errRecord s c m e 6 0)
  | .lanes c t reg lanes => name c t fun m => lane c t m (s.markLanes c t m reg lanes)
  | .preds c t p lanes => name c t fun m => lane c t m (s.markPreds c t p lanes)
  | .store c t pas => name c t fun m => ((s.markStore c t pas).log (dieOf c) (errRecord s c m e 5 (wordN (pas.headD 0)))).2
  | .control c t => name c t fun m => s.endTeam c t (errRecord s c m e 6 0)
  | .l1 c pa =>
    ((s.modCore c fun k => k.markL1 pa (e.det != .pathCheck)).log (dieOf c)
      { coreRecord s c (detCode e.det) 5 e.unit with addr := wordN pa, data := e.data }).2
  | .coreStore c off =>
    let s' := s.modCore c fun k => k.markSector off
    let r := match (s.core c).windowTeam off with
      | some (_, m) => errRecord s c m e 5 0
      | none => { coreRecord s c 4 5 e.unit with data := e.data }
    (s'.log (dieOf c) r).2
  | _ => s

/-- An error about a team: answered by a replay where it is replayable (R414). -/
def State.replayOr (s : State) (c t : Nat) (m : Team) (e : ErrorReport) (addr : Word) : State :=
  if m.replayable (s.core c) then
    (s.halt c t (errRecord s c m e 2 addr)).modTeam c t fun m => { m with region := m.region.map fun g => { g with errors := g.errors ++ [e] } }
  else s.otherwise e

/-- The recovery of a team has no record to restore: what it answered is handled as R414 says otherwise (R421). -/
def State.noRecord (s : State) (c t : Nat) : State :=
  match (s.team c t).bind (·.region) with
  | none => s
  | some g =>
    let s := s.modTeam c t fun m => { m with region := some { g with
      noRecord := true, recovery := .idle, causes := [], errors := [], check := none } }
    let s := g.errors.foldl (fun s e => s.otherwise e) s
    let s := match g.causes.find? (fun r => r.det == 2), (s.core c).matrix.find? (fun x => x.team == t) with
      | some r, some x => finishMatrix (s.machineCheck c t { r with resp := 6 }) c x 3
      | _, _ => s
    match s.team c t, g.check with
    | some m, some x => raise s c t m x
    | _, _ => s

/-- FATAL: the team ends with the record of the error that led to it (R389, R423). -/
def State.fatal (s : State) (c t : Nat) (r : LogRecord) : State :=
  match s.team c t with
  | none => s
  | some m => s.endTeam c t { r with resp := 7, tries := match m.region with | some g => g.tries | none => 0 }

/-- An uncorrectable error in a checkpoint area (R414, R421). -/
def State.checkpointError (s : State) (c t : Nat) (e : ErrorReport) : State :=
  match s.team c t with
  | none => s
  | some m =>
    match m.region with
    | none => s
    | some g =>
      if !g.valid then s.noRecord c t
      else if g.recovery = .halt ∨ g.recovery = .restore then s.fatal c t (errRecord s c m e 7 0)
      else s.modTeam c t fun m => { m with region := some { g with unreadable := true } }

/-- The engine error of a query that a Yarrow engine runs or has first in its queue (R205): what has not been written stays unwritten; the
registers of `v.trace` keep what they hold (DEDUCED, log entry 16). -/
def State.yarrowError (s : State) (q : Nat) (e : ErrorReport) : State :=
  let k := s.cluster q
  let first : Option BeamRun := match k.run with
    | some r => some r
    | none => k.beams.head?.map fun cmd => BeamRun.start cmd [] []
  match first with
  | none => s
  | some r =>
    let s := s.logFree (dieOf r.cmd.core) { coreRecord s r.cmd.core 15 0 e.unit with data := e.data }
    let s := if k.run.isSome then s else s.modCluster q fun k => { k with beams := k.beams.drop 1 }
    match r.cmd.job with
    | .beam off _ => s.finishBeam { r with engineError := true } off
    | .trace _ _ => s.finishVregs r.cmd.core r.cmd.team r.cmd.ticket fun j l mk =>
      match s.team r.cmd.core r.cmd.team with
      | some m => s.vreg r.cmd.core m j l
      | none => ⟨0, mk⟩

/-- A launch is ended as by PKILL: at once, or when what a kill waits for has ended (R394, R414, R423). -/
def State.endLaunch (s : State) (l : Nat) (x : Launch) : State :=
  if s.killWaits l x then s.modSched fun z => { z with kills := z.kills ++ [wordN (x.gen * 2 ^ 32 + x.queue * 2 ^ 15)] } else s.kill l x

/-- A sector of memory or of an L2 is marked; a poisoned stored sector of a compressed line marks all four (R232, R234). -/
def Memory.poison (m : Memory) (pa : Nat) (stored : Bool) : Memory :=
  if stored && m.cmp.get false (pa / 65536) then m.markWrite (pa / 128 * 128) 128 true else m.markWrite (pa / 32 * 32) 32 true

/-- What an uncorrectable error does (R231, R414). -/
def State.uncorrectable (s : State) (e : ErrorReport) : State :=
  let team (c t : Nat) (addr : Word) : State := match s.team c t with
    | some m =>
      let s := s.replayOr c t m e addr
      if e.det = .laneParity then s.parityError c e.unit else s
    | none => s
  match e.site with
  | .scalar c t _ | .scalarPred c t _ | .lanes c t _ _ | .preds c t _ _ | .control c t => team c t 0
  | .store c t pas => team c t (wordN (pas.headD 0))
  | .coreStore c off =>
    if !(s.core c).part.isSome ∨ ((s.core c).part.map (·.l1Base)).getD 0 ≤ off then s
    else match (s.core c).windowTeam off with
      | some (t, m) => if m.replayable (s.core c) then (s.modCore c fun k => k.markSector off).replayOr c t m e 0 else s.otherwise e
      | none => s.otherwise e
  | .l1 c pa =>
    let owners := (s.core c).residents.filter fun x => x.2.replayable (s.core c) &&
      (match x.2.region with | some g => g.held.any fun h => h.pa / 32 == pa / 32 | none => false)
    if e.det = .pathCheck || owners.isEmpty then s.otherwise e
    else owners.foldl (fun s x => s.replayOr c x.1 x.2 e (wordN pa)) s
  | .acc c unit =>
    ((s.modCore c fun k => { k with accMarks := (k.accMarks.set false (2 * unit) true).set false (2 * unit + 1) true }).log (dieOf c)
      { coreRecord s c 5 5 e.unit with data := e.data }).2
  | .memory pa =>
    if paSlot pa ≠ s.boot.podSlot then s
    else
      let d := homeDie (paOff pa)
      let s := ((s.modMem fun m => m.poison pa (e.det = .hbmEcc ∨ e.det = .lpddrEcc)).log d
        { dieRecord s d (detCode e.det) 5 e.unit (wordN pa) with data := e.data }).2
      if e.det = .hbmEcc then s.rowError pa e.unit false else s
  | .rdc d pa =>
    if e.det = .pathCheck then
      match (s.die d).rdc.get none (pa / 32) with
      | some x => ((s.modDie d fun k => { k with rdc := k.rdc.set none (pa / 32) (some { x with mark := true }) }).log d
          { dieRecord s d 12 5 e.unit (wordN pa) with data := e.data }).2
      | none => s
    else ((s.modDie d fun k => { k with rdc := k.rdc.keep fun a _ => a / 4 != pa / 128 }).log d
      { dieRecord s d 8 1 e.unit (wordN pa) with data := e.data }).2
  | .way _ _ => s
  | .copy q ticket =>
    let hit (y : CopyCmd) : CopyCmd := if e.det = .pathCheck then { y with entry := true } else { y with broken := true }
    match (s.cluster q).copies.find? fun x => x.ticket == ticket with
    | some x => ((s.modCluster q fun k => { k with copies := k.copies.map fun y => if y.ticket = ticket then hit y else y }).log
        (dieOf x.core) { coreRecord s x.core (detCode e.det) 5 e.unit with data := e.data }).2
    | none => s
  | .stream c i =>
    match (s.core c).streams.get none i with
    | some x =>
      let x := if e.det = .pathCheck then { x with entry := true } else { x with broken := true }
      ((s.modCore c fun k => { k with streams := k.streams.set none i (some x) }).log (dieOf c)
        { coreRecord s c (detCode e.det) 5 e.unit with data := e.data }).2
    | none => s
  | .yarrow q => s.yarrowError q e
  | .launch l =>
    match s.launch l with
    | some x => (s.logFree (x.queue % 4) { LogRecord.blank with det := 15, unit := e.unit, gen := x.gen, asid := x.asid, data := e.data }).endLaunch l x
    | none => s
  | .checkpoint c t => s.checkpointError c t e
  | .copies c t =>
    match s.team c t with
    | some m =>
      if (s.core c).mode ≠ modeDual then s
      else if m.region.isSome then s.setTeam c t (some { m with mismatch := true })
      else s.endTeam c t (errRecord s c m e 7 0)
    | none => s
  | .station _ => s

/-- The core whose engine a report is about. -/
def reportCore (e : ErrorReport) (s : State) : Option Nat :=
  match e.site with
  | .copy q ticket => ((s.cluster q).copies.find? fun x => x.ticket == ticket).map (·.core)
  | .stream c i => ((s.core c).streams.get none i).map fun _ => c
  | _ => none

/-- A corrected error changes no value: it is logged, and counted for its row (R414, R434). -/
def State.correctedError (s : State) (e : ErrorReport) : State :=
  let resp := if e.det = .pathCheck then 1 else 0
  let put (d : Nat) (r : LogRecord) : State := (s.log d { r with data := e.data }).2
  match e.site with
  | .coreStore c off => put (dieOf c) (match (s.core c).windowTeam off with
    | some (_, m) => errRecord s c m e 0 0
    | none => coreRecord s c 4 0 e.unit)
  | .l1 c pa => put (dieOf c) { coreRecord s c (detCode e.det) resp e.unit with addr := wordN pa }
  | .acc c _ => put (dieOf c) (coreRecord s c 5 0 e.unit)
  | .memory pa =>
    let d := homeDie (paOff pa)
    if paSlot pa ≠ s.boot.podSlot then s
    else
      let s := put d (dieRecord s d (detCode e.det) 0 e.unit (wordN pa))
      if e.det = .hbmEcc then s.rowError pa e.unit true else s
  | .rdc d pa => put d (dieRecord s d (detCode e.det) resp e.unit (wordN pa))
  | .way level unit => if level = 1 then put (dieOf unit) (coreRecord s unit 4 0 e.unit) else put unit (dieRecord s unit (wayDet level) 0 e.unit 0)
  | .copy _ _ | .stream _ _ => (match reportCore e s with
    | some c => put (dieOf c) (coreRecord s c 12 1 e.unit)
    | none => s)
  | .station n => put (n % 4) { LogRecord.blank with det := 11, unit := e.unit }
  | .checkpoint c t => match s.team c t with | some m => put (dieOf c) (errRecord s c m e 0 0) | none => s
  | _ => s

/-- No second reading repairs the error: a sector that memory gave the L2 wrong is poisoned at once (R231). -/
def reportStands (e : ErrorReport) : Bool :=
  !e.corrected || (match e.det, e.site with | .pathCheck, .memory _ => true | _, _ => false)

/-- R414: a detector reports an error at a site that it covers. -/
def execErrorDetection (e : ErrorReport) (s : State) : Host.Outcome State Fault Refusal :=
  .next (if !covers e.det e.site then s
  else if reportStands e then (s.uncorrectable e).wayError e
  else if correctable e.det then (s.correctedError e).wayError e
  else s)

/-! ### Speedwell (R421 to R424) -/

/-- R421: the record of an open region is durable. -/
def execRegionRecordValid (core team : Nat) (s : State) : Host.Outcome State Fault Refusal :=
  .next (s.modTeam core team fun m => { m with region := m.region.map fun g => { g with valid := g.valid || !g.noRecord } })

/-- The records of what a restore has answered, with the response and the region's TRY (R436). -/
def State.logRestored (s : State) (c t resp : Nat) (rs : List LogRecord) : State :=
  let tries := match (s.team c t).bind (·.region) with | some g => g.tries | none => 0
  rs.foldl (fun s r => (s.log (dieOf c) { r with resp, tries }).2) s

/-- The region's logs are written back, its record is restored, and the team issues from ENTRY (R423): DISCARD, RESTORE and REPLAY. -/
def State.replay (s : State) (c t : Nat) (f : Region → Region) : State :=
  (((s.discard c t).modTeam c t fun m => { m with region := m.region.map fun g => { f g with
    recovery := .replay, causes := [], errors := [], check := none } }).restoreRecord c t).unblock c t

/-- R423, R424: after HALT, the place of the next attempt is chosen and the region restored. A failed check that may still end in
CHECK_FAIL keeps its attempt until a core frees (R442). -/
def execSpeedwellDiscard (core team : Nat) (s : State) : Host.Outcome State Fault Refusal :=
  .next (match s.team core team with
  | none => s
  | some m =>
    match m.region with
    | none => s
    | some g =>
      let last := match g.causes.getLast? with | some r => r | none => teamRecord s core m 0 7 0
      if g.recovery ≠ .halt ∨ !g.valid then s
      else if g.conflict || g.unreadable then s.fatal core team last
      else if g.attempt < 2 then
        let s := s.replay core team fun g => { g with attempt := g.attempt + 1 }
        (s.logRestored core team 2 g.causes).countRecovered core g.causes
      else if g.movable && decide (g.moves < 2) && !g.extra then
        let s := if g.errors.isEmpty && g.check.isSome then s else s.discard core team
        s.modTeam core team fun m => { m with region := m.region.map fun g => { g with recovery := .restore, moveSince := s.cycles } }
      else if !g.movable && g.record.snap.isSome && !g.extra then
        let base := { teamRecord s core m 0 8 0 with tries := g.tries }
        let (full, s) := s.retirements core base
        let s := s.replay core team fun g => { g with extra := true }
        let s := (s.logRestored core team 4 g.causes).countRecovered core g.causes
        if full then s.quarantine core else s
      else s.fatal core team last)

/-- A core that a region may move to (R424): free, in service, in another cluster. -/
def State.moveTarget (s : State) (c target : Nat) : Bool :=
  decide (target < 512) && clusterOf target != clusterOf c && s.coreFree target

/-- The target is set up with a copy of the home core's scratchpad area and the team's own places; the team goes there. -/
def State.moveTeam (s : State) (c t target : Nat) (m : Team) : State :=
  let home := m.home.getD c
  let k := s.core c
  let h := s.core home
  match h.part with
  | none => s
  | some p =>
    let s := s.modCore target fun j => ((j.setUp { p with setup := true, setupAt := s.cycles }).copySectors h (sectorsOf p.spBase p.spSize)).copyTeam k m
    let s := s.modCore c fun j => if c = home then { j with teams := j.teams.set none t none } else j.leave
    s.setTeam target t (some { m with home := some home })

/-- R424: a core has freed for a MOVABLE region whose third attempt has failed. -/
def execRegionMove (core team target : Nat) (s : State) : Host.Outcome State Fault Refusal :=
  .next (match s.team core team with
  | none => s
  | some m =>
    match m.region with
    | none => s
    | some g =>
      if g.recovery ≠ .restore || !s.moveTarget core target || !storesHome s core team then s
      else
        let s := s.discard core team
        match s.team core team with
        | none => s
        | some m =>
          let s := s.moveTeam core team target m
          let s := s.replay target team fun g => { g with moves := g.moves + 1, attempt := 0 }
          (s.logRestored target team 3 g.causes).countRecovered core g.causes)

/-- R424, R442: no core has freed within 1 ms. -/
def execRegionMoveTimeout (core team : Nat) (s : State) : Host.Outcome State Fault Refusal :=
  .next (match s.team core team with
  | none => s
  | some m =>
    match m.region with
    | none => s
    | some g =>
      if g.recovery ≠ .restore ∨ s.cycles < g.moveSince + msCycles 1 then s
      else match g.errors.isEmpty, g.check with
        | true, some x =>
          let s := s.modTeam core team fun m => { m with region := some { g with extra := true, recovery := .replay, causes := [], check := none } }
          match s.team core team with
          | some m => raise s core team m x
          | none => s
        | _, _ => s.fatal core team (match g.causes.getLast? with | some r => r | none => teamRecord s core m 0 7 0))

/-- R424: a region that would overflow its buffer commits, and a new one opens on a snapshot with the held word as its first. -/
def execRegionBufferOverflow (core team : Nat) (s : State) : Host.Outcome State Fault Refusal :=
  .next (match s.team core team with
  | none => s
  | some m =>
    match m.region with
    | none => s
    | some g =>
      if !g.overflow ∨ g.recovery = .halt ∨ g.recovery = .restore then s
      else
        let g' := { g with overflow := false }
        let m' := { m with region := some g' }
        match commit (s.setTeam core team (some m')) core team m' g' with
        | .wait => s
        | .sealed s => s
        | .fatal s r => s.endTeam core team r
        | .done s c =>
          match s.team c team with
          | none => s
          | some n =>
            let s := s.openRegion c team g.tag g.scope g.movable (recordOf s c n n.regs.spc 0 0 0 true)
            s.modTeam c team fun n => { n with region := n.region.map fun y => { y with passes := true, record := { y.record with rid := n.regionId } } })

/-! ### DUAL (R431) -/

/-- The shadow core of a team's core. -/
def State.shadowCore (s : State) (m : Team) : Option Nat :=
  ((s.launch m.id.launch).bind (·.shadow)).map fun p => coreAt (p.1 + m.id.cx) (p.2 + m.id.cy)

/-- A team takes what the third core has made of its region (R431): after its own undo, that core's window, scratchpad sectors and rows, and its
stores as those that the region holds. Control state is the team's own, since both copies stand at the same word (DEDUCED, log entry 18). -/
def State.takeOut (s : State) (c t : Nat) (out : RegionOut) : State :=
  let s := s.discard c t
  match s.team c t with
  | none => s
  | some m =>
    match m.region with
    | none => s
    | some g =>
      let k := s.core c
      let rows := out.rows.map fun (r : Nat × List Word × List Bool) => AccUndo.mk r.1 r.2.1 r.2.2
      let g := { g with
        undo := newUndo s c g c (out.sectors.map fun e => e.1 / 32)
        accLog := rows.flatMap fun r => windowRows k r.row (r.row + 1)
        held := out.stores.map fun x => ⟨x.1, x.2.2.1, x.2.2.2.1, x.2.1, x.2.2.2.2⟩ }
      let k := (m.units.zip out.window).foldl (fun k e => k.setUnit e.1 ⟨e.2.1, e.2.2⟩) k
      let k := out.sectors.foldl (fun k e => k.write (e.1 / 32 * 32) e.2.1 e.2.2) k
      (s.setCore c (k.putRows rows)).setTeam c t (some { m with region := some g })

/-- R431: the third core has run the region again. What it agrees on with one copy is what both have then, and the commit that waited goes on. -/
def execDualArbitration (core team third : Nat) (run : ThirdRun) (s : State) : Host.Outcome State Fault Refusal :=
  .next (match s.team core team with
  | none => s
  | some m =>
    match m.region with
    | none => s
    | some g =>
      let r := { teamRecord s core m 14 3 0 with tries := g.tries }
      let agreed := s.setTeam core team (some { m with mismatch := false })
      if !m.mismatch || !g.valid then s
      else if g.conflict || g.unreadable then s.fatal core team r
      else if run.verdict = .agreesNeither ∨ g.peer then agreed.halt core team { r with resp := 2 }
      else if !(decide (third < 512) && s.coreFree third) then s
      else
        let s := (agreed.log (dieOf core) r).2
        if run.verdict = .agreesShadow then (s.takeOut core team run.out).loseArbitration core
        else match s.shadowCore m with
          | some c => s.loseArbitration c
          | none => s)

/-! ### Wear (R435) -/

/-- The use of the retired ways' tables, each of four ways to a set group, in per cent. -/
def wayUse (ways : List (Nat × Nat)) : List Nat := ways.map fun e => 25 * (ways.filter fun x => x.1 == e.1).length

/-- REMAP of a die: the highest use of its lane, way and row remap tables, in per cent. The spec does not say how the row table's share is rounded: the
event says it, `up` or down (DESIGN CHOICE, log entry 119). -/
def State.remapUse (s : State) (d : Nat) (up : Bool) : Nat :=
  let cores := (s.cores.filter fun e => dieOf e.1 == d).map fun e => e.2.health
  ((cores.flatMap fun (h : CoreHealth) => 50 * h.spares :: wayUse h.ways) ++ wayUse (s.die d).ways ++
    ((s.die d).rows.map fun (e : Nat × Nat) => (100 * e.2 + (if up then 4095 else 0)) / 4096)).foldl Nat.max 0

/-- R435: a die's hourly WEAR record, with what its monitors say. -/
def execWear (die margin months : Nat) (up : Bool) (s : State) : Host.Outcome State Fault Refusal :=
  let remap := s.remapUse die up
  let m := if months < 0xFFFF then months else 0xFFFF
  .next (if die < 4 then s.periodic 3 die (msCycles 3600000) fun s =>
      (s.log die { LogRecord.blank with det := 18, resp := 10, data := wordN (remap % 256 * 2 ^ 24 + margin % 256 * 2 ^ 16 + m) }).2
    else s)

end Sys2Proof.Machine
end

