-- ==== Sys2Proof/Machine/EventsHost.lean ====
section
/-!
DEFINITION. The events of the host ports and the management controller: the mailbox (R399 to R401), management registers (R402 to R407),
bring-up (R408), power and temperature (R409, R410), SPDM (R411 to R413).
-/
namespace Sys2Proof.Machine

/-! ### The mailbox (R399 to R401) -/

/-- Changes a host port. -/
def State.modPort (s : State) (p : Nat) (f : Port → Port) : State := { s with ports := s.ports.modify p f }

/-- A host port whose link is up. -/
def State.portUp (s : State) (p : Nat) : Bool := match s.ports[p]? with | some x => !x.lost && x.downSince.isNone | none => false

/-- The link hands a request over: its port is up, its sector slots are whole and pass their check codes (R231). -/
def mailArrives (s : State) (r : MailReq) : Bool :=
  s.portUp r.port && r.slots.all fun x => x.data.length == 32 && checkCode x.data == x.code.toNat

/-- What the mailbox engine's translation comes to: an address, no address, or a wait for the line of an entry (R228). -/
inductive MailAddr where
  | ok (pa : Nat)
  | none
  | wait

/-- The address that the mailbox engine translates to (R401): R, W, X and U are ignored, A and D are not set. A poisoned entry is logged INFO (R375), and
the read of a table of a lost package as well (R451). -/
def mailXlate (s : State) (asid : Nat) (va : Word) : MailAddr × State :=
  let c := s.context asid
  let root := match s.sched.roots.get none asid with
    | some t => some t
    | none => if contextValid c then some (contextRoot c) else none
  match root with
  | none => (.none, s)
  | some t =>
    if !contextValid c ∨ va.toNat / 2 ^ 54 ≠ 0 then (.none, s)
    else match walkFrom s va.toNat none [0, 1, 2, 3] t [] with
      | .leaf e level _ _ => (.ok (leafAddr e level va.toNat), s)
      | .fault => (.none, s)
      | .wait => (.wait, s)
      | .poison pa =>
        let s := if s.lost pa then (s.readHome 0 pa 8).2 else s
        (.none, (s.log 0 { LogRecord.blank with det := 13, resp := 10, addr := wordN pa, place := memPlace (paSlot pa) 0 }).2)

/-- The outcome of a request: it waits, is refused with a code, acts on a register, or acts on memory. -/
inductive MailGo where
  | wait
  | code (n : Nat)
  | register (off : Nat)
  | memory (pa : Nat)
deriving DecidableEq, Repr

/-- The checks of R399 and R400. -/
def mailCheck (s : State) (r : MailReq) : MailGo × State :=
  let write := r.op == 0
  let own (pa : Nat) : Bool := isMgmt pa && paSlot pa == s.boot.podSlot
  let n := if r.two then 64 else 32
  let count := if r.two then 2 else 1
  if r.res0 ∨ 2 ≤ r.op.toNat ∨ (r.phys ∧ r.asid ≠ 0) then (.code 1, s)
  else if !s.ready then (.code 5, s)
  else if r.phys && own r.addr.toNat then
    let form := !r.two && r.addr.toNat % 8 == 0 &&
      (!write || (r.slots.length == 1 && r.slots.all fun x => x.mask == 0xFF))
    (if form then .register (paOff r.addr.toNat - mgmtBase) else .code 1, s)
  else if r.phys && isMgmt r.addr.toNat then (.code 3, s)
  else if r.addr.toNat % n ≠ 0 ∨ (write ∧ r.slots.length ≠ count) then (.code 1, s)
  else
    let (at_, s) := if r.phys then (.ok r.addr.toNat, s) else mailXlate s r.asid.toNat r.addr
    match at_ with
    | .none => (.code 2, s)
    | .wait => (.wait, s)
    | .ok pa =>
      if own pa then (.code 1, s)
      else if isMgmt pa ∨ !s.present (paSlot pa) ∨ touchesReserved (paOff pa) n then (.code 3, s)
      else if write ∧ s.mem.sealed pa then (.code 4, s)
      else if s.blocked pa none then (.wait, s)
      else (.memory pa, s)

/-- The masked bytes of a sector merged at its home (R401): the mark is cleared only where the mask covers the sector. -/
def mergeSlot (m : Memory) (pa : Nat) (x : SectorSlot) : Memory :=
  let m := ((List.range 32).zip x.data).foldl (fun m e =>
    if x.mask.getLsbD e.1 then { m with bytes := m.bytes.set 0 (pa + e.1) e.2 } else m) m
  if x.mask = BitVec.allOnes 32 then { m with marks := m.marks.set false (pa / 32) false } else m

/-- A sector as it leaves the package: its bytes, mark and check code (R399, R447). -/
def sectorReply (bs : List Byte) (mark : Bool) : List Byte × Bool × BitVec 16 := (bs, mark, (sideBand bs mark).1)

/-- A mailbox request is performed and answered; none where it must wait. -/
def State.mailbox (s : State) (r : MailReq) : Option State :=
  let reply (s : State) (code : Nat) (xs : List (List Byte × Bool × BitVec 16)) : Option State := some (s.send (.response r.port r.tag code xs))
  match mailCheck s r with
  | (.wait, _) => none
  | (.code n, s) => reply s n []
  | (.register off, s) =>
    if r.op = 0 then reply (mgmtWrite s (r.port + 1) off (wordN (bytesN ((r.slots.flatMap (·.data)).take 8)))) 0 []
    else
      let (v, s) := mgmtRead s (r.port + 1) off
      reply s 0 [sectorReply (natBytes 8 v.toNat ++ List.replicate 24 0) false]
  | (.memory pa, s) =>
    let d := homeDie (paOff pa)
    if r.op = 0 then
      reply (((List.range r.slots.length).zip r.slots).foldl (fun (s : State) e =>
        (s.request pa true).modMem fun m => mergeSlot m (pa + 32 * e.1) e.2) s) 0 []
    else
      let (xs, s) := (List.range (if r.two then 2 else 1)).foldl (fun (acc : List (List Byte × Bool × BitVec 16) × State) i =>
        let ((bs, mark), s) := acc.2.readHome d (pa + 32 * i) 32
        (acc.1 ++ [sectorReply bs mark], s)) ([], s)
      reply s 0 xs

/-- Performs the requests of a port that wait, oldest first, up to the first that must go on waiting; fuel bounds their number. -/
def State.servePort : Nat → State → Nat → State
  | 0, s, _ => s
  | fuel + 1, s, p =>
    match (s.ports[p]?).bind (·.waiting.head?) with
    | none => s
    | some r =>
      match (s.modPort p fun x => { x with waiting := x.waiting.drop 1 }).mailbox r with
      | some s => State.servePort fuel s p
      | none => s

/-- The requests of both ports that have waited are tried again (R401). -/
def State.serveMail (s : State) : State :=
  (List.range 2).foldl (fun s p => match s.ports[p]? with | some x => State.servePort x.waiting.length s p | none => s) s

/-- A request joins those of its port: it is performed after them (R401). -/
def State.mailIn (s : State) (r : MailReq) : State := (s.modPort r.port fun x => { x with waiting := x.waiting ++ [r] }).serveMail

/-- R401: a write, or a request with an invalid OP. -/
def execMailboxWrite (r : MailReq) (s : State) : Host.Outcome State Fault Refusal :=
  .next (if mailArrives s r && r.op != 1 then s.mailIn r else s)
/-- R401: a read. -/
def execMailboxRead (r : MailReq) (s : State) : Host.Outcome State Fault Refusal :=
  .next (if mailArrives s r && r.op == 1 then s.mailIn r else s)

/-! ### Management registers (R402 to R405, R407, R409, R450) -/

/-- The owner code of an agent (R402), if it may reach the registers now. -/
def agentCode (s : State) : Agent → Option Nat
  | .port p => if s.ready && s.portUp p then some (p + 1) else none
  | .team => if s.ready then some 3 else none

/-- R402: a read of SEMn; the reader receives the owner that it found. -/
def execSemRead (agent : Agent) (n : Nat) (s : State) : Host.Outcome State Fault Refusal :=
  .next (match agentCode s agent with
  | some code =>
    if n < 16 then
      let (v, s) := semRead s code n
      s.send (.value agent v)
    else s
  | none => s)

/-- R402: a write of SEMn. -/
def execSemWrite (agent : Agent) (n : Nat) (v : Word) (s : State) : Host.Outcome State Fault Refusal :=
  .next (match agentCode s agent with
  | some code => if n < 16 then semWrite s code n v else s
  | none => s)

/-- R403. -/
def execCtxbaseWrite (v : Word) (s : State) : Host.Outcome State Fault Refusal := .next (if s.ready then ctxbaseWrite s v else s)
/-- R403. -/
def execQtbaseWrite (v : Word) (s : State) : Host.Outcome State Fault Refusal := .next (if s.ready then qtbaseWrite s v else s)
/-- R405. -/
def execFreepush (die : Nat) (v : Word) (s : State) : Host.Outcome State Fault Refusal :=
  .next (if s.ready ∧ die < 4 then freePush s die v else s)

/-- R405: the reader receives the frame. -/
def execFreepop (agent : Agent) (die : Nat) (s : State) : Host.Outcome State Fault Refusal :=
  .next (if (agentCode s agent).isSome ∧ die < 4 then
    let (v, s) := freePop s die
    s.send (.value agent v)
  else s)

/-- R407: bit 63 clears ERR. -/
def execFreecountWrite (die : Nat) (v : Word) (s : State) : Host.Outcome State Fault Refusal :=
  .next (if s.ready ∧ die < 4 then freeCountWrite s die v else s)
/-- R407: ones clear PWRALERT and SEMLOST. -/
def execStatusWrite (v : Word) (s : State) : Host.Outcome State Fault Refusal := .next (if s.ready then statusWrite s v else s)
/-- R408: 0xA5 resets the package. -/
def execResetreq (v : Word) (s : State) : Host.Outcome State Fault Refusal := .next (if s.ready then resetreqWrite s v else s)
/-- R409. -/
def execPwrcapWrite (v : Word) (s : State) : Host.Outcome State Fault Refusal := .next (if s.ready then pwrcapWrite s v else s)
/-- R450. -/
def execFabctlWrite (v : Word) (s : State) : Host.Outcome State Fault Refusal := .next (if s.ready then fabctlWrite s v else s)

/-! ### Resets and bring-up (R398, R408) -/

/-- R408: a reset on the sideband of a port. -/
def execSidebandReset (port : Nat) (s : State) : Host.Outcome State Fault Refusal :=
  .next (if port < 2 ∧ s.boot.powered then packageReset s else s)

/-- R408: power comes good. -/
def execPowerGood (s : State) : Host.Outcome State Fault Refusal :=
  .next (if s.boot.powered then s else s.cleared true s.boot.tripped)

/-- A channel that failed its training is logged; which detector and response report it is not stated. -/
def State.badChannel (s : State) (d : Nat) : State :=
  let (w, s) := s.freeWord
  s.logFree d (dieRecord s d (bits w.toNat 0 8) 0 0 0)

/-- Stage 6 (R408, R450): the stations come up and the pod slots of the packages that answered are present. -/
def State.joinPod (s : State) (r : StageResult) : State :=
  let own := BitVec.ofNat 64 (2 ^ s.boot.podSlot)
  if r.duplicate then s.modBoot fun b => { b with slotDup := true, podLive := own }
  else
    let s := { s with stations := (List.range 12).foldl (fun m i => m.set Station.init i { Station.init with down := false }) s.stations }
    let peers := (slotsOf r.peers.toNat).filter (· != s.boot.podSlot)
    let s := s.modBoot fun b => { b with
      podLive := r.peers ||| own
      heard := peers.foldl (fun m p => m.set 0 p s.cycles) []
      linkDown := [] }
    peers.foldl (fun s p => s.sendPeer (.member p)) s

/-- The image that the boot ROM accepts, with its slot (R408, R411): A, or else B, if its key and signature hold and its security version is not below
the fused minimum. -/
def acceptImage (minimum : Nat) (images : List BootImage) : Option (Nat × BootImage) :=
  ((List.range 2).zip images).find? fun x => x.2.trusted && x.2.signed && decide (minimum ≤ x.2.version)

/-- An accepted image takes effect: the fused minimum rises to what it carries, and never falls. -/
def Boot.accept (b : Boot) (x : Nat × BootImage) : Boot := { b with image := some x, minimum := Nat.max b.minimum x.2.minimum }

/-- Stage 2 (R408): the fused tables are loaded, and what has failed is retired as R432 to R434 give. Row remap entries have become post-package repair:
the stacks start from what the fuses say. -/
def State.loadFuses (s : State) (r : StageResult) : State :=
  let s := r.lanes.foldl (fun (s : State) x => if x.1 < 512 then s.modCore x.1 fun k => { k with health := { k.health with
    remap := (x.2.1, x.2.2) :: k.health.remap.filter (fun e => e.1 != x.2.1), spares := k.health.spares + 1 } } else s) s
  let s := r.ways.foldl (fun (s : State) (x : Nat × Nat × Nat × Nat) =>
    if x.1 = 1 then s.modCore x.2.1 fun k => { k with health := { k.health with ways := k.health.ways ++ [(x.2.2.1, x.2.2.2)] } }
    else s.modDie x.2.1 fun k => { k with ways := k.ways ++ [(wayKey x.1 x.2.2.1, x.2.2.2)] }) s
  let s := { s with dies := s.dies.mapVals Die.init fun k => { k with rows := [] } }
  let s := r.rows.foldl (fun (s : State) x => s.modDie x.1 fun k => { k with rows := k.rows.set 0 x.2.1 x.2.2 }) s
  let s := r.badLanes.foldl (fun (s : State) x =>
    let (full, s) := retireLane (coreRecord s x.1 3 8 x.2) x.1 s x.2
    if full then s.quarantine x.1 else s) s
  let s := r.badWays.foldl (fun (s : State) (x : Nat × Nat × Nat × Nat) =>
    let w : WayPlace := ⟨x.2.2.1, x.2.2.2, []⟩
    if x.1 = 1 then
      let (full, s) := retireWay (coreRecord s x.2.1 4 8 w.way) x.2.1 s w
      if full then s.quarantine x.2.1 else s
    else s.retireDieWay x.2.1 x.1 w) s
  r.badRows.foldl (fun s pa => s.remapRow pa 0) s

/-- R408: the stage in hand completes. Memory is zeroed in the slot that the straps name, which never change (DEDUCED, log entry 35). -/
def execBringupStageComplete (r : StageResult) (s : State) : Host.Outcome State Fault Refusal :=
  let next (s : State) : State := s.modBoot fun b => { b with stage := b.stage + 1 }
  .next (if !s.boot.powered || s.boot.stopped || s.ready then s
  else match s.boot.stage with
    | 0 => next { s with
        cycles := 0, power := { s.power with highSince := none, hotSince := [] }, sched := { s.sched with timers := [] }
        ports := s.ports.map fun p => { p with downSince := p.downSince.map fun _ => 0 } }
    | 1 => match acceptImage s.boot.minimum r.images with
      | some x => next (s.modBoot fun b => b.accept x)
      | none => s.modBoot fun b => { b with fwFail := true, stopped := true }
    | 2 => next (s.loadFuses r)
    | 3 => next (r.badChannels.foldl State.badChannel { s with mem := s.peerMem r.straps.toNat })
    | 4 => next (r.badCores.foldl (fun s c => if c < 512 then s.quarantine c else s) s)
    | 5 => next ({ s with mem := s.peerMem r.straps.toNat }.modBoot fun b => { b with podSlot := r.straps.toNat })
    | 6 => next (s.joinPod r)
    | _ => next s)

/-- The link of a port goes down, or comes up again before the port is lost (R398). -/
def State.portLink (s : State) (port : Nat) (up : Bool) : State :=
  s.modPort port fun p => { p with downSince := if up then none else some (p.downSince.getD s.cycles) }

/-- R398: a port whose link has been down for 10 ms is lost: its requests are dropped and its semaphores freed (R402). -/
def execPortLost (port : Nat) (s : State) : Host.Outcome State Fault Refusal :=
  .next (match s.ports[port]? with
  | none => s
  | some p =>
    match p.downSince with
    | none => s
    | some t =>
      if p.lost ∨ s.cycles < t + msCycles 10 then s
      else
        let freed := s.boot.sems.any (· == port + 1)
        let s := s.modPort port fun p => { p with lost := true, spdm := 0, waiting := [] }
        let s := s.modBoot fun b => { b with
          sems := b.sems.map fun o => if o = port + 1 then 0 else o
          semLost := b.semLost || freed }
        let s := s.eventTo (1 - port) 5 []
        if freed then s.eventTo (1 - port) 3 [] else s)

/-! ### Power and temperature (R409, R410) -/

/-- The mean of the samples is above a number of watts. -/
def Power.above (p : Power) (w : Nat) : Bool := decide (w * p.samples.length < p.samples.foldl (· + ·) 0)

/-- A power sample: the stretch, and since when it has stood at 96 with P above CAP. -/
def Power.sampled (p : Power) (watts now : Nat) : Power :=
  let p := { p with samples := (watts :: p.samples).take 100 }
  let low := decide (p.samples.foldl (· + ·) 0 < (p.cap - 50) * p.samples.length)
  let s := if p.above p.cap || p.therm then (if p.stretch + 4 < 96 then p.stretch + 4 else 96)
    else if low then p.stretch - 1 else p.stretch
  { p with stretch := s, highSince := if s = 96 ∧ p.above p.cap then some (p.highSince.getD now) else none }

/-- R409: every 10 µs. -/
def execPowerSample (watts : Nat) (s : State) : Host.Outcome State Fault Refusal :=
  .next (if !s.boot.powered then s
  else s.periodic 4 0 quantum fun s => { s with power := s.power.sampled watts s.cycles })

/-- R409: s at 96 and P above CAP for 100 ms. -/
def execPwralertRaise (s : State) : Host.Outcome State Fault Refusal :=
  .next (match s.power.highSince with
  | some t =>
    if s.cycles < t + msCycles 100 then s
    else (({ s with power := { s.power with highSince := some s.cycles } }).modBoot fun b => { b with pwrAlert := true }).event 1 []
  | none => s)

/-- A temperature, in sixteenths of a degree, is at least so many degrees. -/
def atLeast (t : BitVec 16) (deg : Int) : Bool := decide (16 * deg ≤ t.toInt)

/-- R410: a sensor reports. -/
def execTemperatureSample (sensor : Nat) (t : BitVec 16) (s : State) : Host.Outcome State Fault Refusal :=
  .next (if 12 ≤ sensor ∨ !s.boot.powered then s
  else
    let p := s.power
    let temps := p.temps.set none sensor (some t)
    let since := if atLeast t 120 then some ((p.hotSince.get none sensor).getD s.cycles) else none
    { s with power := { p with
      temps, therm := temps.any fun e => match e.2 with | some x => atLeast x 105 | none => false
      hotSince := p.hotSince.set none sensor since } })

/-- R410: a sensor has read 120 °C for 1 ms: the trip is recorded and power is removed. -/
def execThermalTrip (sensor : Nat) (s : State) : Host.Outcome State Fault Refusal :=
  .next (match s.power.hotSince.get none sensor with
  | some t => if s.cycles < t + msCycles 1 then s else (s.event 2 []).cleared false true
  | none => s)

/-! ### SPDM (R411 to R413) -/

/-- An SPDM response; the connection of the port has come as far as `step`. -/
def State.spdm (s : State) (port step : Nat) (kind : SpdmKind) (payload : List Byte) : State :=
  (s.modPort port fun p => { p with spdm := step }).send (.spdm port kind payload)

/-- How far the connection of a port has come. -/
def State.spdmStep (s : State) (port : Nat) : Nat := (s.ports[port]?.map (·.spdm)).getD 0

/-- A request that needs the connection to have come as far as `need`; it is refused before (PRESUMED, log entry 19). -/
def State.spdmAfter (s : State) (port need : Nat) (k : State → State) : State :=
  if !(s.channelOpen port && s.portUp port) then s
  else if s.spdmStep port < need then s.spdm port (s.spdmStep port) .unexpected []
  else k s

/-- Bytes that the identity of the module fixes (DESIGN CHOICE, log entry 5). -/
def identityBytes (item from_ n : Nat) : List Byte := (List.range n).map fun i => Config.identity item (from_ + i)

/-- The length of the certificate chain of slot 0. -/
def chainLength : Nat := bytesN (identityBytes 0 0 2)

/-- 8 × n bytes that the manual does not state (DESIGN CHOICE, log entry 3). -/
def State.freeBytes (s : State) (n : Nat) : List Byte × State :=
  ((List.range n).flatMap fun i => natBytes 8 (Config.freeWord (s.free + i)).toNat, { s with free := s.free + n })

/-- A signature of 4096 bits with the identity key: its salt makes it a free value (DESIGN CHOICE, log entry 3). -/
def State.signature (s : State) : List Byte × State := s.freeBytes 64

/-- GET_VERSION: 1.3 only. -/
def execGetVersion (port : Nat) (s : State) : Host.Outcome State Fault Refusal :=
  .next (s.spdmAfter port 0 fun s => s.spdm port 1 .version [0x13])
/-- GET_CAPABILITIES: certificates, challenges and signed measurements, neither secured sessions nor mutual authentication; the flags are those of
DSP0274 (PRESUMED, log entry 19). -/
def execGetCapabilities (port : Nat) (s : State) : Host.Outcome State Fault Refusal :=
  .next (s.spdmAfter port 1 fun s => s.spdm port 2 .capabilities (natBytes 4 0x16))
/-- NEGOTIATE_ALGORITHMS: RSASSA-PSS 4096, then SHA-512, as the selections of DSP0274 name them (PRESUMED, log entry 19). -/
def execNegotiateAlgorithms (port : Nat) (s : State) : Host.Outcome State Fault Refusal :=
  .next (s.spdmAfter port 2 fun s => s.spdm port 3 .algorithms (natBytes 4 0x40 ++ natBytes 4 0x04))
/-- GET_DIGESTS: the digest of the chain in slot 0. -/
def execGetDigests (port : Nat) (s : State) : Host.Outcome State Fault Refusal :=
  .next (s.spdmAfter port 3 fun s => s.spdm port 3 .digests (identityBytes 6 0 64))

/-- GET_CERTIFICATE: a piece of the chain; slots 1 to 7 are empty (R412). -/
def execGetCertificate (port slot offset length : Nat) (s : State) : Host.Outcome State Fault Refusal :=
  .next (s.spdmAfter port 3 fun s =>
    if slot ≠ 0 ∨ chainLength ≤ offset then s.spdm port 3 .invalid []
    else s.spdm port 3 .certificate (identityBytes 1 offset (if length < chainLength - offset then length else chainLength - offset)))

/-- CHALLENGE: signed with the identity key. -/
def execChallenge (port slot nonce : Nat) (s : State) : Host.Outcome State Fault Refusal :=
  .next (s.spdmAfter port 3 fun s =>
    if slot ≠ 0 then s.spdm port 3 .invalid []
    else
      let (sig, s) := s.signature
      s.spdm port 3 .challengeAuth (natBytes 32 nonce ++ identityBytes 6 0 64 ++ sig))

/-- Counts of retired lanes, ways and HBM4E rows, and of quarantined cores. -/
def State.retiredCounts (s : State) : List Nat :=
  let sum (l : List Nat) : Nat := l.foldl (· + ·) 0
  [sum (s.cores.map fun e => e.2.health.spares),
   sum (s.cores.map fun e => e.2.health.ways.length) + sum (s.dies.map fun e => e.2.ways.length),
   sum (s.dies.flatMap fun e => e.2.rows.map (·.2)),
   (s.cores.filter fun e => e.2.health.status == .quarantined).length]

/-- A measurement block (R413). What blocks 2 and 3 say of an image when none was accepted is not stated (DESIGN CHOICE, log entry 3). -/
def State.measurement (s : State) (index : Nat) : Option (List Byte × State) :=
  if index = 1 then some (identityBytes 2 0 64, s)
  else if index = 2 then some (match s.boot.image with
    | some (slot, x) => (x.hash ++ natBytes 1 slot, s)
    | none => let (bs, s) := s.freeBytes 9; (bs.take 65, s))
  else if index = 3 then
    let (v, s) := match s.boot.image with
      | some (_, x) => (natBytes 8 x.version, s)
      | none => s.freeBytes 1
    some (v ++ natBytes 8 s.boot.minimum, s)
  else if index = 4 then
    some (natBytes 8 (Config.serial.toNat * 2 ^ 32 + 0x4A72 * 2 ^ 16 + Config.stepping.toNat) ++ natBytes 8 s.boot.podSlot, s)
  else if index = 5 then some (s.retiredCounts.flatMap (natBytes 8), s)
  else none

/-- GET_MEASUREMENTS of one block. -/
def execGetMeasurements (port index nonce : Nat) (signed : Bool) (s : State) : Host.Outcome State Fault Refusal :=
  .next (s.spdmAfter port 3 fun s =>
    match s.measurement index with
    | none => s.spdm port 3 .invalid []
    | some (bs, s) =>
      if signed then
        let (sig, s) := s.signature
        s.spdm port 3 .measurements (bs ++ natBytes 32 nonce ++ sig)
      else s.spdm port 3 .measurements bs)

/-- Any other request is answered with ERROR UnsupportedRequest. -/
def execSpdmUnsupportedRequest (port _code : Nat) (s : State) : Host.Outcome State Fault Refusal :=
  .next (s.spdmAfter port 0 fun s => s.spdm port (s.spdmStep port) .unsupported [])

end Sys2Proof.Machine
end

