-- ==== Sys2Proof/Machine/EventsFabric.lean ====
section
/-!
DEFINITION. The events of the pod fabric: stations (R447, R448), heartbeats and lost packages (R450, R451), Campion's collectives (R454 to
R457).
-/
namespace Sys2Proof.Machine

/-! ### Stations (R447, R448) -/

/-- A peer package that is present. -/
def State.peer (s : State) (slot : Nat) : Bool := slot != s.boot.podSlot && s.present slot

/-- The slots of the peers that are present, ascending. -/
def State.peers (s : State) : List Nat := (slotsOf s.boot.podLive.toNat).filter (· != s.boot.podSlot)

/-- A request of a present peer to memory of this package that may be mapped (R26): n bytes at an address. -/
def linkReaches (s : State) (src pa n : Nat) : Bool :=
  s.peer src && paSlot pa == s.boot.podSlot && !isMgmt pa && !touchesReserved (paOff pa) n

/-- The die number under which requests of another package are counted (R381): no die of this package. -/
def peerDie (src : Nat) : Nat := 4 + src

/-- An atomic of a peer, performed at its home and answered with the old value. -/
def State.linkAtomic (s : State) (src pa n : Nat) (f : Nat → Bool → Option (Nat × Bool)) : State :=
  let ((bs, old), s) := (s.warm (peerDie src) pa).readHome (peerDie src) pa n
  let s := match f (bytesN bs) old with
    | some (v, m) => s.writeHome pa (natBytes n v) m
    | none => s
  s.sendPeer (.answer src [sectorReply bs old])

/-- The address of a request. -/
def LinkReq.at_ : LinkReq → Nat
  | .read _ pa _ | .write _ pa _ | .atomic _ pa _ _ _ _ | .cas _ pa _ _ _ _ => pa

/-- The sectors of a request arrive whole, with the check codes of their bytes. -/
def LinkReq.whole : LinkReq → Bool
  | .write _ _ slots => slots.all fun x => x.1.data.length == 32 && checkCode x.1.data == x.1.code.toNat
  | _ => true

/-- A request of a peer is performed at the home (R447, R451): one whose check code fails is retried by its link (R231), one that meets
an engine's line waits (R228), a write to a sealed page has failed its checks (R286). -/
def State.linkRequest (s : State) (r : LinkReq) : State :=
  match r with
  | .read src pa k =>
    if !linkReaches s src pa (32 * k) || pa % 32 != 0 || decide (k = 0 ∨ 128 < pa % 128 + 32 * k) || s.blocked pa none then s
    else
      let (xs, s) := (List.range k).foldl (fun (acc : List (List Byte × Bool × BitVec 16) × State) i =>
        let ((bs, mark), s) := (acc.2.warm (peerDie src) (pa + 32 * i)).readHome (peerDie src) (pa + 32 * i) 32
        (acc.1 ++ [sectorReply bs mark], s)) ([], s)
      s.sendPeer (.answer src xs)
  | .write src pa slots =>
    let k := slots.length
    if !linkReaches s src pa (32 * k) || pa % 32 != 0 || decide (k = 0 ∨ 128 < pa % 128 + 32 * k) || s.blocked pa none ||
        s.mem.sealed pa || !LinkReq.whole r then s
    else
      let s := ((List.range k).zip slots).foldl (fun (s : State) e =>
        ((s.warm (peerDie src) pa).request pa true).modMem fun m =>
          let m := mergeSlot m (pa + 32 * e.1) e.2.1
          if e.2.2 then { m with marks := m.marks.set false (pa / 32 + e.1) true } else m) s
      s.sendPeer (.answer src [])
  | .atomic src pa code n v mark =>
    if !linkReaches s src pa n || !(n == 4 || n == 8) || pa % n != 0 || s.blocked pa none || s.mem.sealed pa then s
    else s.linkAtomic src pa n fun u old =>
      some (if code = 10 then combHalves u v.toNat else comb code n u v.toNat, old || mark)
  | .cas src pa n e v mark =>
    if !linkReaches s src pa n || !(n == 4 || n == 8 || n == 16) || pa % n != 0 || s.blocked pa none || s.mem.sealed pa then s
    else s.linkAtomic src pa n fun u old =>
      if u = e.toNat % 2 ^ (8 * n) then some (v.toNat % 2 ^ (8 * n), old || mark) else none

/-- R447: a request arrives at its home. -/
def execUalinkRequestArrival (r : LinkReq) (s : State) : Host.Outcome State Fault Refusal := .next (s.linkRequest r)

/-- The receiver at the other end asks for a replay from a flit (R448): the flits that the buffer holds from there on go out again, and the replays of that
flit are counted. -/
def State.replayFrom (s : State) (station number : Nat) : State :=
  let x := s.station station
  let again := x.buffer.filter fun e => decide (number ≤ e.1)
  let n := if x.replayed.1 = number then x.replayed.2 + 1 else 1
  again.foldl (fun s e => s.send e.2) (s.modStation station fun x => { x with replayed := (number, n) })

/-- R448: a station receives a flit. The next one expected is delivered, unless it must wait for an engine's line (R228); any other, and one
whose sectors fail their check codes (R231), is dropped and a replay is asked for. A failed CRC is logged (R414). -/
def execFlitReceive (station number : Nat) (crcOk : Bool) (load : FlitLoad) (s : State) :
    Host.Outcome State Fault Refusal :=
  let x := s.station station
  .next (if 12 ≤ station ∨ x.down then s
  else
    let s := match load.replay with
      | some n => if crcOk then s.replayFrom station n else s
      | none => s
    if crcOk && number == x.expected && (match load.request with | some r => LinkReq.whole r | none => true) then
      let next (s : State) : State := s.modStation station fun x => { x with expected := x.expected + 1 }
      match load.request with
      | some r => if s.blocked (LinkReq.at_ r) none then s else (next s).linkRequest r
      | none => next s
    else
      let s := if crcOk then s else (s.log 0 { LogRecord.blank with det := 11, resp := 0 }).2
      s.send (.replay station x.expected))

/-- R448: a flit has been replayed 16 times without success, and the retrain that this makes ends; a failed one is remembered for 1 ms. -/
def execLinkRetrain (station : Nat) (ok : Bool) (s : State) : Host.Outcome State Fault Refusal :=
  .next (if 12 ≤ station ∨ (s.station station).down ∨ (s.station station).replayed.2 < 16 then s
  else s.modStation station fun x =>
    if ok then { x with retrains := [], replayed := (0, 0) }
    else { x with retrains := recent s.cycles (msCycles 1) x.retrains ++ [s.cycles] })

/-- What a station that goes down had still to deliver: the flits from the one last asked for, but for its heartbeats. -/
def Station.queued (x : Station) : List Message :=
  (x.buffer.filter fun e => decide (x.replayed.1 ≤ e.1)).filterMap fun e => match e.2 with | .heartbeat _ _ => none | m => some m

/-- R448: three retrains have failed within 1 ms: the station is down, and what it had queued moves to another. With no station left, every path to
every peer is down (R450). -/
def execStationDown (station : Nat) (s : State) : Host.Outcome State Fault Refusal :=
  .next (if 12 ≤ station ∨ (s.station station).down ∨ (recent s.cycles (msCycles 1) (s.station station).retrains).length < 3 then s
  else
    let queued := (s.station station).queued
    let s := (s.modStation station fun x => { x with down := true, retrains := [], buffer := [], replayed := (0, 0) }).logFree 0
      { LogRecord.blank with det := 11 }
    let s := queued.foldl (fun s m => s.sendPeer m) s
    if !s.liveStations.isEmpty then s
    else s.modBoot fun b => { b with linkDown := s.peers.foldl (fun m p => m.set none p (some s.cycles)) b.linkDown })

/-! ### Collectives: the membership rule (R457) -/

/-- A collective ends: its range is released, and its slot is freed if nobody will ask for it (R461). -/
def State.endCollective (s : State) (h : Nat) (y : Collective) (code : Nat) (poisoned : Bool) : State :=
  (s.unregister y.order).modSched fun z => { z with
    collectives := z.collectives.set none h (if y.orphan then none else some { y with code := some code, poisoned }) }

/-- A slot leaves C: the notice goes to every other member of C, the excluded one included, and the collective starts again without it. -/
def State.excludeOne (s : State) (h : Nat) (y : Collective) (slot : Nat) : State :=
  let own := s.boot.podSlot
  let s := ((slotsOf y.contributors).filter (· != own)).foldl (fun s p => s.sendPeer (.exclude p slot y.gen)) s
  if slot = own then s.endCollective h y 7 false
  else
    let y := { y with contributors := y.contributors - 2 ^ slot, restarts := y.restarts + 1 }
    if (coKind y.desc = 1 ∨ coKind y.desc = 2) ∧ coRoot y.desc = slot then s.endCollective h y 9 false
    else s.modSched fun z => { z with collectives := z.collectives.set none h (some y) }

/-- A slot leaves every running collective that holds it, of one GEN or of all; each exclusion is applied once. -/
def State.excludeSlot (s : State) (slot : Nat) (gen : Option Nat) : State :=
  (List.range 32).foldl (fun s h =>
    match s.sched.collectives.get none h with
    | some y =>
      let named := match gen with | some g => y.gen == g | none => true
      if named && y.code.isNone && bit y.contributors slot then s.excludeOne h y slot else s
    | none => s) s

/-- A collective of a GEN is held, running or ended. -/
def State.holdsGen (s : State) (gen : Nat) : Bool :=
  s.sched.collectives.any fun e => match e.2 with | some y => y.gen == gen | none => false

/-- R457, R471: an EXCLUDE notice arrives. One that comes before this member has issued its `s.coll` is kept for it. -/
def execExclude (slot gen : Nat) (s : State) : Host.Outcome State Fault Refusal :=
  .next (if s.holdsGen gen then s.excludeSlot slot (some gen)
  else if s.sched.excluded.contains (slot, gen) then s
  else s.modSched fun z => { z with excluded := z.excluded ++ [(slot, gen)] })

/-! ### Heartbeats and lost packages (R450) -/

/-- R450, R471: every HBTO / 8 a heartbeat goes to every present package on each live station. -/
def execHeartbeatSend (s : State) : Host.Outcome State Fault Refusal :=
  let last := s.sched.timers.get 0 5
  .next (if s.boot.stage < 7 ∨ 8 * (s.cycles - last) < s.boot.hbto * cyclesPerUs then s
  else
    let s := s.modSched fun z => { z with timers := z.timers.set 0 5 s.cycles }
    s.liveStations.foldl (fun s n =>
      s.peers.foldl (fun s p => s.sendOn n (.heartbeat n p)) s) s)

/-- R450: a heartbeat of a present package arrives. -/
def execHeartbeatReceive (slot : Nat) (s : State) : Host.Outcome State Fault Refusal :=
  .next (if s.peer slot then
    s.modBoot fun b => { b with heard := b.heard.set 0 slot s.cycles, linkDown := b.linkDown.set none slot none }
  else s)

/-- A replicated launch that has not started and has a replica on a slot, or its replica 0 there: the generation, and the other packages
that must hear of it (R343). -/
def State.lostLaunches (s : State) (slot : Nat) : List (Nat × List Nat) :=
  let placed := s.sched.launches.filterMap fun e => e.2.bind fun x =>
    if !x.started ∧ 1 < x.pkgCount ∧ x.peers.contains slot then some (x.gen, if x.pkgIndex = 0 then x.peers else []) else none
  let offered := s.offers.filterMap fun o => match o.gen with
    | some g => if o.peers.contains slot then some (g, if o.pkgIndex = 0 then o.peers else []) else none
    | none => none
  placed ++ offered

/-- The launches of a lost package are aborted (R343). -/
def State.abortLost (s : State) (slot : Nat) : State :=
  (s.lostLaunches slot).foldl (fun s e =>
    let s := (e.2.filter fun p => p != s.boot.podSlot && p != slot).foldl (fun s p => s.sendPeer (.launch p 3 e.1 0)) s
    s.abortLaunch e.1) s

/-- A slot may be declared lost: every path has been down for 1 ms, or no heartbeat has come for HBTO. -/
def State.silent (s : State) (slot : Nat) : Bool :=
  (match s.boot.linkDown.get none slot with | some t => decide (t + msCycles 1 ≤ s.cycles) | none => false) ||
  decide (s.boot.heard.get 0 slot + s.boot.hbto * cyclesPerUs ≤ s.cycles)

/-- R450: this package declares a slot lost. -/
def execPackageLostDeclaration (slot : Nat) (s : State) : Host.Outcome State Fault Refusal :=
  .next (if !s.peer slot || !s.silent slot then s
  else
    let s := s.modBoot fun b => { b with podLive := setBit b.podLive slot false, linkDown := b.linkDown.set none slot none }
    let s := (s.log 0 { LogRecord.blank with det := 11, resp := 10 }).2
    (s.abortLost slot).excludeSlot slot none)

/-- R450, R408: a package that has been reset reaches stage 6 and is present again; one that holds this package's own slot sets SLOTDUP. -/
def execPodMembershipExchange (slot : Nat) (s : State) : Host.Outcome State Fault Refusal :=
  .next (if s.boot.stage < 7 ∨ 64 ≤ slot ∨ s.boot.slotDup then s
  else if slot = s.boot.podSlot then s.modBoot fun b => { b with slotDup := true }
  else s.modBoot fun b => { b with
    podLive := setBit b.podLive slot true, heard := b.heard.set 0 slot s.cycles, linkDown := b.linkDown.set none slot none })

/-! ### Folding (R454, R455) -/

/-- Comb of R454 on two elements: OP, TYPE. -/
def combine (op ty a b : Nat) : Nat :=
  let n := if ty = 0 ∨ ty = 2 ∨ ty = 3 then 8 else 4
  let f : FFmt := if ty = 0 then .f64 else .f32
  if ty < 2 then (if op = 0 then fAddBits f a b else (minMax f (op == 2) false a b).1)
  else match op with
    | 0 => comb 0 n a b
    | 1 => comb (if ty = 2 ∨ ty = 4 then 4 else 6) n a b
    | 2 => comb (if ty = 2 ∨ ty = 4 then 5 else 7) n a b
    | 3 => comb 1 n a b
    | 4 => comb 2 n a b
    | _ => comb 3 n a b

/-- The fold of TREE; fuel bounds the depth. -/
def foldTree (f : Nat → Nat → Nat) : Nat → List Nat → Nat
  | _, [] => 0
  | _, [x] => x
  | 0, x :: _ => x
  | fuel + 1, xs =>
    let h := (xs.length + 1) / 2
    f (foldTree f fuel (xs.take h)) (foldTree f fuel (xs.drop h))

/-- The fold of RING, starting at rank s. -/
def foldRing (f : Nat → Nat → Nat) (s : Nat) (xs : List Nat) : Nat :=
  match xs.drop s ++ xs.take s with
  | [] => 0
  | x :: rest => rest.foldl f x

/-- RING is the algorithm (R455). -/
def coRing (d : List Word) : Bool := coAlg d == 1 || (coAlg d == 0 && decide (65536 ≤ coInput d))

/-- Element i of an input. -/
def elementOf (e i : Nat) (bs : List Byte) : Nat := bytesN ((bs.drop (e * i)).take e)

/-- Element i of the fold over the contributors' inputs, ascending slot. -/
def foldElement (d : List Word) (inputs : List (List Byte)) (i : Nat) : Nat :=
  let e := coSize d
  let xs := inputs.map (elementOf e i)
  let f := combine (coOp d) (coType d)
  if coRing d then foldRing f (e * i / 4096 % xs.length) xs else foldTree f 64 xs

/-- A byte of an output with its mark, or a byte that the attempt does not write. -/
abbrev OutByte := Option (Byte × Bool)

/-- Bytes of an input as bytes of an output, each with the mark of its sector. -/
def markedBytes (bs : List Byte) (marks : List Nat) : List OutByte :=
  ((List.range bs.length).zip bs).map fun e => some (e.2, marks.contains (e.1 / 32))

/-- A member's contribution: its slot, bytes and marked sectors. -/
structure Part where
  slot : Nat
  bytes : List Byte
  marks : List Nat
deriving DecidableEq, Repr

/-- What an attempt over C puts into DST (R454). -/
def coOutBytes (d : List Word) (parts : List Part) : List OutByte :=
  match coKind d with
  | 0 | 1 =>
    let e := coSize d
    let bytes := (List.range (coCount d)).flatMap fun i => natBytes e (foldElement d (parts.map (·.bytes)) i)
    markedBytes bytes (sortNats (parts.flatMap (·.marks)))
  | 2 => match parts.find? fun p => p.slot == coRoot d with
    | some p => markedBytes p.bytes p.marks
    | none => []
  | 3 => (slotsOf (coMembers d)).flatMap fun c => match parts.find? fun p => p.slot == c with
    | some p => markedBytes p.bytes p.marks
    | none => List.replicate (coInput d) none
  | _ => []

/-- Writes the bytes that an attempt writes to one sector, run by run, each with the mark. -/
def State.writeRuns (s : State) (d pa : Nat) (mark : Bool) : List OutByte → List Byte → State
  | [], run => if run.isEmpty then s else s.engineWrite (pa - run.length) run mark
  | some b :: rest, run => State.writeRuns s d (pa + 1) mark rest (run ++ [b.1])
  | none :: rest, run =>
    State.writeRuns (if run.isEmpty then s else s.engineWrite (pa - run.length) run mark) d (pa + 1) mark rest []

/-- Writes DST sector by sector; none where a sector must wait, the flag where one cannot be written. -/
def writeOut (y : Collective) : Nat → Nat → List OutByte → State → Option (Bool × State)
  | 0, _, _, s => some (true, s)
  | fuel + 1, va, out, s =>
    if out.isEmpty then some (true, s)
    else
      let now := out.take 32
      match s.engineTarget 0 y.asid y.runtime (some y.order) va with
      | (.error none, _) => none
      | (.error (some _), s) => some (false, s)
      | (.ok pa, s) =>
        let mark := now.any fun b => match b with | some x => x.2 | none => false
        let s := if now.all Option.isNone then s else s.writeRuns 0 pa mark now []
        writeOut y fuel (va + 32) (out.drop 32) s

/-- This member's input with its marked sectors: a wait, a fault, or the part. -/
def State.ownPart (s : State) (y : Collective) : Option (Option Part) × State :=
  let d := y.desc
  let own := s.boot.podSlot
  if !coReads d own then (some (some ⟨own, [], []⟩), s)
  else
    (List.range (ceilDiv (coInput d) 32)).foldl (fun (acc : Option (Option Part) × State) i =>
      match acc.1 with
      | some (some p) =>
        let n := if coInput d - 32 * i < 32 then coInput d - 32 * i else 32
        match acc.2.engineRead 0 y.asid y.runtime (some y.order) (coSrc d + 32 * i) n with
        | (.ok bs mark, s) => (some (some { p with bytes := p.bytes ++ bs, marks := if mark then p.marks ++ [i] else p.marks }), s)
        | (.fault _ _, s) => (some none, s)
        | (.wait, s) => (none, s)
      | _ => acc) (some (some ⟨own, [], []⟩), s)

/-- The collective is one of the four that are performed at a time (R452): the oldest that have not ended. -/
def State.performed (s : State) (y : Collective) : Bool :=
  decide ((s.sched.collectives.filter fun e => match e.2 with | some x => x.code.isNone && decide (x.order < y.order) | none => false).length < 4)

/-- R455, R457: the attempt after which every survivor has the same C. The inputs are those of the other members of C. -/
def execCollectiveAttempt (handle : Nat) (inputs : List MemberInput) (s : State) : Host.Outcome State Fault Refusal :=
  .next (match s.sched.collectives.get none handle with
  | none => s
  | some y =>
    let d := y.desc
    let own := s.boot.podSlot
    let others := (slotsOf y.contributors).filter (· != own)
    let sized := inputs.all fun x => x.fault || !x.agrees || decide (x.data.length = if coReads d x.slot then coInput d else 0)
    if y.code.isSome || !s.performed y || sortNats (inputs.map (·.slot)) != others || inputs.length != others.length || !sized then s
    else if inputs.any fun x => !x.agrees then s.endCollective handle y 4 false
    else match s.ownPart y with
      | (none, _) => s
      | (some none, s) => s.endCollective handle y 5 false
      | (some (some mine), s') =>
        if inputs.any (·.fault) then s'.endCollective handle y 5 false
        else
          let parts := sortBy (fun (a b : Part) => decide (a.slot < b.slot)) (mine :: inputs.map fun x => ⟨x.slot, x.data, x.marks⟩)
          let poisoned := parts.any fun p => coReads d p.slot && !p.marks.isEmpty
          let out := if coWrites d own then coOutBytes d parts else []
          match writeOut y (coOutput d) (coDst d) out s' with
          | none => s
          | some (false, s') => s'.endCollective handle y 5 false
          | some (true, s') => s'.endCollective handle y (if y.contributors = coMembers d then 0 else 6) poisoned)

end Sys2Proof.Machine
end

