-- ==== Sys2Proof/Machine/LaneNarrow.lean ====
section
/-!
DEFINITION. The lane words of the narrow formats (R143 to R147).
-/
namespace Sys2Proof.Machine

/-- The element format code of `v.mxdec` and `v.pack` (R143). -/
def narrowCode (f : Lane) : Nat := bits f.imm.toNat 0 4
/-- The element index (R143). -/
def narrowIndex (f : Lane) : Nat := bits f.imm.toNat 4 6
/-- The format takes a scale operand (R143). -/
def hasScale (f : Lane) : Bool := 2 ≤ narrowCode f

/-- R144. -/
def execVQdec (f : Lane) : State → Host.Outcome State Fault Refusal :=
  let srcs : List Src := if f.x then [.a, .b, .c] else [.a, .b]
  laneAlu f (fpUse srcs 0xF true true 0xF) { eat := srcs } fun x _ l =>
    let (v, fl) := qdec (ftyFormat f.ty.toNat) x.rm f.x (x.bitsOf .a l) (x.bitsOf .b l % 2 ^ 32) (x.bitsOf .c l) (f.imm.toNat % 16)
    { d := some ⟨wordN v, srcs.any fun y => (x.src y l).mark⟩, flags := fl }
/-- R145. -/
def execVMxdec (f : Lane) : State → Host.Outcome State Fault Refusal :=
  let srcs : List Src := if hasScale f then [.a, .b] else [.a]
  laneAlu f (fpUse srcs 0xF true false 0x3FF) { eat := srcs } fun x _ l =>
    let (v, fl) := mxdec (ftyFormat f.ty.toNat) x.rm (narrowCode f) (x.bitsOf .a l) (x.bitsOf .b l) (narrowIndex f)
    { d := some ⟨wordN v, srcs.any fun y => (x.src y l).mark⟩, flags := fl }
/-- R146: the word reads vd; the other bits of vd are kept, with vd's mark. -/
def execVPack (f : Lane) : State → Host.Outcome State Fault Refusal :=
  let srcs : List Src := if f.x then [.a, .b, .c] else if hasScale f then [.a, .b] else [.a]
  laneAlu f { fpUse srcs 0xF false (narrowCode f == 8) 0x3FF with pd := true, sat := narrowCode f < 4 }
    { eat := srcs, vdRead := true } fun x s l =>
    let t := ftyFormat f.ty.toNat
    let old : Marked := if f.vd.toNat < 240 then s.vreg x.c x.m f.vd.toNat l else ⟨0, false⟩
    let mark := srcs.any fun y => (x.src y l).mark
    let (code, fl, p) := packElement t (narrowCode f) f.sat f.x (lowBits t (x.bitsOf .a l)) (x.bitsOf .b l) (x.bitsOf .c l)
    { d := some ⟨wordN (insertElement (narrowCode f) (narrowIndex f) old.val.toNat code), old.mark || mark⟩
      p := if f.pd = 0 then none else some (p, mark), flags := fl }
/-- R147. -/
def execVPackScale (f : Lane) : State → Host.Outcome State Fault Refusal :=
  laneAlu f { tys := 0xF, vd := .op, a := .op, imm := 0x40F } { eat := [.a] } fun x _ l =>
    let t := ftyFormat f.ty.toNat
    let a := x.src .a l
    { d := some ⟨wordN (packScale t (narrowCode f) (lowBits t a.val.toNat)), a.mark⟩ }

end Sys2Proof.Machine
end

