-- ==== Sys2Proof/Machine/Dispatch.lean ====
section
/-!
DEFINITION. The dispatch of an instruction to its meaning: one arm per constructor of Instr, in the order of the
opcode table.
-/
namespace Sys2Proof.Machine

/-- The meaning of an instruction in a state: a word is issued by the stream in focus. -/
def exec (i : Instr) (s : State) : Host.Outcome State Fault Refusal :=
  match i with
  | .sAdd f => Sys2Proof.Machine.execSAdd f s
  | .sSub f => Sys2Proof.Machine.execSSub f s
  | .sAnd f => Sys2Proof.Machine.execSAnd f s
  | .sOr f => Sys2Proof.Machine.execSOr f s
  | .sXor f => Sys2Proof.Machine.execSXor f s
  | .sAndn f => Sys2Proof.Machine.execSAndn f s
  | .sShl f => Sys2Proof.Machine.execSShl f s
  | .sShr f => Sys2Proof.Machine.execSShr f s
  | .sSra f => Sys2Proof.Machine.execSSra f s
  | .sRot f => Sys2Proof.Machine.execSRot f s
  | .sMin f => Sys2Proof.Machine.execSMin f s
  | .sMinN f => Sys2Proof.Machine.execSMinN f s
  | .sMax f => Sys2Proof.Machine.execSMax f s
  | .sMaxN f => Sys2Proof.Machine.execSMaxN f s
  | .sMul f => Sys2Proof.Machine.execSMul f s
  | .sMulh f => Sys2Proof.Machine.execSMulh f s
  | .sMulhN f => Sys2Proof.Machine.execSMulhN f s
  | .sDiv f => Sys2Proof.Machine.execSDiv f s
  | .sDivN f => Sys2Proof.Machine.execSDivN f s
  | .sRem f => Sys2Proof.Machine.execSRem f s
  | .sRemN f => Sys2Proof.Machine.execSRemN f s
  | .sClz f => Sys2Proof.Machine.execSClz f s
  | .sCtz f => Sys2Proof.Machine.execSCtz f s
  | .sPopc f => Sys2Proof.Machine.execSPopc f s
  | .sBrev f => Sys2Proof.Machine.execSBrev f s
  | .sBfx f => Sys2Proof.Machine.execSBfx f s
  | .sBfi f => Sys2Proof.Machine.execSBfi f s
  | .sIleave f => Sys2Proof.Machine.execSIleave f s
  | .sIleave3 f => Sys2Proof.Machine.execSIleave3 f s
  | .sDeleave f => Sys2Proof.Machine.execSDeleave f s
  | .sDeleave3 f => Sys2Proof.Machine.execSDeleave3 f s
  | .sSel neg p f => Sys2Proof.Machine.execSSel neg p f s
  | .sCmp c f => Sys2Proof.Machine.execSCmp c f s
  | .sKop o f => Sys2Proof.Machine.execSKop o f s
  | .sFopAdd f => Sys2Proof.Machine.execSFopAdd f s
  | .sFopSub f => Sys2Proof.Machine.execSFopSub f s
  | .sFopMul f => Sys2Proof.Machine.execSFopMul f s
  | .sFopDiv f => Sys2Proof.Machine.execSFopDiv f s
  | .sFopSqrt f => Sys2Proof.Machine.execSFopSqrt f s
  | .sFopMin f => Sys2Proof.Machine.execSFopMin f s
  | .sFopMax f => Sys2Proof.Machine.execSFopMax f s
  | .sFopAbs f => Sys2Proof.Machine.execSFopAbs f s
  | .sFopNeg f => Sys2Proof.Machine.execSFopNeg f s
  | .sFfma v f => Sys2Proof.Machine.execSFfma v f s
  | .sFcmp c f => Sys2Proof.Machine.execSFcmp c f s
  | .sFcvt c f => Sys2Proof.Machine.execSFcvt c f s
  | .sAddImm f => Sys2Proof.Machine.execSAddImm f s
  | .sAndImm f => Sys2Proof.Machine.execSAndImm f s
  | .sOrImm f => Sys2Proof.Machine.execSOrImm f s
  | .sXorImm f => Sys2Proof.Machine.execSXorImm f s
  | .sShlImm f => Sys2Proof.Machine.execSShlImm f s
  | .sShrImm f => Sys2Proof.Machine.execSShrImm f s
  | .sSraImm f => Sys2Proof.Machine.execSSraImm f s
  | .sRotImm f => Sys2Proof.Machine.execSRotImm f s
  | .sMulImm f => Sys2Proof.Machine.execSMulImm f s
  | .sCmpImm c k w a imm => Sys2Proof.Machine.execSCmpImm c k w a imm s
  | .sLui f => Sys2Proof.Machine.execSLui f s
  | .sAddpc f => Sys2Proof.Machine.execSAddpc f s
  | .sBr f => Sys2Proof.Machine.execSBr f s
  | .sJmp w disp => Sys2Proof.Machine.execSJmp w disp s
  | .sCall f => Sys2Proof.Machine.execSCall f s
  | .sLd f => Sys2Proof.Machine.execSLd f s
  | .sSt f => Sys2Proof.Machine.execSSt f s
  | .sLdsp f => Sys2Proof.Machine.execSLdsp f s
  | .sStsp f => Sys2Proof.Machine.execSStsp f s
  | .sCopy f => Sys2Proof.Machine.execSCopy f s
  | .sStream f => Sys2Proof.Machine.execSStream f s
  | .sPrefL1 f => Sys2Proof.Machine.execSPrefL1 f s
  | .sPrefL2 f => Sys2Proof.Machine.execSPrefL2 f s
  | .sCacheL1inv f => Sys2Proof.Machine.execSCacheL1inv f s
  | .sCacheRdcinv f => Sys2Proof.Machine.execSCacheRdcinv f s
  | .sCacheL2wb f => Sys2Proof.Machine.execSCacheL2wb f s
  | .sCacheIcinv f => Sys2Proof.Machine.execSCacheIcinv f s
  | .sAwset f => Sys2Proof.Machine.execSAwset f s
  | .sAwwait f => Sys2Proof.Machine.execSAwwait f s
  | .sFenceAcq scope f => Sys2Proof.Machine.execSFenceAcq scope f s
  | .sFenceRel scope f => Sys2Proof.Machine.execSFenceRel scope f s
  | .sFenceAcqrel scope f => Sys2Proof.Machine.execSFenceAcqrel scope f s
  | .sBarSync f => Sys2Proof.Machine.execSBarSync f s
  | .sBarArrive f => Sys2Proof.Machine.execSBarArrive f s
  | .sBarInit f => Sys2Proof.Machine.execSBarInit f s
  | .sSeal scope f => Sys2Proof.Machine.execSSeal scope f s
  | .sUnseal scope f => Sys2Proof.Machine.execSUnseal scope f s
  | .sAtom o scope f => Sys2Proof.Machine.execSAtom o scope f s
  | .sAtomAcq o scope f => Sys2Proof.Machine.execSAtomAcq o scope f s
  | .sAtomRel o scope f => Sys2Proof.Machine.execSAtomRel o scope f s
  | .sAtomAcqrel o scope f => Sys2Proof.Machine.execSAtomAcqrel o scope f s
  | .sCas order size scope f => Sys2Proof.Machine.execSCas order size scope f s
  | .sMma z f => Sys2Proof.Machine.execSMma z f s
  | .sMloop z f => Sys2Proof.Machine.execSMloop z f s
  | .sAwin q f => Sys2Proof.Machine.execSAwin q f s
  | .sAclr f => Sys2Proof.Machine.execSAclr f s
  | .sBeam f => Sys2Proof.Machine.execSBeam f s
  | .sRet f => Sys2Proof.Machine.execSRet f s
  | .sJr f => Sys2Proof.Machine.execSJr f s
  | .sLrunUniforms n f => Sys2Proof.Machine.execSLrunUniforms n f s
  | .sLrun f => Sys2Proof.Machine.execSLrun f s
  | .sLwait f => Sys2Proof.Machine.execSLwait f s
  | .sExit f => Sys2Proof.Machine.execSExit f s
  | .sRegroup nw f => Sys2Proof.Machine.execSRegroup nw f s
  | .sMfs f => Sys2Proof.Machine.execSMfs f s
  | .sMts f => Sys2Proof.Machine.execSMts f s
  | .sNop f => Sys2Proof.Machine.execSNop f s
  | .sWdq f => Sys2Proof.Machine.execSWdq f s
  | .sQpush f => Sys2Proof.Machine.execSQpush f s
  | .sQpushNw f => Sys2Proof.Machine.execSQpushNw f s
  | .sQpushOpen f => Sys2Proof.Machine.execSQpushOpen f s
  | .sQpushClose f => Sys2Proof.Machine.execSQpushClose f s
  | .sQpop kd f => Sys2Proof.Machine.execSQpop kd f s
  | .sQpoll kd f => Sys2Proof.Machine.execSQpoll kd f s
  | .sLease f => Sys2Proof.Machine.execSLease f s
  | .sYield f => Sys2Proof.Machine.execSYield f s
  | .sLaunch f => Sys2Proof.Machine.execSLaunch f s
  | .sTrap f => Sys2Proof.Machine.execSTrap f s
  | .sEret f => Sys2Proof.Machine.execSEret f s
  | .sTlbiVa dom f => Sys2Proof.Machine.execSTlbiVa dom f s
  | .sTlbiAsid dom f => Sys2Proof.Machine.execSTlbiAsid dom f s
  | .sTlbiAll dom f => Sys2Proof.Machine.execSTlbiAll dom f s
  | .sMfp f => Sys2Proof.Machine.execSMfp f s
  | .sMtp f => Sys2Proof.Machine.execSMtp f s
  | .sRegion movable f => Sys2Proof.Machine.execSRegion movable f s
  | .sCommit f => Sys2Proof.Machine.execSCommit f s
  | .sCkpt f => Sys2Proof.Machine.execSCkpt f s
  | .sCschk c f => Sys2Proof.Machine.execSCschk c f s
  | .sPoisqRegs f => Sys2Proof.Machine.execSPoisqRegs f s
  | .sPoisqLine f => Sys2Proof.Machine.execSPoisqLine f s
  | .sPoisqSp f => Sys2Proof.Machine.execSPoisqSp f s
  | .sPoisqClr f => Sys2Proof.Machine.execSPoisqClr f s
  | .sPoisqPol f => Sys2Proof.Machine.execSPoisqPol f s
  | .sColl f => Sys2Proof.Machine.execSColl f s
  | .sCwait f => Sys2Proof.Machine.execSCwait f s
  | .vAdd f => Sys2Proof.Machine.execVAdd f s
  | .vSub f => Sys2Proof.Machine.execVSub f s
  | .vMul f => Sys2Proof.Machine.execVMul f s
  | .vMulh f => Sys2Proof.Machine.execVMulh f s
  | .vAnd f => Sys2Proof.Machine.execVAnd f s
  | .vOr f => Sys2Proof.Machine.execVOr f s
  | .vXor f => Sys2Proof.Machine.execVXor f s
  | .vAndn f => Sys2Proof.Machine.execVAndn f s
  | .vShl f => Sys2Proof.Machine.execVShl f s
  | .vShr f => Sys2Proof.Machine.execVShr f s
  | .vSra f => Sys2Proof.Machine.execVSra f s
  | .vMin f => Sys2Proof.Machine.execVMin f s
  | .vMax f => Sys2Proof.Machine.execVMax f s
  | .vClz f => Sys2Proof.Machine.execVClz f s
  | .vPopc f => Sys2Proof.Machine.execVPopc f s
  | .vBrev f => Sys2Proof.Machine.execVBrev f s
  | .vBfx f => Sys2Proof.Machine.execVBfx f s
  | .vBfi f => Sys2Proof.Machine.execVBfi f s
  | .vIleave f => Sys2Proof.Machine.execVIleave f s
  | .vDeleave f => Sys2Proof.Machine.execVDeleave f s
  | .vIcmp f => Sys2Proof.Machine.execVIcmp f s
  | .vSel f => Sys2Proof.Machine.execVSel f s
  | .vPop f => Sys2Proof.Machine.execVPop f s
  | .vMovi f => Sys2Proof.Machine.execVMovi f s
  | .vMoviHi f => Sys2Proof.Machine.execVMoviHi f s
  | .vMov f => Sys2Proof.Machine.execVMov f s
  | .vImad f => Sys2Proof.Machine.execVImad f s
  | .vFadd f => Sys2Proof.Machine.execVFadd f s
  | .vFsub f => Sys2Proof.Machine.execVFsub f s
  | .vFmul f => Sys2Proof.Machine.execVFmul f s
  | .vFfma f => Sys2Proof.Machine.execVFfma f s
  | .vFmin f => Sys2Proof.Machine.execVFmin f s
  | .vFmax f => Sys2Proof.Machine.execVFmax f s
  | .vFsgn f => Sys2Proof.Machine.execVFsgn f s
  | .vFcmp f => Sys2Proof.Machine.execVFcmp f s
  | .vFclass f => Sys2Proof.Machine.execVFclass f s
  | .vFdiv f => Sys2Proof.Machine.execVFdiv f s
  | .vFsqrt f => Sys2Proof.Machine.execVFsqrt f s
  | .vFrcp f => Sys2Proof.Machine.execVFrcp f s
  | .vFrsq f => Sys2Proof.Machine.execVFrsq f s
  | .vFex2 f => Sys2Proof.Machine.execVFex2 f s
  | .vFlg2 f => Sys2Proof.Machine.execVFlg2 f s
  | .vFsin f => Sys2Proof.Machine.execVFsin f s
  | .vFcos f => Sys2Proof.Machine.execVFcos f s
  | .vFcvt f => Sys2Proof.Machine.execVFcvt f s
  | .vIcvt f => Sys2Proof.Machine.execVIcvt f s
  | .vFround f => Sys2Proof.Machine.execVFround f s
  | .vFscale f => Sys2Proof.Machine.execVFscale f s
  | .vQdec f => Sys2Proof.Machine.execVQdec f s
  | .vMxdec f => Sys2Proof.Machine.execVMxdec f s
  | .vPack f => Sys2Proof.Machine.execVPack f s
  | .vPackScale f => Sys2Proof.Machine.execVPackScale f s
  | .vLdacc f => Sys2Proof.Machine.execVLdacc f s
  | .vStacc f => Sys2Proof.Machine.execVStacc f s
  | .vTrace f => Sys2Proof.Machine.execVTrace f s
  | .vTex f => Sys2Proof.Machine.execVTex f s
  | .vLd f => Sys2Proof.Machine.execVLd f s
  | .vSt f => Sys2Proof.Machine.execVSt f s
  | .vLdsp f => Sys2Proof.Machine.execVLdsp f s
  | .vStsp f => Sys2Proof.Machine.execVStsp f s
  | .vAtom f => Sys2Proof.Machine.execVAtom f s
  | .vCas f => Sys2Proof.Machine.execVCas f s
  | .vAtomsp f => Sys2Proof.Machine.execVAtomsp f s
  | .vBr f => Sys2Proof.Machine.execVBr f s
  | .vJmp f => Sys2Proof.Machine.execVJmp f s
  | .vJoin f => Sys2Proof.Machine.execVJoin f s
  | .vLend f => Sys2Proof.Machine.execVLend f s
  | .vExit f => Sys2Proof.Machine.execVExit f s
  | .vVote f => Sys2Proof.Machine.execVVote f s
  | .vShuf f => Sys2Proof.Machine.execVShuf f s
  | .vMfs f => Sys2Proof.Machine.execVMfs f s
  | .vTrap f => Sys2Proof.Machine.execVTrap f s
  | .vCsacc f => Sys2Proof.Machine.execVCsacc f s
  | .vChk f => Sys2Proof.Machine.execVChk f s
  | .longResultReturn core team ticket check => Sys2Proof.Machine.execLongResultReturn core team ticket check s
  | .switchMarkerRelease core team => Sys2Proof.Machine.execSwitchMarkerRelease core team s
  | .regroupOfferTimeout core team => Sys2Proof.Machine.execRegroupOfferTimeout core team s
  | .scalarDividerComplete core => Sys2Proof.Machine.execScalarDividerComplete core s
  | .teamAdmission core => Sys2Proof.Machine.execTeamAdmission core s
  | .overBudgetAdmission core => Sys2Proof.Machine.execOverBudgetAdmission core s
  | .teamBlocked core team => Sys2Proof.Machine.execTeamBlocked core team s
  | .teamUnblocked core team => Sys2Proof.Machine.execTeamUnblocked core team s
  | .qpollBackoffEnd core team => Sys2Proof.Machine.execQpollBackoffEnd core team s
  | .leaseDecay core team => Sys2Proof.Machine.execLeaseDecay core team s
  | .queueTailSeen queue => Sys2Proof.Machine.execQueueTailSeen queue s
  | .queueReevaluation die => Sys2Proof.Machine.execQueueReevaluation die s
  | .launchPlacement queue => Sys2Proof.Machine.execLaunchPlacement queue s
  | .partitionSetupComplete core => Sys2Proof.Machine.execPartitionSetupComplete core s
  | .replicaDescriptorReceived r => Sys2Proof.Machine.execReplicaDescriptorReceived r s
  | .replicaReady gen index => Sys2Proof.Machine.execReplicaReady gen index s
  | .replicaStart gen => Sys2Proof.Machine.execReplicaStart gen s
  | .replicaAbort gen => Sys2Proof.Machine.execReplicaAbort gen s
  | .wdqServe launch index => Sys2Proof.Machine.execWdqServe launch index s
  | .awwaitTimeout core team => Sys2Proof.Machine.execAwwaitTimeout core team s
  | .copyStart cluster => Sys2Proof.Machine.execCopyStart cluster s
  | .copyComplete cluster ticket => Sys2Proof.Machine.execCopyComplete cluster ticket s
  | .streamTileFill core stream => Sys2Proof.Machine.execStreamTileFill core stream s
  | .streamTileDrain core stream => Sys2Proof.Machine.execStreamTileDrain core stream s
  | .engineLineRelease ticket line => Sys2Proof.Machine.execEngineLineRelease ticket line s
  | .storePerformedAtHome core index check => Sys2Proof.Machine.execStorePerformedAtHome core index check s
  | .matrixStep core residue => Sys2Proof.Machine.execMatrixStep core residue s
  | .mloopWaitTimeout core => Sys2Proof.Machine.execMloopWaitTimeout core s
  | .beamQueryStart cluster => Sys2Proof.Machine.execBeamQueryStart cluster s
  | .splitRecordAnswer cluster => Sys2Proof.Machine.execSplitRecordAnswer cluster s
  | .hitRecordRetry cluster => Sys2Proof.Machine.execHitRecordRetry cluster s
  | .barrierSyncTimeout core team => Sys2Proof.Machine.execBarrierSyncTimeout core team s
  | .queueWaitTimeout core team => Sys2Proof.Machine.execQueueWaitTimeout core team s
  | .recordQueueOperation core team => Sys2Proof.Machine.execRecordQueueOperation core team s
  | .terminationRound graph => Sys2Proof.Machine.execTerminationRound graph s
  | .terminationTokenPass graph => Sys2Proof.Machine.execTerminationTokenPass graph s
  | .preq core team v => Sys2Proof.Machine.execPreq core team v s
  | .pcancel core team v => Sys2Proof.Machine.execPcancel core team v s
  | .pkill core team v => Sys2Proof.Machine.execPkill core team v s
  | .groupResume group place => Sys2Proof.Machine.execGroupResume group place s
  | .hotnessDecay die => Sys2Proof.Machine.execHotnessDecay die s
  | .migrationExamine die frame occupancy => Sys2Proof.Machine.execMigrationExamine die frame occupancy s
  | .errorDetection e => Sys2Proof.Machine.execErrorDetection e s
  | .regionRecordValid core team => Sys2Proof.Machine.execRegionRecordValid core team s
  | .speedwellDiscard core team => Sys2Proof.Machine.execSpeedwellDiscard core team s
  | .regionMove core team target => Sys2Proof.Machine.execRegionMove core team target s
  | .regionMoveTimeout core team => Sys2Proof.Machine.execRegionMoveTimeout core team s
  | .regionBufferOverflow core team => Sys2Proof.Machine.execRegionBufferOverflow core team s
  | .dualArbitration core team third run => Sys2Proof.Machine.execDualArbitration core team third run s
  | .laneRetirement core => Sys2Proof.Machine.execLaneRetirement core s
  | .laneRemapPauseEnd core => Sys2Proof.Machine.execLaneRemapPauseEnd core s
  | .wear die margin months up => Sys2Proof.Machine.execWear die margin months up s
  | .mailboxWrite r => Sys2Proof.Machine.execMailboxWrite r s
  | .mailboxRead r => Sys2Proof.Machine.execMailboxRead r s
  | .semRead agent n => Sys2Proof.Machine.execSemRead agent n s
  | .semWrite agent n v => Sys2Proof.Machine.execSemWrite agent n v s
  | .ctxbaseWrite v => Sys2Proof.Machine.execCtxbaseWrite v s
  | .qtbaseWrite v => Sys2Proof.Machine.execQtbaseWrite v s
  | .freepush die v => Sys2Proof.Machine.execFreepush die v s
  | .freepop agent die => Sys2Proof.Machine.execFreepop agent die s
  | .freecountWrite die v => Sys2Proof.Machine.execFreecountWrite die v s
  | .statusWrite v => Sys2Proof.Machine.execStatusWrite v s
  | .resetreq v => Sys2Proof.Machine.execResetreq v s
  | .pwrcapWrite v => Sys2Proof.Machine.execPwrcapWrite v s
  | .fabctlWrite v => Sys2Proof.Machine.execFabctlWrite v s
  | .sidebandReset port => Sys2Proof.Machine.execSidebandReset port s
  | .bringupStageComplete r => Sys2Proof.Machine.execBringupStageComplete r s
  | .portLost port => Sys2Proof.Machine.execPortLost port s
  | .getVersion port => Sys2Proof.Machine.execGetVersion port s
  | .getCapabilities port => Sys2Proof.Machine.execGetCapabilities port s
  | .negotiateAlgorithms port => Sys2Proof.Machine.execNegotiateAlgorithms port s
  | .getDigests port => Sys2Proof.Machine.execGetDigests port s
  | .getCertificate port slot offset length => Sys2Proof.Machine.execGetCertificate port slot offset length s
  | .challenge port slot nonce => Sys2Proof.Machine.execChallenge port slot nonce s
  | .getMeasurements port index nonce signed => Sys2Proof.Machine.execGetMeasurements port index nonce signed s
  | .spdmUnsupportedRequest port code => Sys2Proof.Machine.execSpdmUnsupportedRequest port code s
  | .powerSample watts => Sys2Proof.Machine.execPowerSample watts s
  | .pwralertRaise => Sys2Proof.Machine.execPwralertRaise s
  | .temperatureSample sensor t => Sys2Proof.Machine.execTemperatureSample sensor t s
  | .thermalTrip sensor => Sys2Proof.Machine.execThermalTrip sensor s
  | .flitReceive station number crcOk load => Sys2Proof.Machine.execFlitReceive station number crcOk load s
  | .linkRetrain station ok => Sys2Proof.Machine.execLinkRetrain station ok s
  | .stationDown station => Sys2Proof.Machine.execStationDown station s
  | .ualinkRequestArrival r => Sys2Proof.Machine.execUalinkRequestArrival r s
  | .heartbeatSend => Sys2Proof.Machine.execHeartbeatSend s
  | .heartbeatReceive slot => Sys2Proof.Machine.execHeartbeatReceive slot s
  | .packageLostDeclaration slot => Sys2Proof.Machine.execPackageLostDeclaration slot s
  | .exclude slot gen => Sys2Proof.Machine.execExclude slot gen s
  | .collectiveAttempt handle inputs => Sys2Proof.Machine.execCollectiveAttempt handle inputs s
  | .cwaitTimeout core team => Sys2Proof.Machine.execCwaitTimeout core team s
  | .powerGood => Sys2Proof.Machine.execPowerGood s
  | .podMembershipExchange slot => Sys2Proof.Machine.execPodMembershipExchange slot s

end Sys2Proof.Machine
end

