-- ==== Sys2Proof/Decode.lean ====
section
/-!
DEFINITION. The decoder and encoder of both streams, from the formats of R30 and R34 and the opcode
maps R44 to R49: any bits give an instruction or a named refusal; the encoder is written from the same tables.
-/
namespace Sys2Proof

/-- A truth value as a bit. -/
def b2n (b : Bool) : Nat := if b then 1 else 0

/-- The fields of format SA in a scalar word (R30). -/
def saOf (n : Nat) : SA :=
  ⟨bit n 31, BitVec.ofNat 6 (n / 2 ^ 19), BitVec.ofNat 6 (n / 2 ^ 13), BitVec.ofNat 6 (n / 2 ^ 7), BitVec.ofNat 3 n⟩

/-- The fields of format SI (R30). -/
def siOf (n : Nat) : SI :=
  ⟨bit n 31, BitVec.ofNat 6 (n / 2 ^ 19), BitVec.ofNat 6 (n / 2 ^ 13), BitVec.ofNat 13 n⟩

/-- The fields of the shift and rotate immediates (R100). -/
def sshOf (n : Nat) : SSh :=
  ⟨bit n 31, BitVec.ofNat 6 (n / 2 ^ 19), BitVec.ofNat 6 (n / 2 ^ 13), BitVec.ofNat 5 (n / 2 ^ 6), BitVec.ofNat 6 n⟩

/-- The fields of format SL (R30). -/
def slOf (n : Nat) : SL := ⟨bit n 31, BitVec.ofNat 6 (n / 2 ^ 19), BitVec.ofNat 19 n⟩

/-- The fields of format SB (R30). -/
def sbOf (n : Nat) : SB := ⟨bit n 31, BitVec.ofNat 3 (n / 2 ^ 22), bit n 21, BitVec.ofNat 21 n⟩

/-- The fields of format SM (R30). -/
def smOf (n : Nat) : SM :=
  ⟨bit n 31, BitVec.ofNat 6 (n / 2 ^ 19), BitVec.ofNat 6 (n / 2 ^ 13), BitVec.ofNat 3 (n / 2 ^ 10),
   BitVec.ofNat 2 (n / 2 ^ 8), BitVec.ofNat 8 n⟩

/-- The register fields of format SC (R30). -/
def scOf (n : Nat) : SC :=
  ⟨bit n 31, BitVec.ofNat 6 (n / 2 ^ 19), BitVec.ofNat 6 (n / 2 ^ 13), BitVec.ofNat 6 (n / 2 ^ 7)⟩

/-- The fields of the barrier words (R283). -/
def sbarOf (n : Nat) : SBar :=
  ⟨bit n 31, BitVec.ofNat 6 (n / 2 ^ 19), BitVec.ofNat 4 (n / 2 ^ 15), BitVec.ofNat 8 (n / 2 ^ 7)⟩

/-- The fields of the special-register moves (R48). -/
def sspecOf (n : Nat) : SSpec := ⟨bit n 31, BitVec.ofNat 6 (n / 2 ^ 19), BitVec.ofNat 12 (n / 2 ^ 7)⟩

/-- The fields of a lane word (R34). -/
def laneOf (n : Nat) : Lane :=
  ⟨bit n 95, BitVec.ofNat 3 (n / 2 ^ 84), bit n 83, BitVec.ofNat 3 (n / 2 ^ 80), BitVec.ofNat 8 (n / 2 ^ 72),
   BitVec.ofNat 8 (n / 2 ^ 64), BitVec.ofNat 8 (n / 2 ^ 56), BitVec.ofNat 8 (n / 2 ^ 48), BitVec.ofNat 3 (n / 2 ^ 45),
   BitVec.ofNat 3 (n / 2 ^ 42), BitVec.ofNat 2 (n / 2 ^ 40), BitVec.ofNat 2 (n / 2 ^ 38), BitVec.ofNat 3 (n / 2 ^ 35),
   bit n 34, bit n 33, BitVec.ofNat 33 n⟩

/-- The conditions of `s.cmp` by code (R102). -/
def condOf : Nat → Cond
  | 0 => .eq | 1 => .ne | 2 => .lt | 3 => .ge | 4 => .ltN | 5 => .geN | 6 => .tst | _ => .ntst

/-- The code of a condition (R102). -/
def Cond.code : Cond → Nat
  | .eq => 0 | .ne => 1 | .lt => 2 | .ge => 3 | .ltN => 4 | .geN => 5 | .tst => 6 | .ntst => 7

/-- The predicate operations by code (R105). -/
def kopOf : Nat → Option KOp
  | 0 => some .and | 1 => some .or | 2 => some .xor | 3 => some .andn | 4 => some .orn | 5 => some .nand
  | 6 => some .nor | 7 => some .xnor | 8 => some .not | _ => none

/-- The code of a predicate operation (R105). -/
def KOp.code : KOp → Nat
  | .and => 0 | .or => 1 | .xor => 2 | .andn => 3 | .orn => 4 | .nand => 5 | .nor => 6 | .xnor => 7 | .not => 8

/-- The variants of `s.ffma` by code (R45). -/
def fmaOf : Nat → Option FmaVar
  | 0 => some .plain | 1 => some .sub | 2 => some .neg | 3 => some .negsub | _ => none

/-- The code of a multiply-add variant (R45, R131). -/
def FmaVar.code : FmaVar → Nat
  | .plain => 0 | .sub => 1 | .neg => 2 | .negsub => 3

/-- The conditions of `s.fcmp` by code (R45). -/
def sfcondOf : Nat → Option SFCond
  | 0 => some .eq | 1 => some .lt | 2 => some .le | 3 => some .unord | 4 => some .ne | 5 => some .ge
  | 6 => some .gt | 7 => some .ord | _ => none

/-- The code of a condition of `s.fcmp` (R45). -/
def SFCond.code : SFCond → Nat
  | .eq => 0 | .lt => 1 | .le => 2 | .unord => 3 | .ne => 4 | .ge => 5 | .gt => 6 | .ord => 7

/-- The conversions of `s.fcvt` by code (R45). -/
def scvtOf : Nat → Option SCvt
  | 0 => some .f64i64 | 1 => some .f64n64 | 2 => some .i64f64 | 3 => some .n64f64 | 4 => some .f32f64
  | 5 => some .f64f32 | 6 => some .bf16f64 | 7 => some .f64bf16 | _ => none

/-- The code of a scalar conversion (R45). -/
def SCvt.code : SCvt → Nat
  | .f64i64 => 0 | .f64n64 => 1 | .i64f64 => 2 | .n64f64 => 3 | .f32f64 => 4 | .f64f32 => 5 | .bf16f64 => 6
  | .f64bf16 => 7

/-- The scalar atomics by code (R274). -/
def atomOf : Nat → Option AtomOp
  | 0 => some .add | 1 => some .and | 2 => some .or | 3 => some .xor | 4 => some .min | 5 => some .max
  | 6 => some .minN | 7 => some .maxN | 8 => some .swap | 9 => some .faddF64 | 10 => some .add32
  | 11 => some .swap32 | _ => none

/-- The code of a scalar atomic (R274). -/
def AtomOp.code : AtomOp → Nat
  | .add => 0 | .and => 1 | .or => 2 | .xor => 3 | .min => 4 | .max => 5 | .minN => 6 | .maxN => 7 | .swap => 8
  | .faddF64 => 9 | .add32 => 10 | .swap32 => 11

/-- Integer group A, major 1 (R45). -/
def groupA (n : Nat) (f : SA) : Option Instr :=
  match n with
  | 0 => some (.sAdd f) | 1 => some (.sSub f) | 2 => some (.sAnd f) | 3 => some (.sOr f) | 4 => some (.sXor f)
  | 5 => some (.sAndn f) | 6 => some (.sShl f) | 7 => some (.sShr f) | 8 => some (.sSra f)
  | 9 => some (.sRot f) | 10 => some (.sMin f) | 11 => some (.sMinN f) | 12 => some (.sMax f)
  | 13 => some (.sMaxN f) | 14 => some (.sMul f) | 15 => some (.sMulh f)
  | _ => none

/-- Integer group B, major 2 (R45). -/
def groupB (n : Nat) (f : SA) : Option Instr :=
  match n with
  | 0 => some (.sMulhN f) | 1 => some (.sDiv f) | 2 => some (.sDivN f) | 3 => some (.sRem f)
  | 4 => some (.sRemN f) | 5 => some (.sClz f) | 6 => some (.sCtz f) | 7 => some (.sPopc f)
  | 8 => some (.sBrev f) | 9 => some (.sBfx f) | 10 => some (.sBfi f) | 11 => some (.sIleave f)
  | 12 => some (.sIleave3 f) | 13 => some (.sDeleave f) | 14 => some (.sDeleave3 f)
  | _ => none

/-- `s.fop`, major 6 (R45). -/
def groupFop (n : Nat) (f : SA) : Option Instr :=
  match n with
  | 0 => some (.sFopAdd f) | 1 => some (.sFopSub f) | 2 => some (.sFopMul f) | 3 => some (.sFopDiv f)
  | 4 => some (.sFopSqrt f) | 5 => some (.sFopMin f) | 6 => some (.sFopMax f) | 7 => some (.sFopAbs f)
  | 8 => some (.sFopNeg f)
  | _ => none

/-- The movement group, major 25 (R258). -/
def groupMove (op v : Nat) (f : SC) : Option Instr :=
  match op, v with
  | 0, 0 => some (.sCopy f) | 1, 0 => some (.sStream f) | 2, 0 => some (.sPrefL1 f) | 2, 1 => some (.sPrefL2 f)
  | 3, 0 => some (.sCacheL1inv f) | 3, 1 => some (.sCacheRdcinv f) | 3, 2 => some (.sCacheL2wb f)
  | 3, 3 => some (.sCacheIcinv f) | 4, 0 => some (.sAwset f) | 5, 0 => some (.sAwwait f)
  | _, _ => none

/-- The synchronisation group, major 26 (R46, R270, R283, R285). -/
def groupSync (n op v : Nat) (f : SC) : Option Instr :=
  match op, v with
  | 0, _ => some (.sFenceAcq (BitVec.ofNat 3 v) f) | 1, _ => some (.sFenceRel (BitVec.ofNat 3 v) f)
  | 2, _ => some (.sFenceAcqrel (BitVec.ofNat 3 v) f)
  | 3, 0 => some (.sBarSync (sbarOf n)) | 3, 1 => some (.sBarArrive (sbarOf n)) | 3, 2 => some (.sBarInit (sbarOf n))
  | 4, _ => some (.sSeal (BitVec.ofNat 3 v) f) | 5, _ => some (.sUnseal (BitVec.ofNat 3 v) f)
  | _, _ => none

/-- The matrix group, major 32 (R172). -/
def groupMatrix (op v : Nat) (f : SC) : Option Instr :=
  match op, v with
  | 0, 0 => some (.sMma false f) | 0, 1 => some (.sMma true f)
  | 1, 0 => some (.sMloop false f) | 1, 1 => some (.sMloop true f)
  | 2, 0 => some (.sAwin false f) | 2, 1 => some (.sAwin true f)
  | 3, 0 => some (.sAclr f)
  | _, _ => none

/-- The control group, major 34 (R46, R315 to R318, R323). -/
def groupControl (n op v : Nat) (f : SC) : Option Instr :=
  match op, v with
  | 0, 0 => some (.sRet f) | 1, 0 => some (.sJr f) | 2, _ => some (.sLrunUniforms (BitVec.ofNat 3 v) f)
  | 3, 0 => some (.sLrun f) | 4, 0 => some (.sLwait f) | 5, 0 => some (.sExit f)
  | 6, 0 => some (.sRegroup false f) | 6, 1 => some (.sRegroup true f)
  | 7, 0 => some (.sMfs (sspecOf n)) | 8, 0 => some (.sMts (sspecOf n)) | 9, 0 => some (.sNop f)
  | _, _ => none

/-- The scheduling group, major 35 (R361). -/
def groupSched (op v : Nat) (f : SC) : Option Instr :=
  match op, v with
  | 0, 0 => some (.sWdq f) | 1, 0 => some (.sQpush f) | 1, 1 => some (.sQpushNw f) | 1, 2 => some (.sQpushOpen f)
  | 1, 3 => some (.sQpushClose f) | 2, _ => some (.sQpop (BitVec.ofNat 3 v) f)
  | 3, _ => some (.sQpoll (BitVec.ofNat 3 v) f) | 4, 0 => some (.sLease f) | 5, 0 => some (.sYield f)
  | 6, 0 => some (.sLaunch f)
  | _, _ => none

/-- The system group, major 36 (R380, R390, R395). -/
def groupSystem (n op v : Nat) (f : SC) : Option Instr :=
  match op, v with
  | 0, 0 => some (.sTrap f) | 1, 0 => some (.sEret f)
  | 2, 0 => some (.sTlbiVa false f) | 2, 4 => some (.sTlbiVa true f)
  | 2, 1 => some (.sTlbiAsid false f) | 2, 5 => some (.sTlbiAsid true f)
  | 2, 2 => some (.sTlbiAll false f) | 2, 6 => some (.sTlbiAll true f)
  | 3, 0 => some (.sMfp (sspecOf n)) | 4, 0 => some (.sMtp (sspecOf n))
  | _, _ => none

/-- The recovery group, major 37 (R438, R443). -/
def groupRecovery (op v : Nat) (f : SC) : Option Instr :=
  match op, v with
  | 0, 0 => some (.sRegion false f) | 0, 1 => some (.sRegion true f) | 1, 0 => some (.sCommit f)
  | 2, 0 => some (.sCkpt f) | 3, _ => some (.sCschk (condOf v) f)
  | 4, 0 => some (.sPoisqRegs f) | 4, 1 => some (.sPoisqLine f) | 4, 2 => some (.sPoisqSp f)
  | 4, 3 => some (.sPoisqClr f) | 4, 4 => some (.sPoisqPol f)
  | _, _ => none

/-- The SC groups whose operation sits in sub7 [6:3] (R46). -/
def groupSC (n major : Nat) : Option Instr :=
  let op := bits n 3 4
  let v := bits n 0 3
  let f := scOf n
  let scope := BitVec.ofNat 3 v
  match major with
  | 25 => groupMove op v f
  | 26 => groupSync n op v f
  | 27 => (atomOf op).map fun o => .sAtom o scope f
  | 28 => (atomOf op).map fun o => .sAtomAcq o scope f
  | 29 => (atomOf op).map fun o => .sAtomRel o scope f
  | 30 => (atomOf op).map fun o => .sAtomAcqrel o scope f
  | 32 => groupMatrix op v f
  | 33 => if op = 0 ∧ v = 0 then some (.sBeam f) else none
  | 34 => groupControl n op v f
  | 35 => groupSched op v f
  | 36 => groupSystem n op v f
  | 37 => groupRecovery op v f
  | 38 => if op = 0 ∧ v = 0 then some (.sColl f) else if op = 1 ∧ v = 0 then some (.sCwait f) else none
  | _ => none

/-- The SA majors (R44, R45). -/
def groupSA (n major : Nat) : Option Instr :=
  let fn := bits n 3 4
  let f := saOf n
  match major with
  | 1 => groupA fn f
  | 2 => groupB fn f
  | 3 => some (.sSel (bit fn 3) (BitVec.ofNat 3 fn) f)
  | 4 => if fn < 8 then some (.sCmp (condOf fn) f) else none
  | 5 => (kopOf fn).map fun o => .sKop o f
  | 6 => groupFop fn f
  | 7 => (fmaOf fn).map fun v => .sFfma v f
  | 8 => (sfcondOf fn).map fun c => .sFcmp c f
  | 9 => (scvtOf fn).map fun c => .sFcvt c f
  | _ => none

/-- The shift and rotate immediates, major 14, by kind (R100). -/
def groupShift (n : Nat) : Instr :=
  match bits n 11 2 with
  | 0 => .sShlImm (sshOf n) | 1 => .sShrImm (sshOf n) | 2 => .sSraImm (sshOf n) | _ => .sRotImm (sshOf n)

/-- The instruction that the opcode map R44 assigns to a scalar word, before the checks of its other fields. -/
def scalarCandidate (n : Nat) : Option Instr :=
  match bits n 25 6 with
  | 10 => some (.sAddImm (siOf n)) | 11 => some (.sAndImm (siOf n)) | 12 => some (.sOrImm (siOf n))
  | 13 => some (.sXorImm (siOf n)) | 14 => some (groupShift n) | 15 => some (.sMulImm (siOf n))
  | 16 => some (.sCmpImm (condOf (bits n 22 3)) (BitVec.ofNat 3 (n / 2 ^ 19)) (bit n 31) (BitVec.ofNat 6 (n / 2 ^ 13))
      (BitVec.ofNat 13 n))
  | 17 => some (.sLui (slOf n)) | 18 => some (.sAddpc (slOf n))
  | 19 => some (if bits n 22 3 = 0 ∧ !bit n 21 then .sJmp (bit n 31) (BitVec.ofNat 21 n) else .sBr (sbOf n))
  | 20 => some (.sCall (slOf n)) | 21 => some (.sLd (smOf n)) | 22 => some (.sSt (smOf n))
  | 23 => some (.sLdsp (smOf n)) | 24 => some (.sStsp (smOf n))
  | 31 => some (.sCas (BitVec.ofNat 2 (n / 2 ^ 5)) (BitVec.ofNat 2 (n / 2 ^ 3)) (BitVec.ofNat 3 n) (scOf n))
  | major => if major < 10 then groupSA n major else groupSC n major

/-- The instruction that the opcode map R49 assigns to a lane word, before the checks of its other fields. -/
def laneCandidate (n : Nat) : Option Instr :=
  let f := laneOf n
  match bits n 87 8 with
  | 0x01 => some (.vAdd f)
  | 0x02 => some (.vSub f)
  | 0x03 => some (.vMul f)
  | 0x04 => some (.vMulh f)
  | 0x05 => some (.vAnd f)
  | 0x06 => some (.vOr f)
  | 0x07 => some (.vXor f)
  | 0x08 => some (.vAndn f)
  | 0x09 => some (.vShl f)
  | 0x0A => some (.vShr f)
  | 0x0B => some (.vSra f)
  | 0x0C => some (.vMin f)
  | 0x0D => some (.vMax f)
  | 0x0E => some (.vClz f)
  | 0x0F => some (.vPopc f)
  | 0x10 => some (.vBrev f)
  | 0x11 => some (.vBfx f)
  | 0x12 => some (.vBfi f)
  | 0x13 => some (.vIleave f)
  | 0x14 => some (.vDeleave f)
  | 0x15 => some (.vIcmp f)
  | 0x16 => some (.vSel f)
  | 0x17 => some (.vPop f)
  | 0x18 => some (if f.x then .vMoviHi f else .vMovi f)
  | 0x19 => some (.vMov f)
  | 0x1A => some (.vImad f)
  | 0x40 => some (.vFadd f)
  | 0x41 => some (.vFsub f)
  | 0x42 => some (.vFmul f)
  | 0x43 => some (.vFfma f)
  | 0x44 => some (.vFmin f)
  | 0x45 => some (.vFmax f)
  | 0x46 => some (.vFsgn f)
  | 0x47 => some (.vFcmp f)
  | 0x48 => some (.vFclass f)
  | 0x49 => some (.vFdiv f)
  | 0x4A => some (.vFsqrt f)
  | 0x4B => some (.vFrcp f)
  | 0x4C => some (.vFrsq f)
  | 0x4D => some (.vFex2 f)
  | 0x4E => some (.vFlg2 f)
  | 0x4F => some (.vFsin f)
  | 0x50 => some (.vFcos f)
  | 0x51 => some (.vFcvt f)
  | 0x52 => some (.vIcvt f)
  | 0x53 => some (.vFround f)
  | 0x54 => some (.vFscale f)
  | 0x55 => some (.vQdec f)
  | 0x56 => some (.vMxdec f)
  | 0x57 => some (if bits n 10 2 = 1 then .vPackScale f else .vPack f)
  | 0x80 => some (.vLdacc f)
  | 0x81 => some (.vStacc f)
  | 0x88 => some (.vTrace f)
  | 0x89 => some (.vTex f)
  | 0x90 => some (.vLd f)
  | 0x91 => some (.vSt f)
  | 0x92 => some (.vLdsp f)
  | 0x93 => some (.vStsp f)
  | 0x98 => some (.vAtom f)
  | 0x99 => some (.vCas f)
  | 0x9A => some (.vAtomsp f)
  | 0xA0 => some (.vBr f)
  | 0xA1 => some (.vJmp f)
  | 0xA2 => some (.vJoin f)
  | 0xA3 => some (.vLend f)
  | 0xA4 => some (.vExit f)
  | 0xA5 => some (.vVote f)
  | 0xA6 => some (.vShuf f)
  | 0xA7 => some (.vMfs f)
  | 0xB0 => some (.vTrap f)
  | 0xB8 => some (.vCsacc f)
  | 0xB9 => some (.vChk f)
  | _ => none

/-- The result of decoding: an instruction, or why the bits are no word of the stream. -/
inductive Decoded where
  | word (i : Instr)
  | reject (r : Reject)
deriving DecidableEq, Repr

/-- Applies the checks of R43's first rank to what the opcode map gives. -/
def Decoded.ofCandidate (unassigned : Reject) : Option Instr → Decoded
  | none => .reject unassigned
  | some i =>
    match i.check with
    | none => .word i
    | some r => .reject r

/-- Whether the opcode map R44 assigns a scalar major at all. -/
def scalarMajorAssigned (major : Nat) : Bool := 1 ≤ major && major ≤ 38

/-- Decodes a scalar word. -/
def decodeScalar (n : Nat) : Decoded :=
  .ofCandidate (if scalarMajorAssigned (bits n 25 6) then .operation else .major) (scalarCandidate n)

/-- Decodes a lane word. -/
def decodeLane (n : Nat) : Decoded := .ofCandidate .major (laneCandidate n)

/-- The number that bytes form, the first least significant (R6). -/
def leNat : List Byte → Nat
  | [] => 0
  | b :: r => b.toNat + 256 * leNat r

/-- The low `k` bytes of a number, the least significant first (R6). -/
def leBytes : Nat → Nat → List Byte
  | 0, _ => []
  | k + 1, n => BitVec.ofNat 8 n :: leBytes k (n / 256)

/-- Decodes the bytes of a word of the scalar stream (four) or of the lane stream (twelve, parcel 0 first, R34). -/
def decodeBytes (bs : List Byte) : Decoded :=
  if bs.length = 4 then decodeScalar (leNat bs)
  else if bs.length = 12 then decodeLane (leNat bs)
  else .reject .noWord

/-- The instruction of a row of the opcode table: a scalar word of up to 32 bits or a lane word, the bits above `nbits` zero, laid out in
memory and decoded. -/
def decodeTableWord (nbits w : Nat) : Option Instr :=
  match decodeBytes (leBytes (if nbits ≤ 32 then 4 else 12) (w % 2 ^ nbits)) with
  | .word i => some i
  | .reject _ => none

/-! ### The encoder -/

/-- A scalar word from its marker, major and low 25 bits (R30). -/
def scalarWordOf (w : Bool) (major low : Nat) : Nat := b2n w * 2 ^ 31 + major * 2 ^ 25 + low

/-- Format SA (R30). -/
def encSA (major fn : Nat) (f : SA) : Nat :=
  scalarWordOf f.w major (f.d.toNat * 2 ^ 19 + f.a.toNat * 2 ^ 13 + f.b.toNat * 2 ^ 7 + fn * 2 ^ 3 + f.g.toNat)

/-- Format SI (R30). -/
def encSI (major : Nat) (f : SI) : Nat :=
  scalarWordOf f.w major (f.d.toNat * 2 ^ 19 + f.a.toNat * 2 ^ 13 + f.i.toNat)

/-- Major 14 (R100). -/
def encSSh (kind : Nat) (f : SSh) : Nat :=
  scalarWordOf f.w 14 (f.d.toNat * 2 ^ 19 + f.a.toNat * 2 ^ 13 + kind * 2 ^ 11 + f.res0.toNat * 2 ^ 6 + f.amount.toNat)

/-- Format SL (R30). -/
def encSL (major : Nat) (f : SL) : Nat := scalarWordOf f.w major (f.d.toNat * 2 ^ 19 + f.i.toNat)

/-- Format SB (R30). -/
def encSB (w : Bool) (kg : Nat) (kn : Bool) (disp : Nat) : Nat :=
  scalarWordOf w 19 (kg * 2 ^ 22 + b2n kn * 2 ^ 21 + disp)

/-- Format SM (R30). -/
def encSM (major : Nat) (f : SM) : Nat :=
  scalarWordOf f.w major (f.d.toNat * 2 ^ 19 + f.base.toNat * 2 ^ 13 + f.size.toNat * 2 ^ 10 + f.order.toNat * 2 ^ 8
    + f.off.toNat)

/-- Format SC with operation and variant (R30, R46). -/
def encSC (major op v : Nat) (f : SC) : Nat :=
  scalarWordOf f.w major (f.d.toNat * 2 ^ 19 + f.a.toNat * 2 ^ 13 + f.b.toNat * 2 ^ 7 + op * 2 ^ 3 + v)

/-- The barrier words (R283). -/
def encSBar (v : Nat) (f : SBar) : Nat :=
  scalarWordOf f.w 26 (f.d.toNat * 2 ^ 19 + f.res0.toNat * 2 ^ 15 + f.bar.toNat * 2 ^ 7 + 3 * 2 ^ 3 + v)

/-- The special-register moves (R48). -/
def encSSpec (major op : Nat) (f : SSpec) : Nat :=
  scalarWordOf f.w major (f.d.toNat * 2 ^ 19 + f.num.toNat * 2 ^ 7 + op * 2 ^ 3)

/-- A lane word (R34). -/
def encLane (major : Nat) (f : Lane) : Nat :=
  b2n f.w * 2 ^ 95 + major * 2 ^ 87 + f.pg.toNat * 2 ^ 84 + b2n f.pgn * 2 ^ 83 + f.ty.toNat * 2 ^ 80
    + f.vd.toNat * 2 ^ 72 + f.va.toNat * 2 ^ 64 + f.vb.toNat * 2 ^ 56 + f.vc.toNat * 2 ^ 48 + f.pd.toNat * 2 ^ 45
    + f.rm.toNat * 2 ^ 42 + f.hs.toNat * 2 ^ 40 + f.hl.toNat * 2 ^ 38 + f.lr.toNat * 2 ^ 35 + b2n f.sat * 2 ^ 34
    + b2n f.x * 2 ^ 33 + f.imm.toNat

/-- The word of an instruction: its length in bits and its bits; none for an event. -/
def encode : Instr → Option (Nat × Nat)
  | .sAdd f => some (32, encSA 1 0 f)
  | .sSub f => some (32, encSA 1 1 f)
  | .sAnd f => some (32, encSA 1 2 f)
  | .sOr f => some (32, encSA 1 3 f)
  | .sXor f => some (32, encSA 1 4 f)
  | .sAndn f => some (32, encSA 1 5 f)
  | .sShl f => some (32, encSA 1 6 f)
  | .sShr f => some (32, encSA 1 7 f)
  | .sSra f => some (32, encSA 1 8 f)
  | .sRot f => some (32, encSA 1 9 f)
  | .sMin f => some (32, encSA 1 10 f)
  | .sMinN f => some (32, encSA 1 11 f)
  | .sMax f => some (32, encSA 1 12 f)
  | .sMaxN f => some (32, encSA 1 13 f)
  | .sMul f => some (32, encSA 1 14 f)
  | .sMulh f => some (32, encSA 1 15 f)
  | .sMulhN f => some (32, encSA 2 0 f)
  | .sDiv f => some (32, encSA 2 1 f)
  | .sDivN f => some (32, encSA 2 2 f)
  | .sRem f => some (32, encSA 2 3 f)
  | .sRemN f => some (32, encSA 2 4 f)
  | .sClz f => some (32, encSA 2 5 f)
  | .sCtz f => some (32, encSA 2 6 f)
  | .sPopc f => some (32, encSA 2 7 f)
  | .sBrev f => some (32, encSA 2 8 f)
  | .sBfx f => some (32, encSA 2 9 f)
  | .sBfi f => some (32, encSA 2 10 f)
  | .sIleave f => some (32, encSA 2 11 f)
  | .sIleave3 f => some (32, encSA 2 12 f)
  | .sDeleave f => some (32, encSA 2 13 f)
  | .sDeleave3 f => some (32, encSA 2 14 f)
  | .sSel neg p f => some (32, encSA 3 (b2n neg * 8 + p.toNat) f)
  | .sCmp c f => some (32, encSA 4 c.code f)
  | .sKop o f => some (32, encSA 5 o.code f)
  | .sFopAdd f => some (32, encSA 6 0 f)
  | .sFopSub f => some (32, encSA 6 1 f)
  | .sFopMul f => some (32, encSA 6 2 f)
  | .sFopDiv f => some (32, encSA 6 3 f)
  | .sFopSqrt f => some (32, encSA 6 4 f)
  | .sFopMin f => some (32, encSA 6 5 f)
  | .sFopMax f => some (32, encSA 6 6 f)
  | .sFopAbs f => some (32, encSA 6 7 f)
  | .sFopNeg f => some (32, encSA 6 8 f)
  | .sFfma v f => some (32, encSA 7 v.code f)
  | .sFcmp c f => some (32, encSA 8 c.code f)
  | .sFcvt c f => some (32, encSA 9 c.code f)
  | .sAddImm f => some (32, encSI 10 f)
  | .sAndImm f => some (32, encSI 11 f)
  | .sOrImm f => some (32, encSI 12 f)
  | .sXorImm f => some (32, encSI 13 f)
  | .sShlImm f => some (32, encSSh 0 f)
  | .sShrImm f => some (32, encSSh 1 f)
  | .sSraImm f => some (32, encSSh 2 f)
  | .sRotImm f => some (32, encSSh 3 f)
  | .sMulImm f => some (32, encSI 15 f)
  | .sCmpImm c k w a i => some (32, encSI 16 ⟨w, BitVec.ofNat 6 (c.code * 8 + k.toNat), a, i⟩)
  | .sLui f => some (32, encSL 17 f)
  | .sAddpc f => some (32, encSL 18 f)
  | .sBr f => some (32, encSB f.w f.kg.toNat f.kn f.disp.toNat)
  | .sJmp w disp => some (32, encSB w 0 false disp.toNat)
  | .sCall f => some (32, encSL 20 f)
  | .sLd f => some (32, encSM 21 f)
  | .sSt f => some (32, encSM 22 f)
  | .sLdsp f => some (32, encSM 23 f)
  | .sStsp f => some (32, encSM 24 f)
  | .sCopy f => some (32, encSC 25 0 0 f)
  | .sStream f => some (32, encSC 25 1 0 f)
  | .sPrefL1 f => some (32, encSC 25 2 0 f)
  | .sPrefL2 f => some (32, encSC 25 2 1 f)
  | .sCacheL1inv f => some (32, encSC 25 3 0 f)
  | .sCacheRdcinv f => some (32, encSC 25 3 1 f)
  | .sCacheL2wb f => some (32, encSC 25 3 2 f)
  | .sCacheIcinv f => some (32, encSC 25 3 3 f)
  | .sAwset f => some (32, encSC 25 4 0 f)
  | .sAwwait f => some (32, encSC 25 5 0 f)
  | .sFenceAcq scope f => some (32, encSC 26 0 scope.toNat f)
  | .sFenceRel scope f => some (32, encSC 26 1 scope.toNat f)
  | .sFenceAcqrel scope f => some (32, encSC 26 2 scope.toNat f)
  | .sBarSync f => some (32, encSBar 0 f)
  | .sBarArrive f => some (32, encSBar 1 f)
  | .sBarInit f => some (32, encSBar 2 f)
  | .sSeal scope f => some (32, encSC 26 4 scope.toNat f)
  | .sUnseal scope f => some (32, encSC 26 5 scope.toNat f)
  | .sAtom o scope f => some (32, encSC 27 o.code scope.toNat f)
  | .sAtomAcq o scope f => some (32, encSC 28 o.code scope.toNat f)
  | .sAtomRel o scope f => some (32, encSC 29 o.code scope.toNat f)
  | .sAtomAcqrel o scope f => some (32, encSC 30 o.code scope.toNat f)
  | .sCas order size scope f => some (32, scalarWordOf f.w 31 (f.d.toNat * 2 ^ 19 + f.a.toNat * 2 ^ 13 + f.b.toNat * 2 ^ 7 + order.toNat * 2 ^ 5 + size.toNat * 2 ^ 3 + scope.toNat))
  | .sMma z f => some (32, encSC 32 0 (b2n z) f)
  | .sMloop z f => some (32, encSC 32 1 (b2n z) f)
  | .sAwin q f => some (32, encSC 32 2 (b2n q) f)
  | .sAclr f => some (32, encSC 32 3 0 f)
  | .sBeam f => some (32, encSC 33 0 0 f)
  | .sRet f => some (32, encSC 34 0 0 f)
  | .sJr f => some (32, encSC 34 1 0 f)
  | .sLrunUniforms n f => some (32, encSC 34 2 n.toNat f)
  | .sLrun f => some (32, encSC 34 3 0 f)
  | .sLwait f => some (32, encSC 34 4 0 f)
  | .sExit f => some (32, encSC 34 5 0 f)
  | .sRegroup nw f => some (32, encSC 34 6 (b2n nw) f)
  | .sMfs f => some (32, encSSpec 34 7 f)
  | .sMts f => some (32, encSSpec 34 8 f)
  | .sNop f => some (32, encSC 34 9 0 f)
  | .sWdq f => some (32, encSC 35 0 0 f)
  | .sQpush f => some (32, encSC 35 1 0 f)
  | .sQpushNw f => some (32, encSC 35 1 1 f)
  | .sQpushOpen f => some (32, encSC 35 1 2 f)
  | .sQpushClose f => some (32, encSC 35 1 3 f)
  | .sQpop kd f => some (32, encSC 35 2 kd.toNat f)
  | .sQpoll kd f => some (32, encSC 35 3 kd.toNat f)
  | .sLease f => some (32, encSC 35 4 0 f)
  | .sYield f => some (32, encSC 35 5 0 f)
  | .sLaunch f => some (32, encSC 35 6 0 f)
  | .sTrap f => some (32, encSC 36 0 0 f)
  | .sEret f => some (32, encSC 36 1 0 f)
  | .sTlbiVa dom f => some (32, encSC 36 2 (b2n dom * 4) f)
  | .sTlbiAsid dom f => some (32, encSC 36 2 (b2n dom * 4 + 1) f)
  | .sTlbiAll dom f => some (32, encSC 36 2 (b2n dom * 4 + 2) f)
  | .sMfp f => some (32, encSSpec 36 3 f)
  | .sMtp f => some (32, encSSpec 36 4 f)
  | .sRegion movable f => some (32, encSC 37 0 (b2n movable) f)
  | .sCommit f => some (32, encSC 37 1 0 f)
  | .sCkpt f => some (32, encSC 37 2 0 f)
  | .sCschk c f => some (32, encSC 37 3 c.code f)
  | .sPoisqRegs f => some (32, encSC 37 4 0 f)
  | .sPoisqLine f => some (32, encSC 37 4 1 f)
  | .sPoisqSp f => some (32, encSC 37 4 2 f)
  | .sPoisqClr f => some (32, encSC 37 4 3 f)
  | .sPoisqPol f => some (32, encSC 37 4 4 f)
  | .sColl f => some (32, encSC 38 0 0 f)
  | .sCwait f => some (32, encSC 38 1 0 f)
  | .vAdd f => some (96, encLane 0x01 f)
  | .vSub f => some (96, encLane 0x02 f)
  | .vMul f => some (96, encLane 0x03 f)
  | .vMulh f => some (96, encLane 0x04 f)
  | .vAnd f => some (96, encLane 0x05 f)
  | .vOr f => some (96, encLane 0x06 f)
  | .vXor f => some (96, encLane 0x07 f)
  | .vAndn f => some (96, encLane 0x08 f)
  | .vShl f => some (96, encLane 0x09 f)
  | .vShr f => some (96, encLane 0x0A f)
  | .vSra f => some (96, encLane 0x0B f)
  | .vMin f => some (96, encLane 0x0C f)
  | .vMax f => some (96, encLane 0x0D f)
  | .vClz f => some (96, encLane 0x0E f)
  | .vPopc f => some (96, encLane 0x0F f)
  | .vBrev f => some (96, encLane 0x10 f)
  | .vBfx f => some (96, encLane 0x11 f)
  | .vBfi f => some (96, encLane 0x12 f)
  | .vIleave f => some (96, encLane 0x13 f)
  | .vDeleave f => some (96, encLane 0x14 f)
  | .vIcmp f => some (96, encLane 0x15 f)
  | .vSel f => some (96, encLane 0x16 f)
  | .vPop f => some (96, encLane 0x17 f)
  | .vMovi f => some (96, encLane 0x18 f)
  | .vMoviHi f => some (96, encLane 0x18 f)
  | .vMov f => some (96, encLane 0x19 f)
  | .vImad f => some (96, encLane 0x1A f)
  | .vFadd f => some (96, encLane 0x40 f)
  | .vFsub f => some (96, encLane 0x41 f)
  | .vFmul f => some (96, encLane 0x42 f)
  | .vFfma f => some (96, encLane 0x43 f)
  | .vFmin f => some (96, encLane 0x44 f)
  | .vFmax f => some (96, encLane 0x45 f)
  | .vFsgn f => some (96, encLane 0x46 f)
  | .vFcmp f => some (96, encLane 0x47 f)
  | .vFclass f => some (96, encLane 0x48 f)
  | .vFdiv f => some (96, encLane 0x49 f)
  | .vFsqrt f => some (96, encLane 0x4A f)
  | .vFrcp f => some (96, encLane 0x4B f)
  | .vFrsq f => some (96, encLane 0x4C f)
  | .vFex2 f => some (96, encLane 0x4D f)
  | .vFlg2 f => some (96, encLane 0x4E f)
  | .vFsin f => some (96, encLane 0x4F f)
  | .vFcos f => some (96, encLane 0x50 f)
  | .vFcvt f => some (96, encLane 0x51 f)
  | .vIcvt f => some (96, encLane 0x52 f)
  | .vFround f => some (96, encLane 0x53 f)
  | .vFscale f => some (96, encLane 0x54 f)
  | .vQdec f => some (96, encLane 0x55 f)
  | .vMxdec f => some (96, encLane 0x56 f)
  | .vPack f => some (96, encLane 0x57 f)
  | .vPackScale f => some (96, encLane 0x57 f)
  | .vLdacc f => some (96, encLane 0x80 f)
  | .vStacc f => some (96, encLane 0x81 f)
  | .vTrace f => some (96, encLane 0x88 f)
  | .vTex f => some (96, encLane 0x89 f)
  | .vLd f => some (96, encLane 0x90 f)
  | .vSt f => some (96, encLane 0x91 f)
  | .vLdsp f => some (96, encLane 0x92 f)
  | .vStsp f => some (96, encLane 0x93 f)
  | .vAtom f => some (96, encLane 0x98 f)
  | .vCas f => some (96, encLane 0x99 f)
  | .vAtomsp f => some (96, encLane 0x9A f)
  | .vBr f => some (96, encLane 0xA0 f)
  | .vJmp f => some (96, encLane 0xA1 f)
  | .vJoin f => some (96, encLane 0xA2 f)
  | .vLend f => some (96, encLane 0xA3 f)
  | .vExit f => some (96, encLane 0xA4 f)
  | .vVote f => some (96, encLane 0xA5 f)
  | .vShuf f => some (96, encLane 0xA6 f)
  | .vMfs f => some (96, encLane 0xA7 f)
  | .vTrap f => some (96, encLane 0xB0 f)
  | .vCsacc f => some (96, encLane 0xB8 f)
  | .vChk f => some (96, encLane 0xB9 f)
  | .longResultReturn _ _ _ _ | .switchMarkerRelease _ _ | .regroupOfferTimeout _ _ | .scalarDividerComplete _ | .teamAdmission _
  | .overBudgetAdmission _ | .teamBlocked _ _ | .teamUnblocked _ _ | .qpollBackoffEnd _ _ | .leaseDecay _ _
  | .queueTailSeen _ | .queueReevaluation _ | .launchPlacement _ | .partitionSetupComplete _ | .replicaDescriptorReceived _
  | .replicaReady _ _ | .replicaStart _ | .replicaAbort _ | .wdqServe _ _ | .awwaitTimeout _ _
  | .copyStart _ | .copyComplete _ _ | .streamTileFill _ _ | .streamTileDrain _ _ | .engineLineRelease _ _
  | .storePerformedAtHome _ _ _ | .matrixStep _ _ | .mloopWaitTimeout _ | .beamQueryStart _ | .splitRecordAnswer _
  | .hitRecordRetry _ | .barrierSyncTimeout _ _ | .queueWaitTimeout _ _ | .recordQueueOperation _ _ | .terminationRound _
  | .terminationTokenPass _ | .preq _ _ _ | .pcancel _ _ _ | .pkill _ _ _ | .groupResume _ _
  | .hotnessDecay _ | .migrationExamine _ _ _ | .errorDetection _ | .regionRecordValid _ _ | .speedwellDiscard _ _
  | .regionMove _ _ _ | .regionMoveTimeout _ _ | .regionBufferOverflow _ _ | .dualArbitration _ _ _ _ | .laneRetirement _
  | .laneRemapPauseEnd _ | .wear _ _ _ _ | .mailboxWrite _ | .mailboxRead _ | .semRead _ _
  | .semWrite _ _ _ | .ctxbaseWrite _ | .qtbaseWrite _ | .freepush _ _ | .freepop _ _
  | .freecountWrite _ _ | .statusWrite _ | .resetreq _ | .pwrcapWrite _ | .fabctlWrite _
  | .sidebandReset _ | .bringupStageComplete _ | .portLost _ | .getVersion _ | .getCapabilities _
  | .negotiateAlgorithms _ | .getDigests _ | .getCertificate _ _ _ _ | .challenge _ _ _ | .getMeasurements _ _ _ _
  | .spdmUnsupportedRequest _ _ | .powerSample _ | .pwralertRaise | .temperatureSample _ _ | .thermalTrip _
  | .flitReceive _ _ _ _ | .linkRetrain _ _ | .stationDown _ | .ualinkRequestArrival _ | .heartbeatSend
  | .heartbeatReceive _ | .packageLostDeclaration _ | .exclude _ _ | .collectiveAttempt _ _ | .cwaitTimeout _ _
  | .powerGood | .podMembershipExchange _ => none

/-- The bytes of an instruction's word, lowest address first (R6, R34). -/
def encodeBytes (i : Instr) : Option (List Byte) := (encode i).map fun (k, n) => leBytes (k / 8) n

/-! ### Words written out from the encodings of the manual, one for every constructor that has one -/

/-- R44, R45, R94 to R98: words written out from their encodings, and the instructions that they stand for. -/
theorem decodes_scalar_integer_words :
    decodeTableWord 32 0x0248B081 = some (.sAdd ⟨false, 9, 5, 33, 1⟩) ∧
    decodeTableWord 32 0x8250D00A = some (.sSub ⟨true, 10, 6, 32, 2⟩) ∧
    decodeTableWord 32 0x0258EF93 = some (.sAnd ⟨false, 11, 7, 31, 3⟩) ∧
    decodeTableWord 32 0x82610F1C = some (.sOr ⟨true, 12, 8, 30, 4⟩) ∧
    decodeTableWord 32 0x02692EA5 = some (.sXor ⟨false, 13, 9, 29, 5⟩) ∧
    decodeTableWord 32 0x82714E2E = some (.sAndn ⟨true, 14, 10, 28, 6⟩) ∧
    decodeTableWord 32 0x02796DB7 = some (.sShl ⟨false, 15, 11, 27, 7⟩) ∧
    decodeTableWord 32 0x82818D39 = some (.sShr ⟨true, 16, 12, 26, 1⟩) ∧
    decodeTableWord 32 0x0289ACC2 = some (.sSra ⟨false, 17, 13, 25, 2⟩) ∧
    decodeTableWord 32 0x8291CC4B = some (.sRot ⟨true, 18, 14, 24, 3⟩) ∧
    decodeTableWord 32 0x0299EBD4 = some (.sMin ⟨false, 19, 15, 23, 4⟩) ∧
    decodeTableWord 32 0x82A20B5D = some (.sMinN ⟨true, 20, 16, 22, 5⟩) ∧
    decodeTableWord 32 0x02AA2AE6 = some (.sMax ⟨false, 21, 17, 21, 6⟩) ∧
    decodeTableWord 32 0x82B24A6F = some (.sMaxN ⟨true, 22, 18, 20, 7⟩) ∧
    decodeTableWord 32 0x02BA69F1 = some (.sMul ⟨false, 23, 19, 19, 1⟩) ∧
    decodeTableWord 32 0x82C2897A = some (.sMulh ⟨true, 24, 20, 18, 2⟩) ∧
    decodeTableWord 32 0x04CAA883 = some (.sMulhN ⟨false, 25, 21, 17, 3⟩) ∧
    decodeTableWord 32 0x84D2C80C = some (.sDiv ⟨true, 26, 22, 16, 4⟩) ∧
    decodeTableWord 32 0x04DAE795 = some (.sDivN ⟨false, 27, 23, 15, 5⟩) ∧
    decodeTableWord 32 0x84E3071E = some (.sRem ⟨true, 28, 24, 14, 6⟩) ∧
    decodeTableWord 32 0x04EB26A7 = some (.sRemN ⟨false, 29, 25, 13, 7⟩) ∧
    decodeTableWord 32 0x84F34029 = some (.sClz ⟨true, 30, 26, 0, 1⟩) ∧
    decodeTableWord 32 0x04FB6032 = some (.sCtz ⟨false, 31, 27, 0, 2⟩) ∧
    decodeTableWord 32 0x8503803B = some (.sPopc ⟨true, 32, 28, 0, 3⟩) ∧
    decodeTableWord 32 0x050BA044 = some (.sBrev ⟨false, 33, 29, 0, 4⟩) ∧
    decodeTableWord 32 0x8513C44D = some (.sBfx ⟨true, 34, 30, 8, 5⟩) ∧
    decodeTableWord 32 0x051BE3D6 = some (.sBfi ⟨false, 35, 31, 7, 6⟩) ∧
    decodeTableWord 32 0x8524035F = some (.sIleave ⟨true, 36, 32, 6, 7⟩) ∧
    decodeTableWord 32 0x052C22E1 = some (.sIleave3 ⟨false, 37, 33, 5, 1⟩) ∧
    decodeTableWord 32 0x8534426A = some (.sDeleave ⟨true, 38, 34, 4, 2⟩) ∧
    decodeTableWord 32 0x053C70F3 = some (.sDeleave3 ⟨false, 39, 35, 33, 3⟩) := by
  decide +kernel

/-- R45, R102 to R105: words written out from their encodings, and the instructions that they stand for. -/
theorem decodes_scalar_selecting_words :
    decodeTableWord 32 0x87449034 = some (.sSel false 6 ⟨true, 40, 36, 32, 4⟩) ∧
    decodeTableWord 32 0x081CAF9D = some (.sCmp .ge ⟨false, 3, 37, 31, 5⟩) ∧
    decodeTableWord 32 0x8A10C336 = some (.sKop .nor ⟨true, 2, 6, 6, 6⟩) := by
  decide +kernel

/-- R45, R149 to R152: words written out from their encodings, and the instructions that they stand for. -/
theorem decodes_scalar_float_words :
    decodeTableWord 32 0x0D5CEE87 = some (.sFopAdd ⟨false, 43, 39, 29, 7⟩) ∧
    decodeTableWord 32 0x8D650E09 = some (.sFopSub ⟨true, 44, 40, 28, 1⟩) ∧
    decodeTableWord 32 0x0D6D2D92 = some (.sFopMul ⟨false, 45, 41, 27, 2⟩) ∧
    decodeTableWord 32 0x8D754D1B = some (.sFopDiv ⟨true, 46, 42, 26, 3⟩) ∧
    decodeTableWord 32 0x0D7D6024 = some (.sFopSqrt ⟨false, 47, 43, 0, 4⟩) ∧
    decodeTableWord 32 0x8D858C2D = some (.sFopMin ⟨true, 48, 44, 24, 5⟩) ∧
    decodeTableWord 32 0x0C4DABB6 = some (.sFopMax ⟨false, 9, 45, 23, 6⟩) ∧
    decodeTableWord 32 0x8C55C03F = some (.sFopAbs ⟨true, 10, 46, 0, 7⟩) ∧
    decodeTableWord 32 0x0C5DE041 = some (.sFopNeg ⟨false, 11, 47, 0, 1⟩) ∧
    decodeTableWord 32 0x8E660A12 = some (.sFfma .neg ⟨true, 12, 48, 20, 2⟩) ∧
    decodeTableWord 32 0x103E29BB = some (.sFcmp .ord ⟨false, 7, 49, 19, 3⟩) ∧
    decodeTableWord 32 0x92764024 = some (.sFcvt .f32f64 ⟨true, 14, 50, 0, 4⟩) := by
  decide +kernel

/-- R44, R99 to R101: words written out from their encodings, and the instructions that they stand for. -/
theorem decodes_immediate_words :
    decodeTableWord 32 0x147E60E9 = some (.sAddImm ⟨false, 15, 51, 233⟩) ∧
    decodeTableWord 32 0x968680EE = some (.sAndImm ⟨true, 16, 52, 238⟩) ∧
    decodeTableWord 32 0x188EA0F3 = some (.sOrImm ⟨false, 17, 53, 243⟩) ∧
    decodeTableWord 32 0x9A96C0F8 = some (.sXorImm ⟨true, 18, 54, 248⟩) ∧
    decodeTableWord 32 0x1C98A03D = some (.sShlImm ⟨false, 19, 5, 0, 61⟩) ∧
    decodeTableWord 32 0x9CA0C802 = some (.sShrImm ⟨true, 20, 6, 0, 2⟩) ∧
    decodeTableWord 32 0x1CA8F007 = some (.sSraImm ⟨false, 21, 7, 0, 7⟩) ∧
    decodeTableWord 32 0x9CB1180C = some (.sRotImm ⟨true, 22, 8, 0, 12⟩) ∧
    decodeTableWord 32 0x1EB92111 = some (.sMulImm ⟨false, 23, 9, 273⟩) ∧
    decodeTableWord 32 0xA1B14116 = some (.sCmpImm .tst 6 true 10 278) ∧
    decodeTableWord 32 0x22C8011B = some (.sLui ⟨false, 25, 283⟩) ∧
    decodeTableWord 32 0xA4D00120 = some (.sAddpc ⟨true, 26, 288⟩) := by
  decide +kernel

/-- R44, R236, R314: words written out from their encodings, and the instructions that they stand for. -/
theorem decodes_branch_and_access_words :
    decodeTableWord 32 0x2760001B = some (.sBr ⟨false, 5, true, 27⟩) ∧
    decodeTableWord 32 0xA600001C = some (.sJmp true 28) ∧
    decodeTableWord 32 0x28E8012F = some (.sCall ⟨false, 29, 303⟩) ∧
    decodeTableWord 32 0xAAF419A5 = some (.sLd ⟨true, 30, 32, 6, 1, 165⟩) ∧
    decodeTableWord 32 0x2CFBEEA5 = some (.sSt ⟨false, 31, 31, 3, 2, 165⟩) ∧
    decodeTableWord 32 0xAF03CCA5 = some (.sLdsp ⟨true, 32, 30, 3, 0, 165⟩) ∧
    decodeTableWord 32 0x310BACA5 = some (.sStsp ⟨false, 33, 29, 3, 0, 165⟩) := by
  decide +kernel

/-- R258: words written out from their encodings, and the instructions that they stand for. -/
theorem decodes_movement_words :
    decodeTableWord 32 0xB3128000 = some (.sCopy ⟨true, 34, 20, 0⟩) ∧
    decodeTableWord 32 0x331AA008 = some (.sStream ⟨false, 35, 21, 0⟩) ∧
    decodeTableWord 32 0xB202CD10 = some (.sPrefL1 ⟨true, 0, 22, 26⟩) ∧
    decodeTableWord 32 0x3202EC91 = some (.sPrefL2 ⟨false, 0, 23, 25⟩) ∧
    decodeTableWord 32 0xB3330C18 = some (.sCacheL1inv ⟨true, 38, 24, 24⟩) ∧
    decodeTableWord 32 0x333B2B99 = some (.sCacheRdcinv ⟨false, 39, 25, 23⟩) ∧
    decodeTableWord 32 0xB3434B1A = some (.sCacheL2wb ⟨true, 40, 26, 22⟩) ∧
    decodeTableWord 32 0x334B6A9B = some (.sCacheIcinv ⟨false, 41, 27, 21⟩) ∧
    decodeTableWord 32 0xB2038A20 = some (.sAwset ⟨true, 0, 28, 20⟩) ∧
    decodeTableWord 32 0x335BA9A8 = some (.sAwwait ⟨false, 43, 29, 19⟩) := by
  decide +kernel

/-- R46, R270, R274, R276, R283, R285: words written out from their encodings, and the instructions that they stand for. -/
theorem decodes_ordering_words :
    decodeTableWord 32 0xB4000005 = some (.sFenceAcq 5 ⟨true, 0, 0, 0⟩) ∧
    decodeTableWord 32 0x3400000E = some (.sFenceRel 6 ⟨false, 0, 0, 0⟩) ∧
    decodeTableWord 32 0xB4000010 = some (.sFenceAcqrel 0 ⟨true, 0, 0, 0⟩) ∧
    decodeTableWord 32 0x34004498 = some (.sBarSync ⟨false, 0, 0, 137⟩) ∧
    decodeTableWord 32 0xB4004719 = some (.sBarArrive ⟨true, 0, 0, 142⟩) ∧
    decodeTableWord 32 0x3448499A = some (.sBarInit ⟨false, 9, 0, 147⟩) ∧
    decodeTableWord 32 0xB4548624 = some (.sSeal 4 ⟨true, 10, 36, 12⟩) ∧
    decodeTableWord 32 0x345CA5AD = some (.sUnseal 5 ⟨false, 11, 37, 11⟩) ∧
    decodeTableWord 32 0xB664C558 = some (.sAtom .swap32 0 ⟨true, 12, 38, 10⟩) ∧
    decodeTableWord 32 0x386CE481 = some (.sAtomAcq .add 1 ⟨false, 13, 39, 9⟩) ∧
    decodeTableWord 32 0xBA75040A = some (.sAtomRel .and 2 ⟨true, 14, 40, 8⟩) ∧
    decodeTableWord 32 0x3C7D2393 = some (.sAtomAcqrel .or 3 ⟨false, 15, 41, 7⟩) ∧
    decodeTableWord 32 0xBE554675 = some (.sCas 3 2 5 ⟨true, 10, 42, 12⟩) := by
  decide +kernel

/-- R46, R172, R315 to R318, R323: words written out from their encodings, and the instructions that they stand for. -/
theorem decodes_engine_and_control_words :
    decodeTableWord 32 0x408D6281 = some (.sMma true ⟨false, 17, 43, 5⟩) ∧
    decodeTableWord 32 0xC0958208 = some (.sMloop false ⟨true, 18, 44, 4⟩) ∧
    decodeTableWord 32 0x409DB090 = some (.sAwin false ⟨false, 19, 45, 33⟩) ∧
    decodeTableWord 32 0xC005D018 = some (.sAclr ⟨true, 0, 46, 32⟩) ∧
    decodeTableWord 32 0x42ADE000 = some (.sBeam ⟨false, 21, 47, 0⟩) ∧
    decodeTableWord 32 0xC4060000 = some (.sRet ⟨true, 0, 48, 0⟩) ∧
    decodeTableWord 32 0x44062008 = some (.sJr ⟨false, 0, 49, 0⟩) ∧
    decodeTableWord 32 0xC4064E16 = some (.sLrunUniforms 6 ⟨true, 0, 50, 28⟩) ∧
    decodeTableWord 32 0x44066018 = some (.sLrun ⟨false, 0, 51, 0⟩) ∧
    decodeTableWord 32 0xC4000020 = some (.sLwait ⟨true, 0, 0, 0⟩) ∧
    decodeTableWord 32 0x44000028 = some (.sExit ⟨false, 0, 0, 0⟩) ∧
    decodeTableWord 32 0xC4E6CC30 = some (.sRegroup false ⟨true, 28, 54, 24⟩) ∧
    decodeTableWord 32 0x44E8FBB8 = some (.sMfs ⟨false, 29, 503⟩) ∧
    decodeTableWord 32 0xC5E0FE40 = some (.sMts ⟨true, 60, 508⟩) ∧
    decodeTableWord 32 0x44000048 = some (.sNop ⟨false, 0, 0, 0⟩) ∧
    decodeTableWord 32 0xC7010A00 = some (.sWdq ⟨true, 32, 8, 20⟩) ∧
    decodeTableWord 32 0x47092988 = some (.sQpush ⟨false, 33, 9, 19⟩) := by
  decide +kernel

/-- R46, R361, R380, R390, R395: words written out from their encodings, and the instructions that they stand for. -/
theorem decodes_scheduling_and_system_words :
    decodeTableWord 32 0xC7114909 = some (.sQpushNw ⟨true, 34, 10, 18⟩) ∧
    decodeTableWord 32 0x4719600A = some (.sQpushOpen ⟨false, 35, 11, 0⟩) ∧
    decodeTableWord 32 0xC721800B = some (.sQpushClose ⟨true, 36, 12, 0⟩) ∧
    decodeTableWord 32 0x4729A797 = some (.sQpop 7 ⟨false, 37, 13, 15⟩) ∧
    decodeTableWord 32 0xC731C71C = some (.sQpoll 4 ⟨true, 38, 14, 14⟩) ∧
    decodeTableWord 32 0x4739E020 = some (.sLease ⟨false, 39, 15, 0⟩) ∧
    decodeTableWord 32 0xC6000028 = some (.sYield ⟨true, 0, 0, 0⟩) ∧
    decodeTableWord 32 0x474A25B0 = some (.sLaunch ⟨false, 41, 17, 11⟩) ∧
    decodeTableWord 32 0xC8024000 = some (.sTrap ⟨true, 0, 18, 0⟩) ∧
    decodeTableWord 32 0x48000008 = some (.sEret ⟨false, 0, 0, 0⟩) ∧
    decodeTableWord 32 0xC9628410 = some (.sTlbiVa false ⟨true, 44, 20, 8⟩) ∧
    decodeTableWord 32 0x49680395 = some (.sTlbiAsid true ⟨false, 45, 0, 7⟩) ∧
    decodeTableWord 32 0xC9700012 = some (.sTlbiAll false ⟨true, 46, 0, 0⟩) ∧
    decodeTableWord 32 0x49792898 = some (.sMfp ⟨false, 47, 593⟩) ∧
    decodeTableWord 32 0xC8B12B20 = some (.sMtp ⟨true, 22, 598⟩) := by
  decide +kernel

/-- R46, R438, R443, R459: words written out from their encodings, and the instructions that they stand for. -/
theorem decodes_recovery_and_collective_words :
    decodeTableWord 32 0x4A033081 = some (.sRegion true ⟨false, 0, 25, 33⟩) ∧
    decodeTableWord 32 0xCA000008 = some (.sCommit ⟨true, 0, 0, 0⟩) ∧
    decodeTableWord 32 0x4A580010 = some (.sCkpt ⟨false, 11, 0, 0⟩) ∧
    decodeTableWord 32 0xCA538F1A = some (.sCschk .lt ⟨true, 10, 28, 30⟩) ∧
    decodeTableWord 32 0x4A680020 = some (.sPoisqRegs ⟨false, 13, 0, 0⟩) ∧
    decodeTableWord 32 0xCA73C021 = some (.sPoisqLine ⟨true, 14, 30, 0⟩) ∧
    decodeTableWord 32 0x4A7BE022 = some (.sPoisqSp ⟨false, 15, 31, 0⟩) ∧
    decodeTableWord 32 0xCA840023 = some (.sPoisqClr ⟨true, 16, 32, 0⟩) ∧
    decodeTableWord 32 0x4A8C2CA4 = some (.sPoisqPol ⟨false, 17, 33, 25⟩) ∧
    decodeTableWord 32 0xCC944000 = some (.sColl ⟨true, 18, 34, 0⟩) ∧
    decodeTableWord 32 0x4C546008 = some (.sCwait ⟨false, 10, 35, 0⟩) := by
  decide +kernel

/-- R49, R107 to R117: words written out from their encodings, and the instructions that they stand for. -/
theorem decodes_lane_integer_words :
    decodeTableWord 96 0x80EA15263700000000000000 = some (.vAdd ⟨true, 6, true, 2, 21, 38, 55, 0, 0, 0, 0, 0, 0, false, false, 0⟩) ∧
    decodeTableWord 96 0x017215263700000000000000 = some (.vSub ⟨false, 7, false, 2, 21, 38, 55, 0, 0, 0, 0, 0, 0, false, false, 0⟩) ∧
    decodeTableWord 96 0x819215263700000000000000 = some (.vMul ⟨true, 1, false, 2, 21, 38, 55, 0, 0, 0, 0, 0, 0, false, false, 0⟩) ∧
    decodeTableWord 96 0x022A15263700000000000000 = some (.vMulh ⟨false, 2, true, 2, 21, 38, 55, 0, 0, 0, 0, 0, 0, false, false, 0⟩) ∧
    decodeTableWord 96 0x82BA15263700000000000000 = some (.vAnd ⟨true, 3, true, 2, 21, 38, 55, 0, 0, 0, 0, 0, 0, false, false, 0⟩) ∧
    decodeTableWord 96 0x034215263700000000000000 = some (.vOr ⟨false, 4, false, 2, 21, 38, 55, 0, 0, 0, 0, 0, 0, false, false, 0⟩) ∧
    decodeTableWord 96 0x83D215263700000000000000 = some (.vXor ⟨true, 5, false, 2, 21, 38, 55, 0, 0, 0, 0, 0, 0, false, false, 0⟩) ∧
    decodeTableWord 96 0x046A15263700000000000000 = some (.vAndn ⟨false, 6, true, 2, 21, 38, 55, 0, 0, 0, 0, 0, 0, false, false, 0⟩) ∧
    decodeTableWord 96 0x84FA15263700000000000000 = some (.vShl ⟨true, 7, true, 2, 21, 38, 55, 0, 0, 0, 0, 0, 0, false, false, 0⟩) ∧
    decodeTableWord 96 0x051215263700000000000000 = some (.vShr ⟨false, 1, false, 2, 21, 38, 55, 0, 0, 0, 0, 0, 0, false, false, 0⟩) ∧
    decodeTableWord 96 0x85A215263700000000000000 = some (.vSra ⟨true, 2, false, 2, 21, 38, 55, 0, 0, 0, 0, 0, 0, false, false, 0⟩) ∧
    decodeTableWord 96 0x063A15263700000000000000 = some (.vMin ⟨false, 3, true, 2, 21, 38, 55, 0, 0, 0, 0, 0, 0, false, false, 0⟩) ∧
    decodeTableWord 96 0x86CA15263700000000000000 = some (.vMax ⟨true, 4, true, 2, 21, 38, 55, 0, 0, 0, 0, 0, 0, false, false, 0⟩) ∧
    decodeTableWord 96 0x075215260000000000000000 = some (.vClz ⟨false, 5, false, 2, 21, 38, 0, 0, 0, 0, 0, 0, 0, false, false, 0⟩) ∧
    decodeTableWord 96 0x87E215260000000000000000 = some (.vPopc ⟨true, 6, false, 2, 21, 38, 0, 0, 0, 0, 0, 0, 0, false, false, 0⟩) ∧
    decodeTableWord 96 0x087A15260000000000000000 = some (.vBrev ⟨false, 7, true, 2, 21, 38, 0, 0, 0, 0, 0, 0, 0, false, false, 0⟩) ∧
    decodeTableWord 96 0x889A15263700000000000000 = some (.vBfx ⟨true, 1, true, 2, 21, 38, 55, 0, 0, 0, 0, 0, 0, false, false, 0⟩) ∧
    decodeTableWord 96 0x092215263748000000000000 = some (.vBfi ⟨false, 2, false, 2, 21, 38, 55, 72, 0, 0, 0, 0, 0, false, false, 0⟩) ∧
    decodeTableWord 96 0x89B315263748000200000000 = some (.vIleave ⟨true, 3, false, 3, 21, 38, 55, 72, 0, 0, 0, 0, 0, false, true, 0⟩) ∧
    decodeTableWord 96 0x0A4915260000000000000001 = some (.vDeleave ⟨false, 4, true, 1, 21, 38, 0, 0, 0, 0, 0, 0, 0, false, false, 0x1⟩) ∧
    decodeTableWord 96 0x8ADA04263700600000000000 = some (.vIcmp ⟨true, 5, true, 2, 4, 38, 55, 0, 3, 0, 0, 0, 0, false, false, 0⟩) ∧
    decodeTableWord 96 0x0B6215263700A00000000001 = some (.vSel ⟨false, 6, false, 2, 21, 38, 55, 0, 5, 0, 0, 0, 0, false, false, 0x1⟩) ∧
    decodeTableWord 96 0x8BF600020300800000000000 = some (.vPop ⟨true, 7, false, 6, 0, 2, 3, 0, 4, 0, 0, 0, 0, false, false, 0⟩) ∧
    decodeTableWord 96 0x0C1A150000000001ABCDEF01 = some (.vMovi ⟨false, 1, true, 2, 21, 0, 0, 0, 0, 0, 0, 0, 0, false, false, 0x1abcdef01⟩) ∧
    decodeTableWord 96 0x8C2B150000000002ABCDEF01 = some (.vMoviHi ⟨true, 2, true, 3, 21, 0, 0, 0, 0, 0, 0, 0, 0, false, true, 0xabcdef01⟩) ∧
    decodeTableWord 96 0x0CB215260000000000000000 = some (.vMov ⟨false, 3, false, 2, 21, 38, 0, 0, 0, 0, 0, 0, 0, false, false, 0⟩) ∧
    decodeTableWord 96 0x8D4215263748000400000000 = some (.vImad ⟨true, 4, false, 2, 21, 38, 55, 72, 0, 0, 0, 0, 0, true, false, 0⟩) := by
  decide +kernel

/-- R49, R129 to R147: words written out from their encodings, and the instructions that they stand for. -/
theorem decodes_lane_float_words :
    decodeTableWord 96 0x2058152637000C0000000000 = some (.vFadd ⟨false, 5, true, 0, 21, 38, 55, 0, 0, 3, 0, 0, 0, false, false, 0⟩) ∧
    decodeTableWord 96 0xA0E9152637001C0000000000 = some (.vFsub ⟨true, 6, true, 1, 21, 38, 55, 0, 0, 7, 0, 0, 0, false, false, 0⟩) ∧
    decodeTableWord 96 0x217415263700040000000000 = some (.vFmul ⟨false, 7, false, 4, 21, 38, 55, 0, 0, 1, 0, 0, 0, false, false, 0⟩) ∧
    decodeTableWord 96 0xA190152637F3040000000002 = some (.vFfma ⟨true, 1, false, 0, 21, 38, 55, 243, 0, 1, 0, 0, 0, false, false, 0x2⟩) ∧
    decodeTableWord 96 0x222D15263700000200000000 = some (.vFmin ⟨false, 2, true, 5, 21, 38, 55, 0, 0, 0, 0, 0, 0, false, true, 0⟩) ∧
    decodeTableWord 96 0xA2BE15263700000000000000 = some (.vFmax ⟨true, 3, true, 6, 21, 38, 55, 0, 0, 0, 0, 0, 0, false, false, 0⟩) ∧
    decodeTableWord 96 0x234115263700000000000002 = some (.vFsgn ⟨false, 4, false, 1, 21, 38, 55, 0, 0, 0, 0, 0, 0, false, false, 0x2⟩) ∧
    decodeTableWord 96 0xA3D102263700C00200000000 = some (.vFcmp ⟨true, 5, false, 1, 2, 38, 55, 0, 6, 0, 0, 0, 0, false, true, 0⟩) ∧
    decodeTableWord 96 0x2468152600004000000003A5 = some (.vFclass ⟨false, 6, true, 0, 21, 38, 0, 0, 2, 0, 0, 0, 0, false, false, 0x3a5⟩) ∧
    decodeTableWord 96 0xA4F815263700080000000000 = some (.vFdiv ⟨true, 7, true, 0, 21, 38, 55, 0, 0, 2, 0, 0, 0, false, false, 0⟩) ∧
    decodeTableWord 96 0x251115260000100000000000 = some (.vFsqrt ⟨false, 1, false, 1, 21, 38, 0, 0, 0, 4, 0, 0, 0, false, false, 0⟩) ∧
    decodeTableWord 96 0xA5A115260000000000000000 = some (.vFrcp ⟨true, 2, false, 1, 21, 38, 0, 0, 0, 0, 0, 0, 0, false, false, 0⟩) ∧
    decodeTableWord 96 0x263915260000000000000000 = some (.vFrsq ⟨false, 3, true, 1, 21, 38, 0, 0, 0, 0, 0, 0, 0, false, false, 0⟩) ∧
    decodeTableWord 96 0xA6C915260000000000000000 = some (.vFex2 ⟨true, 4, true, 1, 21, 38, 0, 0, 0, 0, 0, 0, 0, false, false, 0⟩) ∧
    decodeTableWord 96 0x275115260000000000000000 = some (.vFlg2 ⟨false, 5, false, 1, 21, 38, 0, 0, 0, 0, 0, 0, 0, false, false, 0⟩) ∧
    decodeTableWord 96 0xA7E115260000000000000000 = some (.vFsin ⟨true, 6, false, 1, 21, 38, 0, 0, 0, 0, 0, 0, 0, false, false, 0⟩) ∧
    decodeTableWord 96 0x287915260000000000000000 = some (.vFcos ⟨false, 7, true, 1, 21, 38, 0, 0, 0, 0, 0, 0, 0, false, false, 0⟩) ∧
    decodeTableWord 96 0xA89915260000080000000003 = some (.vFcvt ⟨true, 1, true, 1, 21, 38, 0, 0, 0, 2, 0, 0, 0, false, false, 0x3⟩) ∧
    decodeTableWord 96 0x29201526000004000000000A = some (.vIcvt ⟨false, 2, false, 0, 21, 38, 0, 0, 0, 1, 0, 0, 0, false, false, 0xa⟩) ∧
    decodeTableWord 96 0xA9B115260000040200000000 = some (.vFround ⟨true, 3, false, 1, 21, 38, 0, 0, 0, 1, 0, 0, 0, false, true, 0⟩) ∧
    decodeTableWord 96 0x2A4815263700000000000000 = some (.vFscale ⟨false, 4, true, 0, 21, 38, 55, 0, 0, 0, 0, 0, 0, false, false, 0⟩) ∧
    decodeTableWord 96 0xAAD91526374800020000000B = some (.vQdec ⟨true, 5, true, 1, 21, 38, 55, 72, 0, 0, 0, 0, 0, false, true, 0xb⟩) ∧
    decodeTableWord 96 0x2B6115263700000000000076 = some (.vMxdec ⟨false, 6, false, 1, 21, 38, 55, 0, 0, 0, 0, 0, 0, false, false, 0x76⟩) ∧
    decodeTableWord 96 0xABF006010700000000000026 = some (.vPack ⟨true, 7, false, 0, 6, 1, 7, 0, 0, 0, 0, 0, 0, false, false, 0x26⟩) ∧
    decodeTableWord 96 0x2B9915260000000000000405 = some (.vPackScale ⟨false, 1, true, 1, 21, 38, 0, 0, 0, 0, 0, 0, 0, false, false, 0x405⟩) := by
  decide +kernel

/-- R49, R178, R206, R237, R277: words written out from their encodings, and the instructions that they stand for. -/
theorem decodes_lane_access_words :
    decodeTableWord 96 0xC02915260000000000001234 = some (.vLdacc ⟨true, 2, true, 1, 21, 38, 0, 0, 0, 0, 0, 0, 0, false, false, 0x1234⟩) ∧
    decodeTableWord 96 0x40B100263700000000001234 = some (.vStacc ⟨false, 3, false, 1, 0, 38, 55, 0, 0, 0, 0, 0, 0, false, false, 0x1234⟩) ∧
    decodeTableWord 96 0xC44014263600000000000000 = some (.vTrace ⟨true, 4, false, 0, 20, 38, 54, 0, 0, 0, 0, 0, 0, false, false, 0⟩) ∧
    decodeTableWord 96 0x44D815263748000200000000 = some (.vTex ⟨false, 5, true, 0, 21, 38, 55, 72, 0, 0, 0, 0, 0, false, true, 0⟩) ∧
    decodeTableWord 96 0xC86F15260000000001723456 = some (.vLd ⟨true, 6, true, 7, 21, 38, 0, 0, 0, 0, 0, 0, 0, false, false, 0x1723456⟩) ∧
    decodeTableWord 96 0x48F200263700000002B23456 = some (.vSt ⟨false, 7, false, 2, 0, 38, 55, 0, 0, 0, 0, 0, 0, false, false, 0x2b23456⟩) ∧
    decodeTableWord 96 0xC91315260000000000123456 = some (.vLdsp ⟨true, 1, false, 3, 21, 38, 0, 0, 0, 0, 0, 0, 0, false, false, 0x123456⟩) ∧
    decodeTableWord 96 0x49AB00263700000000123456 = some (.vStsp ⟨false, 2, true, 3, 0, 38, 55, 0, 0, 0, 0, 0, 0, false, false, 0x123456⟩) ∧
    decodeTableWord 96 0xCC3915263700000083923456 = some (.vAtom ⟨true, 3, true, 1, 21, 38, 55, 0, 0, 0, 0, 0, 0, false, false, 0x83923456⟩) ∧
    decodeTableWord 96 0x4CC115263748000001812345 = some (.vCas ⟨false, 4, false, 1, 21, 38, 55, 72, 0, 0, 0, 0, 0, false, false, 0x1812345⟩) ∧
    decodeTableWord 96 0xCD5015263700000100123456 = some (.vAtomsp ⟨true, 5, false, 0, 21, 38, 55, 0, 0, 0, 0, 0, 0, false, false, 0x100123456⟩) := by
  decide +kernel

/-- R49, R308 to R322, R396, R443 to R445: words written out from their encodings, and the instructions that they stand for. -/
theorem decodes_lane_control_words :
    decodeTableWord 96 0x5068000000000001FFFE0007 = some (.vBr ⟨false, 6, true, 0, 0, 0, 0, 0, 0, 0, 0, 0, 0, false, false, 0x1fffe0007⟩) ∧
    decodeTableWord 96 0xD080000000000001FFFE0000 = some (.vJmp ⟨true, 0, false, 0, 0, 0, 0, 0, 0, 0, 0, 0, 0, false, false, 0x1fffe0000⟩) ∧
    decodeTableWord 96 0x510000000000000000000000 = some (.vJoin ⟨false, 0, false, 0, 0, 0, 0, 0, 0, 0, 0, 0, 0, false, false, 0⟩) ∧
    decodeTableWord 96 0xD18000000000000000000000 = some (.vLend ⟨true, 0, false, 0, 0, 0, 0, 0, 0, 0, 0, 0, 0, false, false, 0⟩) ∧
    decodeTableWord 96 0x523800000000000000000000 = some (.vExit ⟨false, 3, true, 0, 0, 0, 0, 0, 0, 0, 0, 0, 0, false, false, 0⟩) ∧
    decodeTableWord 96 0xD2C815040000000000000013 = some (.vVote ⟨true, 4, true, 0, 21, 4, 0, 0, 0, 0, 0, 0, 0, false, false, 0x13⟩) ∧
    decodeTableWord 96 0x53511526004840000000001F = some (.vShuf ⟨false, 5, false, 1, 21, 38, 0, 72, 2, 0, 0, 0, 0, false, false, 0x1f⟩) ∧
    decodeTableWord 96 0xD3E015000000000000000080 = some (.vMfs ⟨true, 6, false, 0, 21, 0, 0, 0, 0, 0, 0, 0, 0, false, false, 0x80⟩) ∧
    decodeTableWord 96 0x587800000000000155AA55AA = some (.vTrap ⟨false, 7, true, 0, 0, 0, 0, 0, 0, 0, 0, 0, 0, false, false, 0x155aa55aa⟩) ∧
    decodeTableWord 96 0xDC1A15260000000000000000 = some (.vCsacc ⟨true, 1, true, 2, 21, 38, 0, 0, 0, 0, 0, 0, 0, false, false, 0⟩) ∧
    decodeTableWord 96 0x5CA20B26375A000000000000 = some (.vChk ⟨false, 2, false, 2, 11, 38, 55, 90, 0, 0, 0, 0, 0, false, false, 0⟩) := by
  decide +kernel

end Sys2Proof
end

