-- ==== Sys2Proof/Machine/Issue.lean ====
section
/-!
DEFINITION. From the head of the agenda to an instruction: fetch (R28, R257), which word a stream issues (R306, R352, R387), what replaces
cached copies, and the default agenda (DESIGN CHOICE, log entry 1).
-/
namespace Sys2Proof.Machine

/-! ### Fetch (R28, R257) -/

/-- What a fetch meets. -/
inductive Fetched where
  | ok (n : Nat)
  | bad (r : Raise)
  | wait

/-- A sector as an instruction fill reads it: from the die's RDC if it was filled after the partition's setup began, else at the home. -/
def State.readCode (s : State) (c pa : Nat) : List Byte × State :=
  let d := dieOf c
  let sector := pa / 32
  let since := ((s.core c).part.map (·.setupAt)).getD 0
  if paSlot pa = s.boot.podSlot ∧ homeDie (paOff pa) = d then
    let (r, s) := (s.warm d pa).readHome d (32 * sector) 32
    (r.1, s)
  else match ((s.die d).rdc.get none sector).filter fun x => Sector.fresh s (s.die d).rdcGen sector x && decide (since ≤ x.filled) with
    | some x => (x.data, s)
    | none =>
      let (r, s) := (s.warm d pa).readHome d (32 * sector) 32
      (r.1, s.modDie d fun k => { k with rdc := k.rdc.set none sector (some ⟨r.1, r.2, k.rdcGen, s.cycles, 0⟩) })

/-- The instruction cache of a stream (R19), and a parcel kept in it. -/
def Core.codeCache (k : Core) (lane : Bool) : SMap (Option (BitVec 32)) := if lane then k.lcache else k.icache
def Core.keepCode (k : Core) (lane : Bool) (parcel n : Nat) : Core :=
  let v := some (BitVec.ofNat 32 n)
  if lane then { k with lcache := k.lcache.set none parcel v } else { k with icache := k.icache.set none parcel v }

/-- Fetches the parcel at an address, through the cache of the stream. -/
def State.fetchParcel (s : State) (c : Nat) (m : Team) (lane : Bool) (va : Word) : Fetched × State :=
  match xlate s (some c) (dieOf c) m.id.asid m.id.runtime Need.fetch va with
  | (.fail k, s) => (.bad ⟨k, va, 0⟩, s)
  | (.poison e, s) => (.bad ⟨.machineCheck, wordN e, 0⟩, s)
  | (.wait, s) => (.wait, s)
  | (.ok pa, s) =>
    if isMgmt pa then (.bad ⟨.protection, va, 0⟩, s)
    else match ((s.core c).codeCache lane).get none (pa / 4) with
      | some v => (.ok v.toNat, s)
      | none =>
        if s.blocked pa none then (.wait, s)
        else
          let (bs, s) := s.readCode c pa
          let n := bytesN ((bs.drop (pa % 32)).take 4)
          (.ok n, s.modCore c fun k => k.keepCode lane (pa / 4) n)

/-- Fetches the three parcels of a lane word in ascending address order. -/
def State.fetchLane (s : State) (c : Nat) (m : Team) (va : Word) : Fetched × State :=
  match s.fetchParcel c m true va with
  | (.ok a, s) => match s.fetchParcel c m true (va + 4) with
    | (.ok b, s) => match s.fetchParcel c m true (va + 8) with
      | (.ok d, s) => (.ok (a + 2 ^ 32 * b + 2 ^ 64 * d), s)
      | r => r
    | r => r
  | r => r

/-! ### What a stream issues -/

/-- What issuing comes to: an instruction to execute, or a state in which nothing more is executed. -/
inductive Issue where
  | run (i : Instr) (s : State)
  | still (s : State)

/-- A team may issue: it is in the active set, its launch has started, it is not parked and its region is not being recovered. -/
def Team.mayIssue (m : Team) : Bool := m.sched.state == .active && m.sched.started && !m.sched.parked && !m.halted

/-- Waiting traps are delivered before a word of the team issues; a word with an engaged effect ends first (R388). -/
def Team.trapsFirst (m : Team) : Bool :=
  !m.trap.pending.isEmpty && !m.trap.handler && !(match m.sched.hold with | some h => h.engaged | none => false)

/-- An enabled breakpoint of a stream matches an address (R387). -/
def Team.breaks (m : Team) (lane skip : Bool) (pc : Word) : Bool :=
  !m.trap.handler && !skip &&
  m.regs.bkpt.any fun b => b.getLsbD 63 && b.getLsbD 62 == lane && bits b.toNat 2 52 == bits pc.toNat 2 52 && pc.toNat / 2 ^ 54 == 0

/-- Executes a fetched word, or raises what its fetch or its decoding has met. -/
def issueFetched (lane : Bool) (raise : State → Raise → State) (same : State) : Fetched × State → Issue
  | (.wait, _) => .still same
  | (.bad r, s) => .still (raise s r)
  | (.ok n, s) =>
    match decodeBytes (leBytes (if lane then 12 else 4) n) with
    | .word i => .run i s
    | .reject _ => .still (raise s ⟨.illegalInstruction, 0, 0⟩)

/-- A split of a team is ready (R306, R386, R388). -/
def Team.splitReady (m : Team) (i : Nat) : Bool :=
  match m.ctl.split i with
  | some p => p.handler == m.trap.handler && !m.stopped i
  | none => false

/-- The split whose turn it is (R306). -/
def Team.turnSplit (m : Team) : Option Nat := (List.range 16).map (fun k => (m.ctl.turn + k) % 16) |>.find? m.splitReady

/-- The lane stream of a team stands still: a word of its scalar stream waits for every earlier store and result. -/
def Team.laneWaits (m : Team) : Bool :=
  match m.sched.hold with
  | some .drain | some .record => true
  | _ => false

/-! ### The choice of a team (R352) -/

/-- A team of a core has a word ready in a stream. -/
def eligible (s : State) (c : Nat) (lane : Bool) (m : Team) : Bool :=
  m.mayIssue && (m.trapsFirst ||
    (if lane then m.turnSplit.isSome && !m.laneWaits && decide ((s.core c).health.pauseUntil ≤ s.cycles)
     else m.sched.hold.isNone && m.sched.holdUntil == 0))

/-- A team is at low priority in a stream (R353, R354). -/
def Team.low (m : Team) (lane : Bool) : Bool :=
  if lane then (match m.turnSplit.bind m.ctl.split with | some p => p.spin.low | none => false) else m.sched.spin.low || m.sched.lowPoll

/-- The team that a stream of a core serves next (R352). -/
def serves (s : State) (c : Nat) (lane : Bool) : Option (Nat × Team) :=
  let k := s.core c
  let all := k.residents.filter fun e => eligible s c lane e.2
  let last (m : Team) : Nat := if lane then m.sched.lastLane else m.sched.lastScalar
  let after (l : List (Nat × Team)) : Option (Nat × Team) :=
    match l.find? fun e => decide ((if lane then k.lastLane else k.lastScalar) < e.1) with
    | some e => some e
    | none => l.head?
  match (sortBy (fun a b => decide (last a.2 < last b.2)) (all.filter fun e => decide (last e.2 + 2016 ≤ s.cycles))).head? with
  | some e => some e
  | none => match after (all.filter fun e => !e.2.low lane) with
    | some e => some e
    | none => after all

/-- It is the turn of a team in a stream of its core. -/
def State.turnOf (s : State) (c t : Nat) (lane : Bool) : Bool := (serves s c lane).any fun e => e.1 == t

/-! ### Issue -/

/-- The scalar pipeline issues a word of a team, or tries again one that has issued and waits. -/
def issueScalar (s : State) (c t : Nat) : Issue :=
  match s.team c t with
  | none => .still s
  | some m =>
    if !m.mayIssue || m.sched.holdUntil != 0 || !(m.sched.hold.isSome || s.turnOf c t false) then .still s
    else if m.trapsFirst then .still (deliverNext s c t)
    else
      let s := { (s.modCore c fun k => { k with lastScalar := t }) with focus := some ⟨c, t, none⟩ }
      let trap (s : State) (r : Raise) : State := raise s c t m ⟨r, none, some m.regs.spc⟩
      if m.breaks false m.trap.skipDebug m.regs.spc then .still (trap s ⟨.debug, m.regs.spc, 0⟩)
      else issueFetched false trap s (s.fetchParcel c m false m.regs.spc)

/-- The lane pipeline issues a word of a split of a team. -/
def issueLane (s : State) (c t i : Nat) : Issue :=
  match s.team c t with
  | none => .still s
  | some m =>
    if !m.mayIssue || m.laneWaits || decide (s.cycles < (s.core c).health.pauseUntil) || m.turnSplit != some i || !s.turnOf c t true then
      .still s
    else if m.trapsFirst then .still (deliverNext s c t)
    else match m.ctl.split i with
      | none => .still s
      | some p =>
        let s := { (s.modCore c fun k => { k with lastLane := t }) with focus := some ⟨c, t, some i⟩ }
        let trap (s : State) (r : Raise) : State := raise s c t m ⟨{ r with lanes := m.active p }, some (i, p.lpc), none⟩
        if m.breaks true p.skipDebug p.lpc then .still (trap s ⟨.debug, p.lpc, 0⟩)
        else issueFetched true trap s (s.fetchLane c m p.lpc)

/-! ### Replacement -/

/-- A line of a core's L1 is replaced: the team that filled it notes its tag (R348). -/
def State.evictL1 (s : State) (c sector : Nat) : State :=
  let line := sector / 4
  match (s.core c).l1.find? fun e => e.1 / 4 == line with
  | none => s
  | some e =>
    let s := s.modCore c fun k => { k with l1 := k.l1.keep fun a _ => a / 4 != line }
    match e.2 with
    | some x => s.modTeam c x.team fun m =>
      let tags := m.lease.victims.filter fun v => v != line
      let kept := if tags.length < 64 then tags else tags.drop 1
      { m with lease := { m.lease with victims := kept ++ [line] } }
    | none => s

/-- What an act that is no instruction does. -/
def State.perform (s : State) : Act → State
  | .peerWrite pa bs mark =>
    if paSlot pa = s.boot.podSlot ∨ pa / 32 ≠ (pa + bs.length - 1) / 32 then s else s.modMem fun m => m.write pa bs mark
  | .walkRace values => s.modSched fun c => { c with races := values }
  | .elapse n => { s with cycles := s.cycles + (n - 1) }
  | .evictL1 c sector => s.evictL1 c sector
  | .evictRdc d sector => s.modDie d fun k => { k with rdc := k.rdc.keep fun a _ => a / 4 != sector / 4 }
  | .evictL2 d line => s.dropL2 d line
  | .evictTlb c i => s.modCore c fun k => { k with tlb := k.tlb.take i ++ k.tlb.drop (i + 1) }
  | .evictDieTlb d i => s.modDie d fun k => { k with tlb := k.tlb.take i ++ k.tlb.drop (i + 1) }
  | .evictUpper d i => s.modDie d fun k => { k with upper := k.upper.take i ++ k.upper.drop (i + 1) }
  | .evictCode c parcel => s.modCore c fun k => { k with icache := k.icache.set none parcel none }
  | .evictLaneCode c parcel => s.modCore c fun k => { k with lcache := k.lcache.set none parcel none }
  | .evictNode q sector => s.modCluster q fun k => { k with nodes := k.nodes.keep fun u _ => u != sector }
  | .portLink port up => s.portLink port up
  | .event _ | .scalar _ _ | .lane _ _ _ | .same _ _ _ _ => s

/-! ### The default agenda (DESIGN CHOICE, log entry 1) -/

/-- What the pipelines of the cores can issue now. -/
def State.issues (s : State) : List Act :=
  s.cores.flatMap fun e =>
    ((e.2.residents.filter fun x => x.2.mayIssue && x.2.sched.hold.isSome).map fun x => Act.scalar e.1 x.1) ++
    (match serves s e.1 false with | some x => [Act.scalar e.1 x.1] | none => []) ++
    (match serves s e.1 true with | some x => [Act.lane e.1 x.1 (x.2.turnSplit.getD 0)] | none => [])

/-- An event, as what it does. -/
abbrev Doing := State → Host.Outcome State Fault Refusal

/-- The events of a team. -/
def teamEvents (c t : Nat) (m : Team) : List Doing :=
  [execRegionRecordValid c t] ++ ((m.pend.filter (·.ready)).map fun p => execLongResultReturn c t p.ticket .good) ++
  [execSpeedwellDiscard c t, execRegionBufferOverflow c t, execRegionMoveTimeout c t, execSwitchMarkerRelease c t, execTeamUnblocked c t,
   execRecordQueueOperation c t, execRegroupOfferTimeout c t, execAwwaitTimeout c t, execBarrierSyncTimeout c t, execQueueWaitTimeout c t,
   execCwaitTimeout c t, execTeamBlocked c t, execQpollBackoffEnd c t, execLeaseDecay c t]

/-- The events of a core and of its teams. -/
def coreEvents (c : Nat) (k : Core) : List Doing :=
  [execScalarDividerComplete c] ++ ((List.range k.inflight.length).map fun i => execStorePerformedAtHome c i .good) ++
  (k.residents.flatMap fun e => teamEvents c e.1 e.2) ++
  [execMatrixStep c .pass, execMloopWaitTimeout c, execLaneRetirement c, execLaneRemapPauseEnd c] ++
  (k.streams.flatMap fun e => [execStreamTileFill c e.1, execStreamTileDrain c e.1]) ++
  [execPartitionSetupComplete c, execTeamAdmission c, execOverBudgetAdmission c]

/-- The events of a cluster's engines. -/
def clusterEvents (q : Nat) (k : Cluster) : List Doing :=
  [execCopyStart q] ++ ((k.copies.filter (·.started)).map fun x => execCopyComplete q x.ticket) ++
  [execBeamQueryStart q, execSplitRecordAnswer q, execHitRecordRetry q]

/-- The events of the queue manager and the work distributor. -/
def queueEvents (s : State) : List Doing :=
  let qs := s.knownQueues
  (qs.map fun q => execQueueTailSeen q) ++ ((List.range 4).map fun d => execQueueReevaluation d) ++ (qs.map fun q => execLaunchPlacement q) ++
  (s.sched.launches.flatMap fun e => match e.2 with
    | some x => (List.range x.requests.length).map fun i => execWdqServe e.1 i
    | none => []) ++
  (s.sched.saved.flatMap fun _ => (List.range 512).map fun c => execGroupResume 0 c)

/-- The events of bring-up; the inputs of a stage are those of a package that finds nothing wrong and no peer. -/
def bootEvents (s : State) : List Doing :=
  if !s.boot.powered then [execPowerGood]
  else if s.ready || s.boot.stopped then []
  else [execBringupStageComplete
    { images := [⟨true, true, s.boot.minimum, 0, identityBytes 3 0 64⟩], lanes := [], ways := [], rows := [], badLanes := [], badWays := [],
      badRows := [], badChannels := [], badCores := [], straps := Config.straps, peers := 0, duplicate := false }]

/-- The events that the default agenda considers, in order; the rounds of work graphs only now and then, so that they do not keep the
streams from issuing. -/
def State.considered (s : State) : List Doing :=
  bootEvents s ++ (s.cores.flatMap fun e => coreEvents e.1 e.2) ++ (s.clusters.flatMap fun e => clusterEvents e.1 e.2) ++
  (if s.ready then queueEvents s ++ [execHeartbeatSend] else []) ++
  (if s.cycles % 16 = 0 then
    (sortNats (s.knownQueues.map fun q => qGraph (s.queueDesc q))).flatMap fun g => [execTerminationRound g, execTerminationTokenPass g]
   else [])

/-- The outcome of an event, if it changes the state. -/
def changes (s : State) (f : Doing) : Option State :=
  match f s with
  | .next s' => if s' = s then none else some s'
  | _ => none

/-- What happens next by default: an event that changes the state, else a word of one of the streams, else a cycle passes. -/
def State.byDefault (s : State) : State ⊕ Act :=
  match s.considered.findSome? (changes s) with
  | some s' => .inl s'
  | none => match s.issues with
    | [] => .inr (.elapse 1)
    | l => .inr (l.getD (s.cycles % l.length) (.elapse 1))

end Sys2Proof.Machine
end

