-- ==== Sys2Proof/Machine/Run.lean ====
section
/-!
DEFINITION. What one act of the agenda does, words of one cycle (R388), and the team that a test word is placed in
(DESIGN CHOICE, log entry 2).
-/
namespace Sys2Proof.Machine

/-- What issuing leads to: the meaning of the decoded instruction, or the state in which nothing is executed. -/
def Issue.outcome : Issue → Host.Outcome State Fault Refusal
  | .run i s => exec i s
  | .still s => .next s

/-- The next of several things that happen in one step. -/
def andThen (o : Host.Outcome State Fault Refusal) (f : State → Host.Outcome State Fault Refusal) : Host.Outcome State Fault Refusal :=
  match o with
  | .next s => f s
  | .fault e => .fault e
  | .refused e => .refused e

/-- Words of splits of a team, in the order given. -/
def runLanes (c t : Nat) : List Nat → State → Host.Outcome State Fault Refusal
  | [], s => .next s
  | i :: r, s => andThen (issueLane s c t i).outcome (runLanes c t r)

/-- Words that issue in one cycle: their traps wait until all have issued, and are then delivered one at a time (R388). -/
def runSame (s : State) (c t : Nat) (scalar : Bool) (splits : List Nat) : Host.Outcome State Fault Refusal :=
  let first (s : State) : Host.Outcome State Fault Refusal := if scalar then (issueScalar s c t).outcome else .next s
  andThen (andThen (first { s with gather := true }) (runLanes c t (sortNats splits)))
    fun s => .next (deliverNext { s with gather := false } c t)

/-- What an act of the agenda does. -/
def runAct (s : State) : Act → Host.Outcome State Fault Refusal
  | .event i => exec i s
  | .scalar c t => (issueScalar s c t).outcome
  | .lane c t i => (issueLane s c t i).outcome
  | .same c t scalar splits => runSame s c t scalar splits
  | .peerWrite pa bs mark => .next (s.perform (.peerWrite pa bs mark))
  | .walkRace values => .next (s.perform (.walkRace values))
  | .elapse n => .next (s.perform (.elapse n))
  | .evictL1 c x => .next (s.perform (.evictL1 c x))
  | .evictRdc d x => .next (s.perform (.evictRdc d x))
  | .evictL2 d x => .next (s.perform (.evictL2 d x))
  | .evictTlb c i => .next (s.perform (.evictTlb c i))
  | .evictDieTlb d i => .next (s.perform (.evictDieTlb d i))
  | .evictUpper d i => .next (s.perform (.evictUpper d i))
  | .evictCode c x => .next (s.perform (.evictCode c x))
  | .evictLaneCode c x => .next (s.perform (.evictLaneCode c x))
  | .evictNode q x => .next (s.perform (.evictNode q x))
  | .portLink p up => .next (s.perform (.portLink p up))

/-- What has waited for something that another act has ended is tried again: mailbox requests (R401), kill requests (R423), descriptors of replicated
launches (R341). -/
def State.serve (s : State) : State := s.serveMail.serveKills.serveIncoming

/-- One step: a cycle passes, what waits is tried again, and the head of the agenda happens, or what the default agenda says (DESIGN CHOICE, log
entry 1). Each step draws free values of its own (DESIGN CHOICE, log entry 3). -/
def stepOf (s : State) : Host.Outcome State Fault Refusal :=
  let s1 := { s with cycles := s.cycles + 1, free := s.free + 1 }.serve
  match s.agenda with
  | a :: rest => runAct { s1 with agenda := rest } a
  | [] => match s1.byDefault with
    | .inl s' => .next s'
    | .inr a => runAct s1 a

/-! ### A word placed where the next step fetches it (DESIGN CHOICE, log entry 2) -/

/-- The core, TEAM_INDEX, virtual address and frame offset of a placed word. -/
def placedCore : Nat := 0
def placedTeam : Nat := 0
def placedVa : Nat := 0x10000

/-- The physical address of a placed word: in the HBM of die 0. -/
def State.placedPa (s : State) : Nat := s.boot.podSlot * 2 ^ 46 + 0x10000

/-- The team that issues a placed word: 32 lanes, 56 scalar and 32 lane registers, runtime mode. -/
def placedId : TeamId :=
  { index := 0, lanes := 32, sregs := 56, vregs := 32, trapres := false, launch := 0, gen := 0, queue := 0, asid := 0, runtime := true,
    cx := 0, cy := 0, rank := 0, order := 0, regwin := 0, strapvec := 0, saveBase := 0, entry := wordN placedVa }

/-- The partition of the core of a placed word: one register window, then scratchpad, then L1. -/
def placedPart : Partition :=
  { launch := 0, clusters := false, mode := 0, spBase := 16384, spSize := 0, trapBase := 16384, l1Base := 16384, cx := 0, cy := 0,
    setup := true, setupAt := 0 }

/-- The translation of a placed word's page: readable, writable, executable, for user teams too. -/
def State.placedTlb (s : State) : TlbEntry := ⟨0, 3, 1, wordN (s.placedPa + 0x1FB), 0⟩

/-- The team, about to issue a lane word of its split 0 or a scalar word. -/
def State.placedState (s : State) (lane : Bool) : Team :=
  let m := Team.start placedId (Lease.start false 0 s.cycles) s.cycles
  let m := { m with sched := { m.sched with state := .active } }
  if lane then { m with ctl := m.ctl.startUser [⟨wordN placedVa, [], 0, 0⟩] } else m

/-- The bytes of a placed word: a scalar word's four, or a lane word's twelve. -/
def placedBytes (nbits : Nat) : Nat := if nbits ≤ 32 then 4 else 12

/-- The word's bytes in memory, the core that runs the team, and the agenda's head. -/
def State.placeWord (s : State) (bs : List Byte) (lane : Bool) : State :=
  let s := { s with mem := { s.mem.write s.placedPa bs false with ranges := [] }, gather := false }
  let s := s.setCore placedCore
    { (s.core placedCore).setUp placedPart with
      teams := [(placedTeam, some (s.placedState lane))]
      tlb := s.placedTlb :: (s.core placedCore).tlb
      health := { (s.core placedCore).health with pauseUntil := 0 } }
  { s with agenda := (if lane then .lane placedCore placedTeam 0 else .scalar placedCore placedTeam) :: s.agenda }

end Sys2Proof.Machine
end

