-- ==== Sys2Proof/Machine/Step.lean ====
section
/-!
DEFINITION. One step of the machine, and a word placed where the next step fetches it.
-/
namespace Sys2Proof.Machine

/-- One step of the machine. -/
def step (s : State) : Host.Outcome State Fault Refusal := stepOf s

/-- The state with an instruction where the next step fetches it: a scalar word of 32 bits or a lane word of 96, in a team of
core 0 whose turn is next (DESIGN CHOICE, log entry 2). -/
def State.withFetchWord (s : State) (nbits w : Nat) : State :=
  s.placeWord (leBytes (placedBytes nbits) (w % 2 ^ nbits)) (decide (32 < nbits))

end Sys2Proof.Machine
end

