-- ==== Sys2Proof/Safety.lean ====
section
/-!
DEFINITION. The words that statements about the machine are made of: what holds of every state of a run, when a word of a stream may take
effect, and what it leaves as it was.
-/
namespace Sys2Proof.Machine

/-- The memory keeps its canonical form. -/
abbrev State.MemoryWf (s : State) : Prop := s.mem.wf = true

/-! ### What is left as it was -/

/-- Memory, every other core, the engines of the clusters, the dies, the stations, the ports, the management registers, power and the
schedulers are as before: nothing but core c differs. -/
structure OnlyCore (s s' : State) (c : Nat) : Prop where
  mem : s'.mem = s.mem
  cores : ∀ q, q ≠ c → s'.core q = s.core q
  clusters : s'.clusters = s.clusters
  dies : s'.dies = s.dies
  stations : s'.stations = s.stations
  ports : s'.ports = s.ports
  boot : s'.boot = s.boot
  power : s'.power = s.power
  sched : s'.sched = s.sched
  out : s'.out = s.out

/-- Of a core, nothing but team t and the register slots `slots` differs: every other dword of its core store and its mark, the sector
marks, accumulator memory, the partition, barriers, engines, stores on their way, caches, translations and health are as before. -/
structure OnlyTeam (k k' : Core) (t : Nat) (slots : List Nat) : Prop where
  store : ∀ u, u ∉ slots → k'.store.get 0 u = k.store.get 0 u ∧ k'.unitMarks.get false u = k.unitMarks.get false u
  sectors : k'.sectorMarks = k.sectorMarks
  acc : k'.acc = k.acc ∧ k'.accMarks = k.accMarks
  part : k'.part = k.part
  teams : ∀ u, u ≠ t → k'.teams.get none u = k.teams.get none u
  barriers : k'.barriers = k.barriers
  engines : k'.matrix = k.matrix ∧ k'.streams = k.streams ∧ k'.divider = k.divider
  inflight : k'.inflight = k.inflight
  caches : k'.l1 = k.l1 ∧ k'.l1Gen = k.l1Gen ∧ k'.icache = k.icache ∧ k'.lcache = k.lcache ∧ k'.tlb = k.tlb
  health : k'.health = k.health

/-- Of a team, nothing but its scalar-side registers, its control store, its outstanding long results and what scheduling notes differs:
identity, lease, SEQ, region, rings, counts, the trap registers and the traps that wait are as before. -/
structure OnlyStreams (m m' : Team) : Prop where
  id : m'.id = m.id
  lease : m'.lease = m.lease
  seq : m'.seq = m.seq
  region : m'.region = m.region
  rings : m'.rings = m.rings ∧ m'.wdq = m.wdq ∧ m'.tally = m.tally
  home : m'.home = m.home ∧ m'.mismatch = m.mismatch
  trap : { m'.trap with skipDebug := m.trap.skipDebug } = m.trap
  active : m'.sched.state = m.sched.state ∧ m'.sched.started = m.sched.started

/-! ### Scalar words -/

/-- A scalar word of team t of core c may take effect (R36, R41, R43, R304, R426): the stream in focus is the team's, the registers that it
names are the team's and await no long result, nor do its guard and the predicates that it reads or writes (`kwrites`), its guard reads true without a
mark, and where the policy traps consumption no source and no predicate that it reads is marked. -/
structure ScalarReady (s : State) (c t : Nat) (m : Team) (named srcs kreads : List Nat) (guard : Nat) (kwrites : List Nat := []) : Prop where
  focus : ∃ i, s.focus = some ⟨c, t, i⟩
  team : s.team c t = some m
  legal : ∀ i ∈ named, m.scalarOk i = true
  idle : ∀ i ∈ named, m.regs.slongs.getLsbD i = false
  kidle : ∀ n ∈ guard :: kreads ++ kwrites, m.regs.klongs.getLsbD n = false
  taken : m.regs.pred guard = true
  unmarked : m.regs.predMark guard = false
  clean : m.ctl.policy.getLsbD 0 = true → (∀ i ∈ srcs, (s.sreg c m i).mark = false) ∧ ∀ n ∈ kreads, m.regs.predMark n = false

/-- A scalar word has completed: the machine goes on in a state in which the team's scalar-side registers are `regs`, the scalar registers
`ws` have been written, a switch marker has parked the team, and all else is as before. -/
def ScalarCompletes (o : Host.Outcome State Fault Refusal) (s : State) (c t : Nat) (m : Team) (w : Bool) (regs : TeamRegs)
    (ws : List (Nat × Marked)) : Prop :=
  ∃ s' m', o = .next s' ∧ s'.team c t = some m' ∧ m'.regs = regs ∧ m'.ctl = m.ctl ∧ m'.pend = m.pend ∧ OnlyStreams m m' ∧
    m'.sched.parked = (m.sched.parked || w) ∧ m'.sched.hold = none ∧
    (∀ e ∈ ws, s'.sreg c m e.1 = e.2) ∧ OnlyTeam (s.core c) (s'.core c) t (ws.map fun e => m.sUnit e.1) ∧ OnlyCore s s' c

/-- A scalar word has had the effect that `s1` holds, and its stream goes on at `pc`, the team parked if the word has W; nothing else
changes but what the scheduler notes. -/
def ScalarGoesOn (o : Host.Outcome State Fault Refusal) (s1 : State) (c t : Nat) (pc : Word) (w : Bool) : Prop :=
  ∃ s' m1 m', o = .next s' ∧ s1.team c t = some m1 ∧ s'.team c t = some m' ∧ m'.regs = { m1.regs with spc := pc } ∧ m'.ctl = m1.ctl ∧
    m'.pend = m1.pend ∧ OnlyStreams m1 m' ∧ m'.sched.parked = (m1.sched.parked || w) ∧ m'.sched.hold = none ∧
    OnlyTeam (s1.core c) (s'.core c) t [] ∧ OnlyCore s1 s' c

/-- A scalar word has written register d and gone on to the next word. -/
abbrev WritesScalar (o : Host.Outcome State Fault Refusal) (s : State) (c t : Nat) (m : Team) (w : Bool) (d : Nat) (v : Marked) : Prop :=
  ScalarCompletes o s c t m w { m.regs with spc := m.regs.spc + 4 } [(d, v)]

/-- A scalar word has written predicate n and gone on to the next word; a write of k0 is discarded. -/
abbrev WritesPredicate (o : Host.Outcome State Fault Refusal) (s : State) (c t : Nat) (m : Team) (w : Bool) (n : Nat) (v mark : Bool) :
    Prop :=
  ScalarCompletes o s c t m w { m.regs.setPred n v mark with spc := m.regs.spc + 4 } []

/-! ### Lane words -/

/-- The lanes in which a word of a split runs: those of its mask that are live, below LANES, and have a true guard (R34, R41, R89). -/
def runningLanes (m : Team) (p : Split) (f : Lane) : List Nat := (lanesOf (m.active p) m.id.lanes).filter (laneGuard m f)

/-- A lane word of split i may take effect (R35, R36, R38, R43, R304, R307, R426): the split in focus is the team's, each source and the
destination name what the team may name, no register among them awaits a long result, nor does a predicate that it names, latch entries read are of
age at most 1 (and so at most 2 for this word), no active lane's guard is marked, and where the policy traps consumption no running lane reads a mark. `srcs`: the sources that
are operands; `eat`: those that are consumed; `dst`: vd is a destination register; `preds`: predicates read as operands. -/
structure LaneReady (s : State) (c t : Nat) (m : Team) (i : Nat) (p : Split) (f : Lane) (srcs eat : List Src) (dst : Bool)
    (preds : List Nat) : Prop where
  focus : s.focus = some ⟨c, t, some i⟩
  team : s.team c t = some m
  split : m.ctl.split i = some p
  sources : ∀ y ∈ srcs, srcOk m f false y = true
  dest : dst = true → dstOk m f.vd.toNat false = true
  latched : ∀ y ∈ srcs, latchOf f y = true → ∃ e, p.latches.getD (codeOf f y % 4) none = some e ∧ e.age ≤ 1
  idle : ∀ y ∈ srcs, latchOf f y = false → codeOf f y < 240 → p.longs.getLsbD (codeOf f y) = false
  idleDest : dst = true → f.vd.toNat < 240 → p.longs.getLsbD f.vd.toNat = false
  pidle : ∀ n ∈ f.pg.toNat :: f.pd.toNat :: preds, n ≠ 0 → p.longs.getLsbD (240 + n) = false
  unmarked : ∀ l ∈ lanesOf (m.active p) m.id.lanes, m.ctl.predMark f.pg.toNat l = false
  clean : m.ctl.policy.getLsbD 0 = true → ∀ l ∈ runningLanes m p f,
    (∀ y ∈ eat, (laneSource s c m p f y l).mark = false) ∧ ∀ n ∈ preds, m.ctl.predMark n l = false

/-- The slots of vd that a lane word writes. -/
def destSlots (m : Team) (p : Split) (f : Lane) : List Nat :=
  if f.vd.toNat < 240 then (runningLanes m p f).map (m.vUnit f.vd.toNat) else []

/-- The lanes that a word of a split runs in: the running lanes, or every active lane for a word that has no guard. -/
def issuedLanes (m : Team) (p : Split) (f : Lane) (guarded : Bool) : List Nat :=
  if guarded then runningLanes m p f else lanesOf (m.active p) m.id.lanes

/-- The split as the body of a word finds it: its latches held and aged, the registers `longs` (predicates from 240 on) marked as awaiting a long
result, its spin detector restarted by a `noisy` word. -/
def heldSplit (s : State) (c : Nat) (m : Team) (p : Split) (f : Lane) (longs : List Nat) (guarded : Bool := true) (noisy : Bool := false) : Split :=
  { p with
    latches := holdLatches p f (issuedLanes m p f guarded) (laneSource s c m p f)
    skipDebug := false
    longs := longs.foldl (fun b j => setBit b j true) p.longs
    spin := p.spin.noise noisy }

/-- The state as the body of a lane word finds it: the word has issued (R303, R306, R307). -/
def heldState (s : State) (c t : Nat) (m : Team) (i : Nat) (p : Split) (f : Lane) (longs : List Nat) (guarded : Bool := true) (noisy : Bool := false) :
    State :=
  let s1 := if f.lr = 0 then s else { s with free := s.free + 1024 }
  s1.modTeam c t fun n => { n with
    ctl := { n.ctl.setSplit i (some (heldSplit s c m p f longs guarded noisy)) with turn := if f.w then (i + 1) % 16 else i }
    sched := { n.sched with lastLane := s1.cycles, parked := n.sched.parked || f.w } }

/-- The context that a word's body runs in. -/
def heldCtx (s : State) (c t : Nat) (m : Team) (i : Nat) (p : Split) (f : Lane) (longs : List Nat) (guarded : Bool := true) (noisy : Bool := false) :
    LaneCtx :=
  ⟨c, t, m, i, heldSplit s c m p f longs guarded noisy, f, issuedLanes m p f guarded, laneSource s c m p f⟩

/-- The place of a split changed. -/
def placeSplit (s : State) (c t i : Nat) (pc : Word) : State := s.modTeam c t fun m => m.modCtl fun y =>
  match y.split i with
  | some q => y.setSplit i (some { q with lpc := pc })
  | none => y

/-- A lane word of split i issues with the uses `u` and `sp`: the split in focus is the team's, no check of R43 fails, and no guard is marked. -/
structure LaneIssues (s : State) (c t : Nat) (m : Team) (i : Nat) (p : Split) (f : Lane) (u : LaneUse) (sp : LaneSpec) : Prop where
  focus : s.focus = some ⟨c, t, some i⟩
  team : s.team c t = some m
  split : m.ctl.split i = some p
  passes : laneCheck s ⟨c, t, m, i, p, f, issuedLanes m p f sp.guarded, laneSource s c m p f⟩ u sp (lanesOf (m.active p) m.id.lanes) = none
  unmarked : sp.guarded = true → ∀ l ∈ lanesOf (m.active p) m.id.lanes, m.ctl.predMark f.pg.toNat l = false

/-- A lane word of split i has had the effect that `s1` holds, and the split goes on at `pc`; nothing else changes. -/
def LaneGoesOn (o : Host.Outcome State Fault Refusal) (s1 : State) (c t i : Nat) (pc : Word) : Prop :=
  ∃ s' m1 p1, o = .next s' ∧ s1.team c t = some m1 ∧ m1.ctl.split i = some p1 ∧
    s'.team c t = some { m1 with ctl := m1.ctl.setSplit i (some { p1 with lpc := pc }) } ∧
    OnlyTeam (s1.core c) (s'.core c) t [] ∧ OnlyCore s1 s' c

/-- A split after a word that neither divided nor ended it: it is at `pc`, with the same lanes, record and side, and `longs` awaited. -/
structure SplitAt (p q : Split) (pc : Word) (longs : BitVec 256) : Prop where
  lpc : q.lpc = pc
  mask : q.mask = p.mask
  join : q.join = p.join
  handler : q.handler = p.handler
  longs : q.longs = longs

/-- The control store is as before but for split i, which is now q, and for its predicates. -/
structure OnlySplit (x x' : Ctl) (i : Nat) (q : Split) : Prop where
  split : x'.split i = some q
  others : ∀ j, j ≠ i → x'.split j = x.split j
  live : x'.live = x.live
  joins : x'.joins = x.joins ∧ x'.spills = x.spills
  blocks : x'.queue = x.queue ∧ x'.running = x.running ∧ x'.hqueue = x.hqueue ∧ x'.hrunning = x.hrunning
  policy : x'.policy = x.policy ∧ x'.cpois = x.cpois ∧ x'.subst = x.subst

/-- A lane word has completed: in every lane in which it runs it has written `d` to vd and `k` (value and mark) to its predicate, FPFLAGS has
gained `fl`, the split goes on at the next word, a switch marker has parked the team, and all else is as before. A write of z or of p0 is
discarded. -/
def LaneCompletes (o : Host.Outcome State Fault Refusal) (s : State) (c t : Nat) (m : Team) (i : Nat) (p : Split) (f : Lane)
    (d : Nat → Option Marked) (k : Nat → Option (Bool × Bool)) (fl : Flags) : Prop :=
  ∃ s' m' q, o = .next s' ∧ s'.team c t = some m' ∧ SplitAt p q (p.lpc + 12) p.longs ∧ OnlySplit m.ctl m'.ctl i q ∧
    (∀ l ∈ runningLanes m p f, f.vd.toNat < 240 → s'.vreg c m f.vd.toNat l = (d l).getD (s.vreg c m f.vd.toNat l)) ∧
    (∀ n l, n ≤ 7 →
      (m'.ctl.pred n l, m'.ctl.predMark n l) =
        if n = f.pd.toNat ∧ n ≠ 0 ∧ l ∈ runningLanes m p f then (k l).getD (m.ctl.pred n l, m.ctl.predMark n l)
        else (m.ctl.pred n l, m.ctl.predMark n l)) ∧
    m'.regs = { m.regs with fpflags := m.regs.fpflags ||| fl.setWidth 64 } ∧ m'.pend = m.pend ∧ OnlyStreams m m' ∧
    m'.sched.parked = (m.sched.parked || f.w) ∧ m'.sched.hold = m.sched.hold ∧
    OnlyTeam (s.core c) (s'.core c) t (destSlots m p f) ∧ OnlyCore s s' c

/-- A lane word has written vd in the lanes in which it runs, and no predicate and no flag. -/
abbrev WritesLanes (o : Host.Outcome State Fault Refusal) (s : State) (c t : Nat) (m : Team) (i : Nat) (p : Split) (f : Lane)
    (d : Nat → Marked) : Prop :=
  LaneCompletes o s c t m i p f (fun l => some (d l)) (fun _ => none) 0

/-- A run of k steps never stops. -/
def State.runs (s : State) : Nat → Prop
  | 0 => True
  | k + 1 => match step s with
    | .next t => t.runs k
    | _ => False

end Sys2Proof.Machine
end

