-- ==== Sys2Proof/Certificates/Slice0/Obligations.lean ====
section
/-!
DEFINITION. The statements about the machine, chapter by chapter of the manual: for every instruction, the state that it leaves, and what it
leaves as it was.
-/
namespace Sys2Proof.Machine

/-! ### Integer words (chapter 04) -/

/-- A scalar word with two sources writes `fn` of them, with the OR of their marks. -/
def ScalarBinary (i : SA → Instr) (fn : Word → Word → Word) : Prop :=
  ∀ (f : SA) (s : State) (c t : Nat) (m : Team),
    ScalarReady s c t m [f.a.toNat, f.b.toNat, f.d.toNat] [f.a.toNat, f.b.toNat] [] f.g.toNat →
    WritesScalar (exec (i f) s) s c t m f.w f.d.toNat
      ⟨fn (s.sreg c m f.a.toNat).val (s.sreg c m f.b.toNat).val,
       (s.sreg c m f.a.toNat).mark || (s.sreg c m f.b.toNat).mark⟩

/-- A scalar word with two sources writes the value whose bits are `bit` of them, with the OR of their marks. -/
def ScalarBits (i : SA → Instr) (bit : Word → Word → Nat → Bool) : Prop :=
  ∀ (f : SA) (s : State) (c t : Nat) (m : Team),
    ScalarReady s c t m [f.a.toNat, f.b.toNat, f.d.toNat] [f.a.toNat, f.b.toNat] [] f.g.toNat →
    ∃ v : Word, (∀ n, n < 64 → v.getLsbD n = bit (s.sreg c m f.a.toNat).val (s.sreg c m f.b.toNat).val n) ∧
      WritesScalar (exec (i f) s) s c t m f.w f.d.toNat ⟨v, (s.sreg c m f.a.toNat).mark || (s.sreg c m f.b.toNat).mark⟩

/-- A scalar word with two sources and the old destination writes the value whose bits are `bit` of them, with the OR of their marks. -/
def ScalarBits3 (i : SA → Instr) (bit : Word → Word → Word → Nat → Bool) : Prop :=
  ∀ (f : SA) (s : State) (c t : Nat) (m : Team),
    ScalarReady s c t m [f.a.toNat, f.b.toNat, f.d.toNat] [f.a.toNat, f.b.toNat, f.d.toNat] [] f.g.toNat →
    ∃ v : Word, (∀ n, n < 64 →
        v.getLsbD n = bit (s.sreg c m f.a.toNat).val (s.sreg c m f.b.toNat).val (s.sreg c m f.d.toNat).val n) ∧
      WritesScalar (exec (i f) s) s c t m f.w f.d.toNat
        ⟨v, (s.sreg c m f.a.toNat).mark || (s.sreg c m f.b.toNat).mark || (s.sreg c m f.d.toNat).mark⟩

/-- A scalar word with one source writes a value in the relation `is` to it, with its mark. -/
def ScalarUnary (i : SA → Instr) (is : Word → Word → Prop) : Prop :=
  ∀ (f : SA) (s : State) (c t : Nat) (m : Team),
    ScalarReady s c t m [f.a.toNat, f.d.toNat] [f.a.toNat] [] f.g.toNat →
    ∃ v : Word, is (s.sreg c m f.a.toNat).val v ∧
      WritesScalar (exec (i f) s) s c t m f.w f.d.toNat ⟨v, (s.sreg c m f.a.toNat).mark⟩

/-- The field that a control value names at width w (R97): POS and the number of its bits below bit w. -/
def controlField (w : Nat) (c : Word) : Nat × Nat :=
  let pos := c.toNat % 128
  (pos, if w ≤ pos then 0 else min (c.toNat / 256 % 128) (w - pos))

/-- Bit n of an extracted field (R97). -/
def extractedBit (a c : Word) (n : Nat) : Bool :=
  let e := controlField 64 c
  if n < e.2 then a.getLsbD (e.1 + n) else c.getLsbD 16 && decide (0 < e.2) && a.getLsbD (e.1 + e.2 - 1)

/-- A value with a field replaced (R97). -/
def insertedBit (a c old : Word) (n : Nat) : Bool :=
  let e := controlField 64 c
  if e.1 ≤ n ∧ n < e.1 + e.2 then a.getLsbD (n - e.1) else old.getLsbD n

/-- The number of a word's leading zeros: every bit above the highest one bit. -/
def LeadingZeros (a v : Word) : Prop :=
  v.toNat ≤ 64 ∧ (∀ n, 64 - v.toNat ≤ n → a.getLsbD n = false) ∧ (v.toNat < 64 → a.getLsbD (63 - v.toNat) = true)

/-- The number of a word's trailing zeros: every bit below the lowest one bit. -/
def TrailingZeros (a v : Word) : Prop :=
  v.toNat ≤ 64 ∧ (∀ n, n < v.toNat → a.getLsbD n = false) ∧ (v.toNat < 64 → a.getLsbD v.toNat = true)

/-- A scalar word with a source and a sign-extended immediate writes `fn` of them. -/
def ScalarImmediate (i : SI → Instr) (fn : Word → Word → Word) : Prop :=
  ∀ (f : SI) (s : State) (c t : Nat) (m : Team), ScalarReady s c t m [f.a.toNat, f.d.toNat] [f.a.toNat] [] 0 →
    WritesScalar (exec (i f) s) s c t m f.w f.d.toNat
      ⟨fn (s.sreg c m f.a.toNat).val (f.i.signExtend 64), (s.sreg c m f.a.toNat).mark⟩

/-- A scalar word with a source and an amount of 0 to 63 writes `fn` of them. -/
def ScalarShiftImmediate (i : SSh → Instr) (fn : Word → Nat → Word) : Prop :=
  ∀ (f : SSh) (s : State) (c t : Nat) (m : Team), ScalarReady s c t m [f.a.toNat, f.d.toNat] [f.a.toNat] [] 0 →
    WritesScalar (exec (i f) s) s c t m f.w f.d.toNat
      ⟨fn (s.sreg c m f.a.toNat).val f.amount.toNat, (s.sreg c m f.a.toNat).mark⟩

/-- The conditions of `s.cmp` (R102). -/
def conditionTrue (cond : Cond) (a b : Word) : Prop :=
  match cond with
  | .eq => a = b
  | .ne => a ≠ b
  | .lt => a.toInt < b.toInt
  | .ge => b.toInt ≤ a.toInt
  | .ltN => a.toNat < b.toNat
  | .geN => b.toNat ≤ a.toNat
  | .tst => a &&& b ≠ 0
  | .ntst => a &&& b = 0

/-- The operations on scalar predicates (R105). -/
def predicateOp (o : KOp) (a b : Bool) : Bool :=
  match o with
  | .and => a && b
  | .or => a || b
  | .xor => a ^^ b
  | .andn => a && !b
  | .orn => a || !b
  | .nand => !(a && b)
  | .nor => !(a || b)
  | .xnor => !(a ^^ b)
  | .not => !a

/-- A divide word (R95, R87): with a divisor of zero it raises INT_DIVIDE with TRAP_ADDR 0 and nothing else; while the divider is busy it
waits; else its destination awaits a long result, and the divider holds the quotient or remainder (as the bits of `result`, with the OR of the
sources' marks) for 34 cycles. No register value changes at issue. -/
def ScalarDivide (i : SA → Instr) (result : Word → Word → Int) : Prop :=
  ∀ (f : SA) (s : State) (c t : Nat) (m : Team),
    ScalarReady s c t m [f.a.toNat, f.b.toNat, f.d.toNat] [f.a.toNat, f.b.toNat] [] f.g.toNat →
    let a := s.sreg c m f.a.toNat
    let b := s.sreg c m f.b.toNat
    (b.val = 0 → exec (i f) s = .next (raise s c t m ⟨⟨.intDivide, 0, 0⟩, none, some m.regs.spc⟩)) ∧
    (b.val ≠ 0 → (s.core c).divider ≠ none → exec (i f) s = .next (scalarHold s c t .divider f.w)) ∧
    (b.val ≠ 0 → (s.core c).divider = none →
      ∃ s' m', exec (i f) s = .next s' ∧ s'.team c t = some m' ∧
        m'.regs = { m.regs with spc := m.regs.spc + 4, slongs := setBit m.regs.slongs f.d.toNat true } ∧
        m'.pend = m.pend ++ [⟨s.ticket, [(f.d.toNat, ⟨BitVec.ofInt 64 (result a.val b.val), a.mark || b.mark⟩)], [], [], [], false, false, false⟩] ∧
        m'.sched.parked = (m.sched.parked || f.w) ∧ m'.ctl = m.ctl ∧ OnlyStreams m m' ∧
        (s'.core c).divider = some (t, s.ticket, s.cycles + 34) ∧
        (∀ u, (s'.core c).dword u = (s.core c).dword u) ∧ OnlyCore s s' c)

/-! ### Lane words, operand by operand -/

/-- Source b of a class I word in a lane: an operand, or with x the immediate sign-extended (R40, R90). -/
def operandB (s : State) (c : Nat) (m : Team) (p : Split) (f : Lane) (l : Nat) : Marked :=
  if f.x then ⟨f.imm.signExtend 64, false⟩ else laneSource s c m p f .b l

/-- The sources of a word that takes b as an immediate with x. -/
def sourcesAB (f : Lane) : List Src := if f.x then [.a] else [.a, .b]

/-- The exact integer that the low w bits of a value denote (R90), with w and the signedness those of the word's type. -/
def laneInt (f : Lane) (v : Word) : Int :=
  let w := ityWidth f.ty.toNat
  let n := v.toNat % 2 ^ w
  if itySigned f.ty.toNat ∧ 2 ^ (w - 1) ≤ n then (n : Int) - 2 ^ w else n

/-- The least and greatest values of the word's type (R79). -/
def laneMin (f : Lane) : Int := if itySigned f.ty.toNat then -2 ^ (ityWidth f.ty.toNat - 1) else 0
def laneMax (f : Lane) : Int := if itySigned f.ty.toNat then 2 ^ (ityWidth f.ty.toNat - 1) - 1 else 2 ^ ityWidth f.ty.toNat - 1

/-- A result as the register holds it (R81): its low w bits, extended by sign or by zeros. -/
def laneResult (f : Lane) (x : Int) : Word :=
  BitVec.ofInt 64 (laneInt f (BitVec.ofInt 64 x))

/-- A result clamped to the word's type where it has sat set (R86). -/
def laneClamp (f : Lane) (x : Int) : Int := if f.sat then max (laneMin f) (min (laneMax f) x) else x

/-- A binary class I word (R107): in each lane in which it runs it writes the result of `op` on the exact integers of its sources. -/
def LaneBinary (i : Lane → Instr) (op : Lane → Int → Int → Int) : Prop :=
  ∀ (f : Lane) (s : State) (c t : Nat) (m : Team) (j : Nat) (p : Split),
    LaneReady s c t m j p f (sourcesAB f) (sourcesAB f) true [] →
    WritesLanes (exec (i f) s) s c t m j p f fun l =>
      let a := laneSource s c m p f .a l
      let b := operandB s c m p f l
      ⟨laneResult f (laneClamp f (op f (laneInt f a.val) (laneInt f b.val))), a.mark || b.mark⟩

/-- The w-bit pattern of a value, w the width of the word's type. -/
def lanePattern (f : Lane) (v : Word) : Word := BitVec.ofNat 64 (v.toNat % 2 ^ ityWidth f.ty.toNat)

/-- A class I word whose result is given bit by bit: its bits below w are `bit` of the w-bit patterns of its sources. -/
def LaneBits (i : Lane → Instr) (bit : Lane → Word → Word → Nat → Bool) : Prop :=
  ∀ (f : Lane) (s : State) (c t : Nat) (m : Team) (j : Nat) (p : Split),
    f.sat = false → LaneReady s c t m j p f (sourcesAB f) (sourcesAB f) true [] →
    ∃ v : Nat → Word,
      (∀ l n, n < ityWidth f.ty.toNat →
        (v l).getLsbD n = bit f (lanePattern f (laneSource s c m p f .a l).val) (lanePattern f (operandB s c m p f l).val) n) ∧
      WritesLanes (exec (i f) s) s c t m j p f fun l =>
        ⟨laneResult f (v l).toInt, (laneSource s c m p f .a l).mark || (operandB s c m p f l).mark⟩

/-- A shift of width w (R91): b is the unsigned w-bit amount. -/
def LaneShift (i : Lane → Instr) (fn : Nat → Nat → Nat → Int) : Prop :=
  ∀ (f : Lane) (s : State) (c t : Nat) (m : Team) (j : Nat) (p : Split),
    f.sat = false → LaneReady s c t m j p f (sourcesAB f) (sourcesAB f) true [] →
    WritesLanes (exec (i f) s) s c t m j p f fun l =>
      let w := ityWidth f.ty.toNat
      let a := laneSource s c m p f .a l
      let b := operandB s c m p f l
      ⟨laneResult f (fn w (a.val.toNat % 2 ^ w) (b.val.toNat % 2 ^ w)), a.mark || b.mark⟩

/-- A one-source class I word: it writes a value in the relation `is`, at width w, to the w-bit pattern of its source. -/
def LaneUnary (i : Lane → Instr) (is : Nat → Nat → Nat → Prop) : Prop :=
  ∀ (f : Lane) (s : State) (c t : Nat) (m : Team) (j : Nat) (p : Split),
    LaneReady s c t m j p f [.a] [.a] true [] →
    ∃ v : Nat → Nat,
      (∀ l, is (ityWidth f.ty.toNat) ((laneSource s c m p f .a l).val.toNat % 2 ^ ityWidth f.ty.toNat) (v l)) ∧
      WritesLanes (exec (i f) s) s c t m j p f fun l => ⟨laneResult f (v l), (laneSource s c m p f .a l).mark⟩

/-- The conditions of `v.icmp` (R112) on w-bit sources. -/
def laneCondition (f : Lane) (code : Nat) (a b : Word) : Prop :=
  match code with
  | 0 => laneInt f a = laneInt f b
  | 1 => laneInt f a ≠ laneInt f b
  | 2 => laneInt f a < laneInt f b
  | 3 => laneInt f b ≤ laneInt f a
  | 4 => laneInt f a ≤ laneInt f b
  | 5 => laneInt f b < laneInt f a
  | 6 => lanePattern f a &&& lanePattern f b ≠ 0
  | _ => lanePattern f a &&& lanePattern f b = 0

/-- The operations of `v.pop` by code (R114). -/
def lanePredicateOp (code : Nat) (a b : Bool) : Bool :=
  match code with
  | 0 => a && b
  | 1 => a || b
  | 2 => a ^^ b
  | 3 => a && !b
  | 4 => a || !b
  | 5 => !(a && b)
  | 6 => !(a || b)
  | _ => !(a ^^ b)

/-- The width of the fields of an interleave: half the word, or a third of it with x (R111). -/
def interleaveBits (f : Lane) : Nat :=
  if f.x then (if ityWidth f.ty.toNat = 64 then 21 else 10) else ityWidth f.ty.toNat / 2

end Sys2Proof.Machine

open Sys2Proof Sys2Proof.Machine

/-- R94: the two-source integer words. -/
def Sys2Proof.Machine.ScalarIntegerWordsWriteTheirResult : Prop :=
  ScalarBinary .sAdd (fun a b => a + b) ∧ ScalarBinary .sSub (fun a b => a - b) ∧
  ScalarBinary .sAnd (fun a b => a &&& b) ∧ ScalarBinary .sOr (fun a b => a ||| b) ∧ ScalarBinary .sXor (fun a b => a ^^^ b) ∧
  ScalarBinary .sAndn (fun a b => a &&& ~~~b) ∧
  ScalarBinary .sShl (fun a b => a <<< b) ∧ ScalarBinary .sShr (fun a b => a >>> b) ∧
  ScalarBinary .sSra (fun a b => a.sshiftRight b.toNat) ∧ ScalarBinary .sRot (fun a b => a.rotateRight (b.toNat % 64)) ∧
  ScalarBinary .sMin (fun a b => if a.slt b then a else b) ∧ ScalarBinary .sMax (fun a b => if a.slt b then b else a) ∧
  ScalarBinary .sMinN (fun a b => if a < b then a else b) ∧ ScalarBinary .sMaxN (fun a b => if a < b then b else a) ∧
  ScalarBinary .sMul (fun a b => a * b) ∧
  ScalarBinary .sMulh (fun a b => ((a.signExtend 128 * b.signExtend 128) >>> 64).setWidth 64) ∧
  ScalarBinary .sMulhN (fun a b => ((a.setWidth 128 * b.setWidth 128) >>> 64).setWidth 64)

/-- R96, R97, R98: counts, bit fields and Morton codes, bit by bit. -/
def Sys2Proof.Machine.ScalarBitWordsWriteTheirBits : Prop :=
  ScalarUnary .sClz LeadingZeros ∧ ScalarUnary .sCtz TrailingZeros ∧
  ScalarUnary .sPopc (fun a v => v.toNat = (List.range 64).countP a.getLsbD) ∧
  ScalarUnary .sBrev (fun a v => ∀ n, n < 64 → v.getLsbD n = a.getLsbD (63 - n)) ∧
  ScalarBits .sBfx extractedBit ∧ ScalarBits3 .sBfi insertedBit ∧
  ScalarBits .sIleave (fun a b n => if n % 2 = 0 then a.getLsbD (n / 2) else b.getLsbD (n / 2)) ∧
  ScalarBits3 .sIleave3 (fun a b d n => n != 63 &&
    (if n % 3 = 0 then a.getLsbD (n / 3) else if n % 3 = 1 then b.getLsbD (n / 3) else d.getLsbD (n / 3))) ∧
  ScalarBits .sDeleave (fun a b n => decide (n < 32) && a.getLsbD (2 * n + b.toNat % 2)) ∧
  ScalarBits .sDeleave3 (fun a b n => decide (n < 21 ∧ b.toNat % 4 ≠ 3) && a.getLsbD (3 * n + b.toNat % 4))

/-- R99, R100, R101: the immediate words, and the words that form addresses. -/
def Sys2Proof.Machine.ScalarImmediateWordsWriteTheirResult : Prop :=
  ScalarImmediate .sAddImm (fun a b => a + b) ∧ ScalarImmediate .sAndImm (fun a b => a &&& b) ∧
  ScalarImmediate .sOrImm (fun a b => a ||| b) ∧ ScalarImmediate .sXorImm (fun a b => a ^^^ b) ∧
  ScalarImmediate .sMulImm (fun a b => a * b) ∧
  ScalarShiftImmediate .sShlImm (fun a n => a <<< n) ∧ ScalarShiftImmediate .sShrImm (fun a n => a >>> n) ∧
  ScalarShiftImmediate .sSraImm (fun a n => a.sshiftRight n) ∧ ScalarShiftImmediate .sRotImm (fun a n => a.rotateRight n) ∧
  (∀ (f : SL) (s : State) (c t : Nat) (m : Team), ScalarReady s c t m [f.d.toNat] [] [] 0 →
    WritesScalar (exec (.sLui f) s) s c t m f.w f.d.toNat ⟨(f.i ++ (0 : BitVec 13)).signExtend 64, false⟩ ∧
    WritesScalar (exec (.sAddpc f) s) s c t m f.w f.d.toNat ⟨m.regs.spc + 4 * f.i.signExtend 64, false⟩)

/-- R94, R96 to R101: the scalar integer words on two registers, on a control value and on an immediate. -/
def Obligations.ScalarIntegerWordsComplete : Prop := ScalarIntegerWordsWriteTheirResult ∧ ScalarBitWordsWriteTheirBits ∧ ScalarImmediateWordsWriteTheirResult

/-- R102 to R105, R92: compares write their condition and predicate logic its truth table to kd, whose write is discarded when it is k0;
`s.sel` copies the selected register with its own mark. -/
def Sys2Proof.Machine.ScalarComparesAndSelects : Prop :=
  (∀ (cond : Cond) (f : SA) (s : State) (c t : Nat) (m : Team) (v : Bool),
    ScalarReady s c t m [f.a.toNat, f.b.toNat] [f.a.toNat, f.b.toNat] [] f.g.toNat [f.d.toNat % 8] →
    (v = true ↔ conditionTrue cond (s.sreg c m f.a.toNat).val (s.sreg c m f.b.toNat).val) →
    WritesPredicate (exec (.sCmp cond f) s) s c t m f.w (f.d.toNat % 8) v
      ((s.sreg c m f.a.toNat).mark || (s.sreg c m f.b.toNat).mark)) ∧
  (∀ (cond : Cond) (k : BitVec 3) (w : Bool) (a : BitVec 6) (i : BitVec 13) (s : State) (c t : Nat) (m : Team) (v : Bool),
    ScalarReady s c t m [a.toNat] [a.toNat] [] 0 [k.toNat] →
    (v = true ↔ conditionTrue cond (s.sreg c m a.toNat).val (i.signExtend 64)) →
    WritesPredicate (exec (.sCmpImm cond k w a i) s) s c t m w k.toNat v (s.sreg c m a.toNat).mark) ∧
  (∀ (o : KOp) (f : SA) (s : State) (c t : Nat) (m : Team),
    ScalarReady s c t m [] [] (if o = .not then [f.a.toNat % 8] else [f.a.toNat % 8, f.b.toNat % 8]) f.g.toNat [f.d.toNat % 8] →
    WritesPredicate (exec (.sKop o f) s) s c t m f.w (f.d.toNat % 8)
      (predicateOp o (m.regs.pred (f.a.toNat % 8)) (m.regs.pred (f.b.toNat % 8)))
      (m.regs.predMark (f.a.toNat % 8) || (decide (o ≠ .not) && m.regs.predMark (f.b.toNat % 8)))) ∧
  (∀ (neg : Bool) (n : BitVec 3) (f : SA) (s : State) (c t : Nat) (m : Team),
    ScalarReady s c t m [f.a.toNat, f.b.toNat, f.d.toNat] [] [] f.g.toNat [n.toNat] →
    WritesScalar (exec (.sSel neg n f) s) s c t m f.w f.d.toNat
      (if (m.regs.pred n.toNat ^^ neg) = true then s.sreg c m f.a.toNat else s.sreg c m f.b.toNat))

/-- R95, R87: the divide words. -/
def Sys2Proof.Machine.ScalarDividesQueueTheirQuotient : Prop :=
  ScalarDivide .sDiv (fun a b => Int.tdiv a.toInt b.toInt) ∧ ScalarDivide .sDivN (fun a b => (a.toNat / b.toNat : Nat)) ∧
  ScalarDivide .sRem (fun a b => Int.tmod a.toInt b.toInt) ∧ ScalarDivide .sRemN (fun a b => (a.toNat % b.toNat : Nat))

/-- R87, R92, R95, R102 to R105: the compares, selects and predicate operations of the scalar stream, and its divides. -/
def Obligations.ScalarComparesSelectsAndDividesComplete : Prop := ScalarComparesAndSelects ∧ ScalarDividesQueueTheirQuotient

/-- R107, R108, R117: the arithmetic of the lane integer words. -/
def Sys2Proof.Machine.LaneArithmeticWritesItsResult : Prop :=
  LaneBinary .vAdd (fun _ a b => a + b) ∧ LaneBinary .vSub (fun _ a b => a - b) ∧ LaneBinary .vMul (fun _ a b => a * b) ∧
  LaneBinary .vMulh (fun f a b => a * b / 2 ^ ityWidth f.ty.toNat) ∧
  LaneBinary .vMin (fun _ a b => min a b) ∧ LaneBinary .vMax (fun _ a b => max a b) ∧
  (∀ (f : Lane) (s : State) (c t : Nat) (m : Team) (j : Nat) (p : Split),
    LaneReady s c t m j p f (sourcesAB f ++ [.c]) (sourcesAB f ++ [.c]) true [] →
    WritesLanes (exec (.vImad f) s) s c t m j p f fun l =>
      let a := laneSource s c m p f .a l
      let b := operandB s c m p f l
      let d := laneSource s c m p f .c l
      ⟨laneResult f (laneClamp f (laneInt f a.val * laneInt f b.val + laneInt f d.val)), a.mark || b.mark || d.mark⟩)

/-- R107 to R110: bitwise words, shifts, counts and bit fields of the lane stream, at the width of their type. -/
def Sys2Proof.Machine.LaneBitWordsWriteTheirBits : Prop :=
  LaneBits .vAnd (fun _ a b n => a.getLsbD n && b.getLsbD n) ∧ LaneBits .vOr (fun _ a b n => a.getLsbD n || b.getLsbD n) ∧
  LaneBits .vXor (fun _ a b n => a.getLsbD n ^^ b.getLsbD n) ∧ LaneBits .vAndn (fun _ a b n => a.getLsbD n && !b.getLsbD n) ∧
  LaneShift .vShl (fun _ a k => (a * 2 ^ k : Nat)) ∧ LaneShift .vShr (fun _ a k => (a / 2 ^ k : Nat)) ∧
  LaneShift .vSra (fun w a k => (if 2 ^ (w - 1) ≤ a then (a : Int) - 2 ^ w else a) / 2 ^ k) ∧
  LaneUnary .vClz (fun w a v => v ≤ w ∧ (∀ n, w - v ≤ n → a.testBit n = false) ∧ (v < w → a.testBit (w - 1 - v) = true)) ∧
  LaneUnary .vPopc (fun w a v => v = (List.range w).countP a.testBit) ∧
  LaneUnary .vBrev (fun w a v => ∀ n, n < w → v.testBit n = a.testBit (w - 1 - n)) ∧
  LaneBits .vBfx (fun f a c n =>
    let e := controlField (ityWidth f.ty.toNat) c
    if n < e.2 then a.getLsbD (e.1 + n) else itySigned f.ty.toNat && decide (0 < e.2) && a.getLsbD (e.1 + e.2 - 1)) ∧
  (∀ (f : Lane) (s : State) (c t : Nat) (m : Team) (j : Nat) (p : Split),
    LaneReady s c t m j p f (sourcesAB f ++ [.c]) (sourcesAB f ++ [.c]) true [] →
    ∃ v : Nat → Word,
      (∀ l n, n < ityWidth f.ty.toNat →
        let e := controlField (ityWidth f.ty.toNat) (lanePattern f (operandB s c m p f l).val)
        (v l).getLsbD n = if e.1 ≤ n ∧ n < e.1 + e.2 then (laneSource s c m p f .a l).val.getLsbD (n - e.1)
          else (laneSource s c m p f .c l).val.getLsbD n) ∧
      WritesLanes (exec (.vBfi f) s) s c t m j p f fun l =>
        ⟨laneResult f (v l).toInt,
         (laneSource s c m p f .a l).mark || (operandB s c m p f l).mark || (laneSource s c m p f .c l).mark⟩)

/-- R111: interleave and de-interleave of two or three fields in n32 and n64. -/
def Sys2Proof.Machine.LaneInterleavesFields : Prop :=
  (∀ (f : Lane) (s : State) (c t : Nat) (m : Team) (j : Nat) (p : Split),
    f.ty = 1 ∨ f.ty = 3 →
    LaneReady s c t m j p f (if f.x then [.a, .b, .c] else [.a, .b]) (if f.x then [.a, .b, .c] else [.a, .b]) true [] →
    ∃ v : Nat → Word,
      (∀ l n, n < 64 →
        let ways := if f.x then 3 else 2
        (v l).getLsbD n = (decide (n < ways * interleaveBits f) &&
          (laneSource s c m p f (if n % ways = 0 then .a else if n % ways = 1 then .b else .c) l).val.getLsbD (n / ways))) ∧
      WritesLanes (exec (.vIleave f) s) s c t m j p f fun l =>
        ⟨v l, (laneSource s c m p f .a l).mark || (laneSource s c m p f .b l).mark || (f.x && (laneSource s c m p f .c l).mark)⟩) ∧
  (∀ (f : Lane) (s : State) (c t : Nat) (m : Team) (j : Nat) (p : Split),
    f.ty = 1 ∨ f.ty = 3 → f.imm.toNat < (if f.x then 3 else 2) → LaneReady s c t m j p f [.a] [.a] true [] →
    ∃ v : Nat → Word,
      (∀ l n, n < 64 →
        let ways := if f.x then 3 else 2
        (v l).getLsbD n = (decide (n < interleaveBits f) &&
          (laneSource s c m p f .a l).val.getLsbD (ways * n + f.imm.toNat))) ∧
      WritesLanes (exec (.vDeleave f) s) s c t m j p f fun l => ⟨v l, (laneSource s c m p f .a l).mark⟩)

/-- R107 to R111, R117: the integer words of the lane stream that compute lane by lane. -/
def Obligations.LaneIntegerWordsComplete : Prop := LaneArithmeticWritesItsResult ∧ LaneBitWordsWriteTheirBits ∧ LaneInterleavesFields

/-- R112 to R116, R88, R92: lane compares and predicate logic write only the predicate's bits of the lanes in which they run; selects and moves
carry the mark of the value moved; `v.movi.n64.hi` keeps the old low half. -/
def Obligations.LaneComparesSelectsAndMoves : Prop :=
  (∀ (f : Lane) (s : State) (c t : Nat) (m : Team) (j : Nat) (p : Split) (v : Nat → Bool),
    LaneReady s c t m j p f (sourcesAB f) (sourcesAB f) false [] →
    (∀ l, v l = true ↔ laneCondition f (f.vd.toNat % 8) (laneSource s c m p f .a l).val (operandB s c m p f l).val) →
    LaneCompletes (exec (.vIcmp f) s) s c t m j p f (fun _ => none)
      (fun l => some (v l, (laneSource s c m p f .a l).mark || (operandB s c m p f l).mark)) 0) ∧
  (∀ (f : Lane) (s : State) (c t : Nat) (m : Team) (j : Nat) (p : Split), LaneReady s c t m j p f [.a, .b] [] true [] →
    WritesLanes (exec (.vSel f) s) s c t m j p f fun l =>
      let v := laneSource s c m p f (if (m.ctl.pred f.pd.toNat l ^^ f.imm.getLsbD 0) = true then .a else .b) l
      ⟨laneResult f v.val.toInt, v.mark⟩) ∧
  (∀ (f : Lane) (s : State) (c t : Nat) (m : Team) (j : Nat) (p : Split),
    LaneReady s c t m j p f [] [] false [f.va.toNat % 8, f.vb.toNat % 8] →
    LaneCompletes (exec (.vPop f) s) s c t m j p f (fun _ => none)
      (fun l => some (lanePredicateOp f.ty.toNat (m.ctl.pred (f.va.toNat % 8) l) (m.ctl.pred (f.vb.toNat % 8) l),
        m.ctl.predMark (f.va.toNat % 8) l || m.ctl.predMark (f.vb.toNat % 8) l)) 0) ∧
  (∀ (f : Lane) (s : State) (c t : Nat) (m : Team) (j : Nat) (p : Split), LaneReady s c t m j p f [] [] true [] →
    WritesLanes (exec (.vMovi f) s) s c t m j p f (fun _ => ⟨laneResult f f.imm.toInt, false⟩) ∧
    WritesLanes (exec (.vMoviHi f) s) s c t m j p f (fun l =>
      ⟨f.imm.setWidth 32 ++ (s.vreg c m f.vd.toNat l).val.setWidth 32, (s.vreg c m f.vd.toNat l).mark⟩)) ∧
  (∀ (f : Lane) (s : State) (c t : Nat) (m : Team) (j : Nat) (p : Split), LaneReady s c t m j p f [.a] [] true [] →
    WritesLanes (exec (.vMov f) s) s c t m j p f fun l =>
      ⟨laneResult f (laneSource s c m p f .a l).val.toInt, (laneSource s c m p f .a l).mark⟩)

namespace Sys2Proof.Machine

/-! ### Floating-point words (chapter 05) -/

/-- The enabled flags among those that a word would raise, under a value of FPCTL (R120, R125). -/
def enabledFlags (fpctl : Word) (fl : Flags) : Flags := fl &&& BitVec.ofNat 5 (fpctl.toNat / 256 % 32)

/-- A scalar floating-point word with a short result (R125, R148): in the dynamic mode it writes the result of `op` on the values of sa, sb and the
old sd, with the OR of the marks of its sources, and FPFLAGS gains its flags; if one of them is enabled it raises FP_EXCEPTION with
those flags in TRAP_ADDR, and changes nothing. -/
def ScalarFloat (i : SA → Instr) (srcs : SA → List Nat) (op : RMode → Word → Word → Word → Nat × Flags) : Prop :=
  ∀ (f : SA) (s : State) (c t : Nat) (m : Team), ScalarReady s c t m (srcs f ++ [f.d.toNat]) (srcs f) [] f.g.toNat →
    let r := op (dynMode m.regs.fpctl) (s.sreg c m f.a.toNat).val (s.sreg c m f.b.toNat).val (s.sreg c m f.d.toNat).val
    (enabledFlags m.regs.fpctl r.2 = 0 →
      ScalarCompletes (exec (i f) s) s c t m f.w
        { m.regs with spc := m.regs.spc + 4, fpflags := m.regs.fpflags ||| r.2.setWidth 64 }
        [(f.d.toNat, ⟨BitVec.ofNat 64 r.1, (srcs f).any fun i => (s.sreg c m i).mark⟩)]) ∧
    (enabledFlags m.regs.fpctl r.2 ≠ 0 →
      exec (i f) s = .next (raise s c t m ⟨⟨.fpException, (enabledFlags m.regs.fpctl r.2).setWidth 64, 0⟩, none, some m.regs.spc⟩))

/-- A scalar floating-point word on the divider (R119, R149): its destination awaits the result, which the divider holds for 30 cycles. With a trap
enable set the word has held the stream until its result was formed (R126), so that the result is ready and the divider free. -/
def ScalarFloatLong (i : SA → Instr) (srcs : SA → List Nat) (op : RMode → Word → Word → Nat × Flags) : Prop :=
  ∀ (f : SA) (s : State) (c t : Nat) (m : Team), ScalarReady s c t m (srcs f ++ [f.d.toNat]) (srcs f) [] f.g.toNat →
    let r := op (dynMode m.regs.fpctl) (s.sreg c m f.a.toNat).val (s.sreg c m f.b.toNat).val
    let held := decide (m.regs.fpctl.toNat / 256 % 32 ≠ 0)
    (enabledFlags m.regs.fpctl r.2 = 0 → (s.core c).divider = none →
      ∃ s' m', exec (i f) s = .next s' ∧ s'.team c t = some m' ∧
        m'.regs = { m.regs with
          spc := m.regs.spc + 4, slongs := setBit m.regs.slongs f.d.toNat true, fpflags := m.regs.fpflags ||| r.2.setWidth 64 } ∧
        m'.pend = m.pend ++ [⟨s.ticket, [(f.d.toNat, ⟨BitVec.ofNat 64 r.1, (srcs f).any fun i => (s.sreg c m i).mark⟩)], [], [], [], held, false, false⟩] ∧
        m'.sched.parked = (m.sched.parked || f.w) ∧ m'.ctl = m.ctl ∧ OnlyStreams m m' ∧
        (s'.core c).divider = (if held then none else some (t, s.ticket, s.cycles + 30)) ∧
        (∀ u, (s'.core c).dword u = (s.core c).dword u) ∧ OnlyCore s s' c) ∧
    (enabledFlags m.regs.fpctl r.2 = 0 → (s.core c).divider ≠ none → exec (i f) s = .next (scalarHold s c t .divider f.w)) ∧
    (enabledFlags m.regs.fpctl r.2 ≠ 0 →
      exec (i f) s = .next (raise s c t m ⟨⟨.fpException, (enabledFlags m.regs.fpctl r.2).setWidth 64, 0⟩, none, some m.regs.spc⟩))

/-- The value of an f64 register. -/
def f64 (a : Word) : FVal := FFmt.f64.value a.toNat

/-- The rounding mode of a lane word (R40, R122): its rm field, or RM in the running block's copy of FPCTL. -/
def laneMode (m : Team) (p : Split) (f : Lane) : RMode :=
  if f.rm = 7 then dynMode (m.blockOf p).fpctl else RMode.ofCode f.rm.toNat

/-- What a lane computes: `op` on each element of its sources, and the OR of the flags (R129). -/
def laneFloat (s : State) (c : Nat) (m : Team) (p : Split) (f : Lane) (op : FFmt → RMode → Nat → Nat → Nat → Nat × Flags) (l : Nat) :
    Word × Flags :=
  let fmt := ftyFormat f.ty.toNat
  let at_ (y : Src) (e : Nat) : Nat := (laneSource s c m p f y l).val.toNat / 2 ^ (fmt.width * e) % 2 ^ fmt.width
  let rs := (List.range (ftyCount f.ty.toNat)).map fun e => op fmt (laneMode m p f) (at_ .a e) (at_ .b e) (at_ .c e)
  (BitVec.ofNat 64 (packElements fmt.width (rs.map (·.1))), rs.foldl (fun a r => a ||| r.2) 0)

/-- The running lanes that would raise an enabled flag, and the enabled flags that they would raise. -/
def trappingLanes (m : Team) (p : Split) (f : Lane) (fl : Nat → Flags) : List Nat :=
  (runningLanes m p f).filter fun l => enabledFlags (m.blockOf p).fpctl (fl l) != 0
def trappingFlags (m : Team) (p : Split) (f : Lane) (fl : Nat → Flags) : Flags :=
  (trappingLanes m p f fl).foldl (fun a l => a ||| enabledFlags (m.blockOf p).fpctl (fl l)) 0

/-- The OR of the flags of the running lanes. -/
def raisedFlags (m : Team) (p : Split) (f : Lane) (fl : Nat → Flags) : Flags := (runningLanes m p f).foldl (fun a l => a ||| fl l) 0

/-- The outcome of a lane word that raises FP_EXCEPTION (R125): the lanes that would raise an enabled flag in TRAP_MASK, those flags in
TRAP_ADDR, and nothing else changed. -/
def LaneTrapsFp (o : Host.Outcome State Fault Refusal) (s : State) (c t : Nat) (m : Team) (j : Nat) (p : Split) (f : Lane)
    (fl : Nat → Flags) : Prop :=
  o = .next (raise s c t m
    ⟨⟨.fpException, (trappingFlags m p f fl).setWidth 64, maskOf (trappingLanes m p f fl)⟩, some (j, p.lpc), none⟩)

/-- A lane floating-point word with a short result, over elements. -/
def LaneFloat (i : Lane → Instr) (srcs : List Src) (op : Lane → FFmt → RMode → Nat → Nat → Nat → Nat × Flags) : Prop :=
  ∀ (f : Lane) (s : State) (c t : Nat) (m : Team) (j : Nat) (p : Split), LaneReady s c t m j p f srcs srcs true [] →
    let fl := fun l => (laneFloat s c m p f (op f) l).2
    (trappingLanes m p f fl = [] →
      LaneCompletes (exec (i f) s) s c t m j p f
        (fun l => some ⟨(laneFloat s c m p f (op f) l).1, srcs.any fun y => (laneSource s c m p f y l).mark⟩) (fun _ => none)
        (raisedFlags m p f fl)) ∧
    (trappingLanes m p f fl ≠ [] → LaneTrapsFp (exec (i f) s) s c t m j p f fl)

/-- A lane word with a long result in vd has issued: the split goes on, vd awaits the values `d` of the lanes in which it runs, FPFLAGS has gained
`fl`; no register value, no predicate and nothing else has changed. -/
def LaneAwaits (o : Host.Outcome State Fault Refusal) (s : State) (c t : Nat) (m : Team) (j : Nat) (p : Split) (f : Lane)
    (d : Nat → Marked) (fl : Flags) : Prop :=
  ∃ s' m' q, o = .next s' ∧ s'.team c t = some m' ∧
    SplitAt p q (p.lpc + 12) (if f.vd.toNat < 240 then setBit p.longs f.vd.toNat true else p.longs) ∧ OnlySplit m.ctl m'.ctl j q ∧
    m'.ctl.preds = m.ctl.preds ∧ m'.ctl.predMarks = m.ctl.predMarks ∧
    (∃ r, m'.pend = m.pend ++ [r] ∧ r.ticket = s.ticket ∧ r.ready = true ∧ r.lane = true ∧ r.sregs = [] ∧ r.preds = [] ∧
      ∀ e, e ∈ r.vregs ↔ f.vd.toNat < 240 ∧ ∃ l ∈ runningLanes m p f, e = (f.vd.toNat, l, d l)) ∧
    m'.regs = { m.regs with fpflags := m.regs.fpflags ||| fl.setWidth 64 } ∧ OnlyStreams m m' ∧
    m'.sched.parked = (m.sched.parked || f.w) ∧
    (∀ u, (s'.core c).dword u = (s.core c).dword u) ∧ OnlyTeam (s.core c) (s'.core c) t [] ∧ OnlyCore s s' c

/-- A lane floating-point word with a long result, over elements. -/
def LaneFloatLong (i : Lane → Instr) (srcs : List Src) (op : Lane → FFmt → RMode → Nat → Nat → Nat → Nat × Flags) : Prop :=
  ∀ (f : Lane) (s : State) (c t : Nat) (m : Team) (j : Nat) (p : Split), LaneReady s c t m j p f srcs srcs true [] →
    let fl := fun l => (laneFloat s c m p f (op f) l).2
    (trappingLanes m p f fl = [] →
      LaneAwaits (exec (i f) s) s c t m j p f
        (fun l => ⟨(laneFloat s c m p f (op f) l).1, srcs.any fun y => (laneSource s c m p f y l).mark⟩) (raisedFlags m p f fl)) ∧
    (trappingLanes m p f fl ≠ [] → LaneTrapsFp (exec (i f) s) s c t m j p f fl)

/-- A lane floating-point word that is no element-wise one: `out` gives what a lane computes, register and predicate, and its flags. -/
def LaneFloatOut (i : Lane → Instr) (ok : Lane → Prop) (srcs : Lane → List Src) (dst : Bool)
    (out : Lane → RMode → (Src → Word) → Marked → Option Word × Option Bool × Flags) : Prop :=
  ∀ (f : Lane) (s : State) (c t : Nat) (m : Team) (j : Nat) (p : Split), ok f → LaneReady s c t m j p f (srcs f) (srcs f) dst [] →
    let old := fun l => if f.vd.toNat < 240 then s.vreg c m f.vd.toNat l else ⟨0, false⟩
    let r := fun l => out f (laneMode m p f) (fun y => (laneSource s c m p f y l).val) (old l)
    let mark := fun l => (srcs f).any fun y => (laneSource s c m p f y l).mark
    let fl := fun l => (r l).2.2
    (trappingLanes m p f fl = [] →
      LaneCompletes (exec (i f) s) s c t m j p f (fun l => (r l).1.map fun v => ⟨v, mark l⟩)
        (fun l => (r l).2.1.map fun v => (v, mark l)) (raisedFlags m p f fl)) ∧
    (trappingLanes m p f fl ≠ [] → LaneTrapsFp (exec (i f) s) s c t m j p f fl)

/-- The low bits of a word that hold an element of a format. -/
def lowElement (fmt : FFmt) (v : Word) : Nat := v.toNat % 2 ^ fmt.width

/-- The type of a class F word, and its width. -/
def laneFormat (f : Lane) : FFmt := ftyFormat f.ty.toNat

/-! ### Exact values -/

/-- 2^e as a rational number. -/
def twoPow (e : Int) : Rat := if 0 ≤ e then (2 : Rat) ^ e.toNat else 1 / (2 : Rat) ^ (-e).toNat

/-- The number that a value stands for, of those that are numbers. -/
def FVal.rat : FVal → Option Rat
  | .num n m d e => some ((if n then -1 else 1) * ((m : Rat) / (d : Rat)) * twoPow e)
  | _ => none

/-- A denominator is never zero in a value that the model forms. -/
def FVal.proper : FVal → Prop
  | .num _ _ d _ => 0 < d
  | _ => True

/-- y is what x rounds to among `set` under a mode (R65); no claim is made about the sign of a zero. -/
def RoundsTo (mode : RMode) (set : Rat → Prop) (x y : Rat) : Prop :=
  set y ∧
  match mode with
  | .rne | .rna => ∀ z, set z → (y - x).abs ≤ (z - x).abs
  | .rtz => y.abs ≤ x.abs ∧ ∀ z, set z → z.abs ≤ x.abs → (y - x).abs ≤ (z - x).abs
  | .rdn => y ≤ x ∧ ∀ z, set z → z ≤ x → z ≤ y
  | .rup => x ≤ y ∧ ∀ z, set z → x ≤ z → y ≤ z

end Sys2Proof.Machine

/-- R65, R60: a number that does not overflow rounds once, to a neighbour among the finite values of the format, in every mode; the tie of RNE goes
to an even fraction and that of RNA away from zero. -/
def Sys2Proof.Machine.RoundingChoosesTheNeighbour : Prop :=
  ∀ (fmt : FFmt) (mode : RMode) (neg : Bool) (n d : Nat) (e : Int) (x y : Rat), fmt ∈ [FFmt.f64, FFmt.f32, FFmt.f16, FFmt.bf16] →
    0 < d → (FVal.num neg n d e).rat = some x →
    let r := (roundV fmt mode false (.num neg n d e)).1
    (fmt.value r).rat = some y →
    (roundV fmt mode false (.num neg n d e)).2 &&& Flags.of = 0 →
    RoundsTo mode (fun z => ∃ k, (fmt.value k).rat = some z) x y ∧
    (∀ k z, (fmt.value k).rat = some z → z ≠ y → (z - x).abs = (y - x).abs →
      (mode = .rne → r % 2 = 0) ∧ (mode = .rna → z.abs ≤ y.abs))

/-- R66, R82: a value that the format holds rounds to itself in every mode and raises no flag. -/
def Sys2Proof.Machine.RoundingKeepsRepresentableValues : Prop :=
  ∀ (fmt : FFmt) (mode : RMode) (n : Nat), fmt ∈ [FFmt.f64, FFmt.f32, FFmt.f16, FFmt.bf16, FFmt.e5m2] → n < 2 ^ fmt.width →
    (fmt.value n).isNan = false → roundV fmt mode false (fmt.value n) = (n, 0)

/-- R130, R131, R136: the arithmetic behind every floating-point word is exact, before its one rounding. -/
def Sys2Proof.Machine.ExactOperationsAreExact : Prop :=
  ∀ (mode : RMode) (a b d : FVal) (x y z : Rat), a.rat = some x → b.rat = some y → d.rat = some z →
    a.proper → b.proper → d.proper →
    (exactAdd mode a b).1.rat = some (x + y) ∧ (exactMul a b).1.rat = some (x * y) ∧
    (∀ np nd, (exactFma mode np nd a b d).1.rat = some ((if np then -1 else 1) * (x * y) + (if nd then -1 else 1) * z)) ∧
    (y ≠ 0 → (exactDiv a b).1.rat = some (x / y)) ∧
    (cmpV a b = some .lt ↔ x < y) ∧ (cmpV a b = some .eq ↔ x = y)

/-- R130, R132, R136, R138, R64: what NaNs, infinities and zeros give. -/
def Sys2Proof.Machine.SpecialOperandsFollowTheTables : Prop :=
  (∀ (fmt : FFmt) (mode : RMode) (a b : FVal), (a.isNan || b.isNan) = true →
    roundR fmt mode (exactAdd mode a b) = (fmt.canonical, Flags.when (a.isSig || b.isSig) Flags.nv) ∧
    roundR fmt mode (exactMul a b) = (fmt.canonical, Flags.when (a.isSig || b.isSig) Flags.nv) ∧
    roundR fmt mode (exactDiv a b) = (fmt.canonical, Flags.when (a.isSig || b.isSig) Flags.nv)) ∧
  (∀ (fmt : FFmt) (mode : RMode) (n : Bool) (x : FVal), x.isZero = true →
    roundR fmt mode (exactAdd mode (.inf n) (.inf !n)) = (fmt.canonical, Flags.nv) ∧
    roundR fmt mode (exactMul (.inf n) x) = (fmt.canonical, Flags.nv) ∧
    roundR fmt mode (exactDiv (.inf n) (.inf !n)) = (fmt.canonical, Flags.nv) ∧
    roundR fmt mode (exactDiv x x) = (fmt.canonical, Flags.nv) ∧
    roundR fmt mode (exactSqrt (.inf true)) = (fmt.canonical, Flags.nv)) ∧
  (∀ (x y : Bool) (n m d : Nat) (e : Int), n ≠ 0 → exactDiv (.num x n d e) (.num y 0 1 0) = (.inf (x != y), Flags.dz) ∧
    exactSqrt (.num true n d e) = (.nan false, Flags.nv) ∧ exactSqrt (.num x 0 m e) = (.num x 0 1 0, 0)) ∧
  (∀ (mode : RMode) (x : Bool) (n d : Nat) (e : Int), n ≠ 0 → d ≠ 0 →
    exactAdd mode (.num x n d e) (.num (!x) n d e) = (.num (mode == .rdn) 0 1 0, 0)) ∧
  (∀ fn : Special,
    specialBits fn 0x7FC00000 = (0x7FC00000, 0) ∧ specialBits fn 0x7F800001 = (0x7FC00000, Flags.nv)) ∧
  specialBits .frcp 0 = (0x7F800000, Flags.dz) ∧ specialBits .frcp 0x80000000 = (0xFF800000, Flags.dz) ∧
  specialBits .frcp 0x7F800000 = (0, 0) ∧ specialBits .frcp 0xFF800000 = (0x80000000, 0) ∧
  specialBits .frsq 0 = (0x7F800000, Flags.dz) ∧ specialBits .frsq 0x80000000 = (0xFF800000, Flags.dz) ∧
  specialBits .frsq 0x7F800000 = (0, 0) ∧ specialBits .frsq 0xBF800000 = (0x7FC00000, Flags.nv) ∧
  specialBits .fex2 0xFF800000 = (0, 0) ∧ specialBits .fex2 0x7F800000 = (0x7F800000, 0) ∧
  specialBits .fex2 0x43000000 = (0x7F800000, Flags.of ||| Flags.nx) ∧
  specialBits .flg2 0 = (0xFF800000, Flags.dz) ∧ specialBits .flg2 0x7F800000 = (0x7F800000, 0) ∧
  specialBits .flg2 0xBF800000 = (0x7FC00000, Flags.nv) ∧
  specialBits .fsin 0x7F800000 = (0x7FC00000, Flags.nv) ∧ specialBits .fcos 0xFF800000 = (0x7FC00000, Flags.nv) ∧
  specialBits .fsin 0x80000000 = (0x80000000, 0) ∧ specialBits .fcos 0 = (0x3F800000, 0)

/-- R65, R66, R130, R131, R136, R138: rounding, the operations that are exact before it, and the tables of special operands. -/
def Obligations.RoundingAndSpecialOperandsFollowTheTables : Prop := RoundingChoosesTheNeighbour ∧ RoundingKeepsRepresentableValues ∧ ExactOperationsAreExact ∧ SpecialOperandsFollowTheTables

/-- R148 to R152, R125: the scalar floating-point words. -/
def Sys2Proof.Machine.ScalarFloatWordsRoundOnce : Prop :=
  ScalarFloat .sFopAdd (fun f => [f.a.toNat, f.b.toNat]) (fun rm a b _ => roundR .f64 rm (exactAdd rm (f64 a) (f64 b))) ∧
  ScalarFloat .sFopSub (fun f => [f.a.toNat, f.b.toNat]) (fun rm a b _ => roundR .f64 rm (exactAdd rm (f64 a) ((f64 b).flip true))) ∧
  ScalarFloat .sFopMul (fun f => [f.a.toNat, f.b.toNat]) (fun rm a b _ => roundR .f64 rm (exactMul (f64 a) (f64 b))) ∧
  ScalarFloat .sFopMin (fun f => [f.a.toNat, f.b.toNat]) (fun _ a b _ => minMax .f64 false false a.toNat b.toNat) ∧
  ScalarFloat .sFopMax (fun f => [f.a.toNat, f.b.toNat]) (fun _ a b _ => minMax .f64 true false a.toNat b.toNat) ∧
  ScalarFloat .sFopAbs (fun f => [f.a.toNat]) (fun _ a _ _ => ((a &&& 0x7FFFFFFFFFFFFFFF).toNat, 0)) ∧
  ScalarFloat .sFopNeg (fun f => [f.a.toNat]) (fun _ a _ _ => ((a ^^^ 0x8000000000000000).toNat, 0)) ∧
  (∀ v : FmaVar, ScalarFloat (.sFfma v) (fun f => [f.a.toNat, f.b.toNat, f.d.toNat]) (fun rm a b d =>
    roundR .f64 rm (exactFma rm (v = .neg || v = .negsub) (v = .sub || v = .negsub) (f64 a) (f64 b) (f64 d)))) ∧
  ScalarFloat (.sFcvt .f64i64) (fun f => [f.a.toNat]) (fun rm a _ _ => roundV .f64 rm false (.ofInt a.toInt)) ∧
  ScalarFloat (.sFcvt .f64n64) (fun f => [f.a.toNat]) (fun rm a _ _ => roundV .f64 rm false (.ofInt a.toNat)) ∧
  ScalarFloat (.sFcvt .i64f64) (fun f => [f.a.toNat]) (fun rm a _ _ =>
    let r := toInteger rm (-2 ^ 63) (2 ^ 63 - 1) (f64 a); ((BitVec.ofInt 64 r.1).toNat, r.2)) ∧
  ScalarFloat (.sFcvt .n64f64) (fun f => [f.a.toNat]) (fun rm a _ _ =>
    let r := toInteger rm 0 (2 ^ 64 - 1) (f64 a); (r.1.toNat, r.2)) ∧
  ScalarFloat (.sFcvt .f32f64) (fun f => [f.a.toNat]) (fun rm a _ _ => fcvt .f32 .f64 rm a.toNat) ∧
  ScalarFloat (.sFcvt .f64f32) (fun f => [f.a.toNat]) (fun rm a _ _ => fcvt .f64 .f32 rm (lowElement .f32 a)) ∧
  ScalarFloat (.sFcvt .bf16f64) (fun f => [f.a.toNat]) (fun rm a _ _ => fcvt .bf16 .f64 rm a.toNat) ∧
  ScalarFloat (.sFcvt .f64bf16) (fun f => [f.a.toNat]) (fun rm a _ _ => fcvt .f64 .bf16 rm (lowElement .bf16 a)) ∧
  ScalarFloatLong .sFopDiv (fun f => [f.a.toNat, f.b.toNat]) (fun rm a b => roundR .f64 rm (exactDiv (f64 a) (f64 b))) ∧
  ScalarFloatLong .sFopSqrt (fun f => [f.a.toNat]) (fun rm a _ => roundR .f64 rm (exactSqrt (f64 a)))

/-- R151, R134: a scalar floating-point compare writes its condition, with NV for a signalling NaN, and for an ordered condition for any NaN. -/
def Sys2Proof.Machine.ScalarFloatComparesWriteAPredicate : Prop :=
  ∀ (cond : SFCond) (f : SA) (s : State) (c t : Nat) (m : Team) (v nv : Bool),
    ScalarReady s c t m [f.a.toNat, f.b.toNat] [f.a.toNat, f.b.toNat] [] f.g.toNat [f.d.toNat % 8] →
    let x := f64 (s.sreg c m f.a.toNat).val
    let y := f64 (s.sreg c m f.b.toNat).val
    (v = true ↔ match cond with
      | .eq => cmpV x y = some .eq
      | .lt => cmpV x y = some .lt
      | .le => cmpV x y = some .lt ∨ cmpV x y = some .eq
      | .unord => cmpV x y = none
      | .ne => cmpV x y ≠ some .eq
      | .ge => cmpV x y = some .gt ∨ cmpV x y = some .eq
      | .gt => cmpV x y = some .gt
      | .ord => cmpV x y ≠ none) →
    (nv = true ↔ x.isSig = true ∨ y.isSig = true ∨ (cond ∈ [SFCond.lt, .le, .ge, .gt] ∧ (x.isNan = true ∨ y.isNan = true))) →
    (enabledFlags m.regs.fpctl (Flags.when nv Flags.nv) = 0 →
      ScalarCompletes (exec (.sFcmp cond f) s) s c t m f.w
        { m.regs.setPred (f.d.toNat % 8) v ((s.sreg c m f.a.toNat).mark || (s.sreg c m f.b.toNat).mark) with
          spc := m.regs.spc + 4, fpflags := m.regs.fpflags ||| (Flags.when nv Flags.nv).setWidth 64 } []) ∧
    (enabledFlags m.regs.fpctl (Flags.when nv Flags.nv) ≠ 0 →
      exec (.sFcmp cond f) s = .next (raise s c t m ⟨⟨.fpException, Flags.nv.setWidth 64, 0⟩, none, some m.regs.spc⟩))

/-- R125, R148 to R152: the floating-point words of the scalar stream. -/
def Obligations.ScalarFloatWordsComplete : Prop := ScalarFloatWordsRoundOnce ∧ ScalarFloatComparesWriteAPredicate

/-- R128 to R133, R136 to R138, R141, R125: the lane floating-point words that compute element by element. -/
def Obligations.LaneFloatWordsRoundOnce : Prop :=
  LaneFloat .vFadd [.a, .b] (fun _ t rm a b _ => roundR t rm (exactAdd rm (t.value a) (t.value b))) ∧
  LaneFloat .vFsub [.a, .b] (fun _ t rm a b _ => roundR t rm (exactAdd rm (t.value a) ((t.value b).flip true))) ∧
  LaneFloat .vFmul [.a, .b] (fun _ t rm a b _ => roundR t rm (exactMul (t.value a) (t.value b))) ∧
  LaneFloat .vFfma [.a, .b, .c] (fun f t rm a b d =>
    roundR t rm (exactFma rm (f.imm.getLsbD 1) (f.imm.getLsbD 0) (t.value a) (t.value b) (t.value d))) ∧
  LaneFloat .vFmin [.a, .b] (fun f t _ a b _ => minMax t false f.x a b) ∧
  LaneFloat .vFmax [.a, .b] (fun f t _ a b _ => minMax t true f.x a b) ∧
  LaneFloat .vFsgn [.a, .b] (fun f t _ a b _ => (fsgn t (f.imm.toNat % 4) a b, 0)) ∧
  LaneFloat .vFround [.a] (fun f t rm a _ _ => fround t rm f.x a) ∧
  LaneFloatLong .vFdiv [.a, .b] (fun _ t rm a b _ => roundR t rm (exactDiv (t.value a) (t.value b))) ∧
  LaneFloatLong .vFsqrt [.a] (fun _ t rm a _ _ => roundR t rm (exactSqrt (t.value a))) ∧
  LaneFloatLong .vFrcp [.a] (fun _ _ _ a _ _ => specialBits .frcp a) ∧
  LaneFloatLong .vFrsq [.a] (fun _ _ _ a _ _ => specialBits .frsq a) ∧
  LaneFloatLong .vFex2 [.a] (fun _ _ _ a _ _ => specialBits .fex2 a) ∧
  LaneFloatLong .vFlg2 [.a] (fun _ _ _ a _ _ => specialBits .flg2 a) ∧
  LaneFloatLong .vFsin [.a] (fun _ _ _ a _ _ => specialBits .fsin a) ∧
  LaneFloatLong .vFcos [.a] (fun _ _ _ a _ _ => specialBits .fcos a)

/-- R134, R135, R139, R140, R142: lane compares, classes, conversions and scaling. -/
def Sys2Proof.Machine.LaneFloatConversionsAndTests : Prop :=
  LaneFloatOut .vFcmp (fun _ => True) (fun _ => [.a, .b]) false (fun f _ src _ =>
    let r := fcmp (laneFormat f) (f.vd.toNat % 8) f.x (lowElement (laneFormat f) (src .a)) (lowElement (laneFormat f) (src .b))
    (none, some r.1, r.2)) ∧
  LaneFloatOut .vFclass (fun _ => True) (fun _ => [.a]) true (fun f _ src _ =>
    let k := fclass (laneFormat f) (lowElement (laneFormat f) (src .a))
    (some (BitVec.ofNat 64 k), if f.pd = 0 then none else some (k &&& f.imm.toNat % 1024 != 0), 0)) ∧
  LaneFloatOut .vFcvt (fun _ => True) (fun _ => [.a]) true (fun f rm src _ =>
    let t := ftyFormat (f.imm.toNat % 4)
    let r := fcvt (laneFormat f) t rm (lowElement t (src .a))
    (some (BitVec.ofNat 64 r.1), none, r.2)) ∧
  LaneFloatOut .vIcvt (fun f => f.imm.getLsbD 3 = false) (fun _ => [.a]) true (fun f rm src _ =>
    let i := f.imm.toNat % 8
    let r := roundV (laneFormat f) rm false (.ofInt (srcInt (ityWidth i) (itySigned i) (src .a).toNat))
    (some (BitVec.ofNat 64 r.1), none, r.2)) ∧
  LaneFloatOut .vIcvt (fun f => f.imm.getLsbD 3 = true) (fun _ => [.a]) true (fun f rm src _ =>
    let w := ityWidth (f.imm.toNat % 8)
    let g := itySigned (f.imm.toNat % 8)
    let r := toInteger rm (if g then -2 ^ (w - 1) else 0) (if g then 2 ^ (w - 1) - 1 else 2 ^ w - 1)
      ((laneFormat f).value (lowElement (laneFormat f) (src .a)))
    (some (BitVec.ofInt 64 r.1), none, r.2)) ∧
  LaneFloatOut .vFscale (fun f => f.x = false) (fun _ => [.a, .b]) true (fun f rm src _ =>
    let r := fscale (laneFormat f) rm (lowElement (laneFormat f) (src .a)) (src .b).toInt
    (some (BitVec.ofNat 64 r.1), none, r.2)) ∧
  LaneFloatOut .vFscale (fun f => f.x = true) (fun _ => [.a]) true (fun f rm src _ =>
    let r := fscale (laneFormat f) rm (lowElement (laneFormat f) (src .a)) f.imm.toInt
    (some (BitVec.ofNat 64 r.1), none, r.2))

/-- R143 to R147, R69, R73: the words of the narrow formats; `v.pack` keeps every other bit of vd, and its mark. -/
def Sys2Proof.Machine.NarrowFormatWords : Prop :=
  LaneFloatOut .vQdec (fun _ => True) (fun f => if f.x then [.a, .b, .c] else [.a, .b]) true (fun f rm src _ =>
    let scale := (src .b).toNat % 2 ^ 32
    let code := (src .a).toNat / 2 ^ (4 * (f.imm.toNat % 16)) % 16
    let factor := if f.x then nq4Factor scale (src .c).toNat else FFmt.f32.value scale
    let zero := f.x && !(FFmt.f32.value scale).isNan && (src .c).toNat % 256 == 0
    let r := if factor.isNan then ((laneFormat f).canonical, Flags.when (!f.x && factor.isSig) Flags.nv)
      else roundV (laneFormat f) rm false (nq4Value factor (if zero then 0 else code))
    (some (BitVec.ofNat 64 r.1), none, r.2)) ∧
  LaneFloatOut .vMxdec (fun f => f.imm.toNat % 16 < 2) (fun _ => [.a]) true (fun f rm src _ =>
    let code := (src .a).toNat / 2 ^ (8 * (f.imm.toNat / 16 % 64)) % 2 ^ 8
    let r := roundV (laneFormat f) rm false (elementValue (f.imm.toNat % 16) code)
    (some (BitVec.ofNat 64 r.1), none, r.2)) ∧
  LaneFloatOut .vMxdec (fun f => 2 ≤ f.imm.toNat % 16) (fun _ => [.a, .b]) true (fun f rm src _ =>
    let w := narrowWidth (f.imm.toNat % 16)
    let code := (src .a).toNat / 2 ^ (w * (f.imm.toNat / 16 % 64)) % 2 ^ w
    let r := roundV (laneFormat f) rm false (mxValue (f.imm.toNat % 16) code (src .b).toNat)
    (some (BitVec.ofNat 64 r.1), none, r.2)) ∧
  LaneFloatOut .vPackScale (fun _ => True) (fun _ => [.a]) true (fun f _ src _ =>
    (some (BitVec.ofNat 64 (packScale (laneFormat f) (f.imm.toNat % 16) (lowElement (laneFormat f) (src .a)))), none, 0)) ∧
  (∀ (f : Lane) (s : State) (c t : Nat) (m : Team) (j : Nat) (p : Split),
    let srcs : List Src := if f.x then [.a, .b, .c] else if 2 ≤ f.imm.toNat % 16 then [.a, .b] else [.a]
    LaneReady s c t m j p f srcs srcs true [] →
    let fmt := f.imm.toNat % 16
    let w := narrowWidth fmt
    let lo := w * (f.imm.toNat / 16 % 64)
    let src := fun y l => (laneSource s c m p f y l).val.toNat
    let old : Nat → Marked := fun l => if f.vd.toNat < 240 then s.vreg c m f.vd.toNat l else ⟨0, false⟩
    let r := fun l => packElement (laneFormat f) fmt f.sat f.x (src .a l % 2 ^ (laneFormat f).width) (src .b l) (src .c l)
    let mark := fun l => srcs.any fun y => (laneSource s c m p f y l).mark
    (trappingLanes m p f (fun l => (r l).2.1) = [] →
      ∃ v : Nat → Word,
        (∀ l n, n < 64 → (v l).getLsbD n = if lo ≤ n ∧ n < lo + w then (r l).1.testBit (n - lo) else (old l).val.getLsbD n) ∧
        LaneCompletes (exec (.vPack f) s) s c t m j p f (fun l => some ⟨v l, (old l).mark || mark l⟩)
          (fun l => if f.pd = 0 then none else some ((r l).2.2, mark l)) (raisedFlags m p f fun l => (r l).2.1)) ∧
    (trappingLanes m p f (fun l => (r l).2.1) ≠ [] → LaneTrapsFp (exec (.vPack f) s) s c t m j p f fun l => (r l).2.1))

/-- R134, R135, R139, R140, R142 to R147: conversions, tests and the narrow formats. -/
def Obligations.LaneConversionsAndNarrowWordsComplete : Prop := LaneFloatConversionsAndTests ∧ NarrowFormatWords

namespace Sys2Proof.Machine

/-! ### Memory (chapters 08 and 12) -/

/-- Where a word asks for it, an open region has been committed first (R289, R419): s' and m' are the state and team from then on. -/
def Committed (must : Bool) (s : State) (c t : Nat) (m : Team) (s' : State) (m' : Team) : Prop :=
  s'.team c t = some m' ∧
  match must, m.region with
  | true, some g => commit s c t m g = .done s' c
  | _, _ => s' = s

/-- A byte of memory. -/
def State.byteAt (s : State) (a : Nat) : Byte := s.mem.bytes.get 0 a

/-- The core stores, with their marks, are as before. -/
def SameStores (s s' : State) : Prop :=
  ∀ q, (s'.core q).store = (s.core q).store ∧ (s'.core q).unitMarks = (s.core q).unitMarks ∧
    (s'.core q).sectorMarks = (s.core q).sectorMarks ∧ (s'.core q).acc = (s.core q).acc ∧ (s'.core q).accMarks = (s.core q).accMarks

/-- A team's registers, predicates, control store, trap registers and long results are as before; its lease may have been measured anew. -/
def SameTeam (s s' : State) (c t : Nat) : Prop :=
  match s.team c t, s'.team c t with
  | some m, some m' => { m' with lease := m.lease } = m
  | none, none => True
  | _, _ => False

/-- What the mark of unit u (of `size` bytes) becomes at a write of n > 0 bytes at `off` (R222, R232). -/
def markAfter (size off n u : Nat) (mark old : Bool) : Bool :=
  if u < off / size ∨ (off + n - 1) / size < u then old
  else if mark then true
  else if off ≤ size * u ∧ size * u + size ≤ off + n then false
  else old

end Sys2Proof.Machine

/-- R235, R376, R377, R286, R228, R447: the checks of an access in their order, and the wait for an engine's line or for a station; an access that a
translation in the TLB serves changes nothing. -/
def Sys2Proof.Machine.AccessesPassTheirChecksInOrder : Prop :=
  ∀ (s : State) (c : Nat) (m : Team) (need : Need) (atomic : Bool) (va : Word) (n : Nat),
    (va.toNat % n ≠ 0 → checkAccess s c m need atomic va n = (.bad ⟨.misaligned, va, 0⟩, s)) ∧
    (va.toNat % n = 0 → 2 ^ 54 ≤ va.toNat → checkAccess s c m need atomic va n = (.bad ⟨.pageFault, va, 0⟩, s)) ∧
    (∀ e, va.toNat % n = 0 → va.toNat < 2 ^ 54 → (s.core c).tlb.find? (fun e => e.serves m.id.asid va.toNat need) = some e →
      let pa := leafAddr e.leaf.toNat e.level va.toNat
      checkAccess s c m need atomic va n =
        if permits e.leaf.toNat need m.id.runtime = false then (.bad ⟨.protection, va, 0⟩, s)
        else if isMgmt pa = true ∧ (n ≠ 8 ∨ atomic = true) then (.bad ⟨.protection, va, 0⟩, s)
        else if need.w = true ∧ s.mem.sealed pa = true then (.bad ⟨.sealViolation, va, 0⟩, s)
        else if s.blocked pa none = true then (.wait, s)
        else (.ok pa, s))

/-- R375, R376, R377: a walk ends at a leaf that permits the access, sets its accessed bit and, for a store or an atomic, its dirty bit, and
writes no other byte of memory, where no other agent writes between its read and its compare-and-swap. -/
def Sys2Proof.Machine.WalksSetAccessedAndDirty : Prop :=
  ∀ (s s' : State) (d asid va : Nat) (need : Need) (runtime : Bool) (own : Option Nat) (leaf level pa : Nat),
    walk s d asid va need runtime own = (.ok (leaf, level, pa), s') →
    permits leaf need runtime = true ∧ leaf.testBit 7 = true ∧ (need.dirty = true → leaf.testBit 8 = true) ∧
    s'.mem.read pa 8 = natBytes 8 leaf ∧ (s.sched.races = [] → ∀ a, (a < pa ∨ pa + 8 ≤ a) → s'.byteAt a = s.byteAt a) ∧ SameStores s s' ∧
    (∀ c t, s'.team c t = s.team c t)

/-- R235, R286, R375 to R377: the checks of an access in their order, and the walk. -/
def Obligations.AccessesAreCheckedAndTranslated : Prop := AccessesPassTheirChecksInOrder ∧ WalksSetAccessedAndDirty

/-- R236, R235, R402: the scalar loads and stores, of global memory and of scratchpad; a store that frees a semaphore is a release too; an access that
fails a check raises its trap. -/
def Sys2Proof.Machine.ScalarMemoryWordsAccessMemory : Prop :=
  ∀ (f : SM) (s : State) (c t : Nat) (m : Team),
    ScalarReady s c t m (f.base.toNat :: dataRegs f) [f.base.toNat] [] 0 → (f.size = 4 → f.d.toNat % 2 = 0) →
    let x : Ctx := ⟨c, t, m⟩
    let n := sizeBytes f.size.toNat
    let va := (s.sreg c m f.base.toNat).val + BitVec.ofNat 64 (f.off.toNat * n)
    let pc := m.regs.spc + 4
    let addrMark := (s.sreg c m f.base.toNat).mark
    (∀ pa s1 s2 m2, checkAccess s c m Need.load false va n = (.ok pa, s1) → Committed (f.order == 1) s1 c t m s2 m2 →
      let r := s2.load c t pa n false (f.order == 1) scPackage
      ScalarGoesOn (exec (.sLd f) s)
        (r.2.longScalar c t (loadRegs f.size.toNat f.d.toNat r.1.1 (r.1.2 || addrMark)) [] true (!isMgmt pa)).2 c t pc f.w) ∧
    (∀ pa s1 s2 m2, checkAccess s c m Need.store false va n = (.ok pa, s1) →
      let frees := semFree pa (smData x s1 f).1
      Committed (frees || f.order == 2) s1 c t m s2 m2 → (frees = true → released s2 c scSystem = true) →
      (f.order = 2 → released s2 c scPackage = true) → storesOverflow s2 c m2 [pa] = false →
      ScalarGoesOn (exec (.sSt f) s)
        (s2.storeTeam c t { pa, data := (smData x s1 f).1, mark := (smData x s1 f).2, team := t, lane32 := false, va }) c t pc f.w) ∧
    (∀ p, checkScratch s c m false va n = .ok p →
      let r := (s.core p.core).read p.off n
      ScalarGoesOn (exec (.sLdsp f) s)
        ((s.longScalar c t (loadRegs f.size.toNat f.d.toNat r.1 (r.2 || addrMark)) [] true false).2.peerTouch c t p) c t pc f.w) ∧
    (∀ p, checkScratch s c m true va n = .ok p → undoOverflows s c m [(p, n)] = false →
      ScalarGoesOn (exec (.sStsp f) s) (s.teamScratch c t p (smData x s f).1 (smData x s f).2) c t pc f.w) ∧
    (∀ r s1, checkAccess s c m Need.load false va n = (.bad r, s1) → exec (.sLd f) s = .next (raise s c t m ⟨r, none, some m.regs.spc⟩)) ∧
    (∀ r s1, checkAccess s c m Need.store false va n = (.bad r, s1) → exec (.sSt f) s = .next (raise s c t m ⟨r, none, some m.regs.spc⟩)) ∧
    (∀ r, checkScratch s c m false va n = .error r → exec (.sLdsp f) s = .next (raise s c t m ⟨r, none, some m.regs.spc⟩)) ∧
    (∀ r, checkScratch s c m true va n = .error r → exec (.sStsp f) s = .next (raise s c t m ⟨r, none, some m.regs.spc⟩))

/-- R32: what a load puts into its registers. -/
def Sys2Proof.Machine.LoadsExtendTheirBytes : Prop :=
  ∀ (code d : Nat) (bs : List Byte) (mark : Bool), code < 8 → bs.length = sizeBytes code →
    (code < 4 → loadRegs code d bs mark = [(d, ⟨BitVec.ofNat 64 (bytesN bs), mark⟩)]) ∧
    (code = 4 → ∃ lo hi : Word, lo.toNat + 2 ^ 64 * hi.toNat = bytesN bs ∧ loadRegs code d bs mark = [(d, ⟨lo, mark⟩), (d + 1, ⟨hi, mark⟩)]) ∧
    (4 < code → ∃ v : Word, loadRegs code d bs mark = [(d, ⟨v, mark⟩)] ∧ v.toNat % 2 ^ (8 * bs.length) = bytesN bs ∧
      -2 ^ (8 * bs.length - 1) ≤ v.toInt ∧ v.toInt < 2 ^ (8 * bs.length - 1)) ∧
    (code ≤ 4 → ∀ lo hi : Word, storeBytes bs.length lo hi = bs → bytesN bs = (lo.toNat + 2 ^ 64 * hi.toNat) % 2 ^ (8 * bs.length))

/-- R32, R235, R236: the loads and stores of the scalar stream, and what a load makes of its bytes. -/
def Obligations.ScalarAccessesComplete : Prop := ScalarMemoryWordsAccessMemory ∧ LoadsExtendTheirBytes

/-- R237, R238, R235: the lane loads and stores. -/
def Sys2Proof.Machine.LaneMemoryWordsAccessMemory : Prop :=
  ∀ (f : Lane) (s : State) (c t : Nat) (m : Team) (i : Nat) (p : Split),
    let code := f.ty.toNat
    let n := sizeBytes code
    let dst := namedRegs f.vd.toNat (code = 4)
    let pc := p.lpc + 12
    (LaneIssues s c t m i p f { vd := .op, a := .op, x := true, imm := 0x3FFFFFF } { eat := [.a], pairD := code = 4, long := true } →
      let x := heldCtx s c t m i p f dst
      let h := heldState s c t m i p f dst
      (∀ ps s1, laneGlobal h x Need.load false n = (.ok ps, s1) → mustCommit s1 x (laneOrderOf f) (laneScopeOf f) = false →
        let r := s1.loadLanes x code ps (laneOrderOf f == 1)
        LaneGoesOn (exec (.vLd f) s) (r.2.longLane x r.1 true true).2 c t i pc) ∧
      (∀ r s1, laneGlobal h x Need.load false n = (.bad r, s1) → exec (.vLd f) s = .next (raise s c t m ⟨r, some (i, p.lpc), none⟩)) ∧
      (∀ ps, laneScratch h x false n = .ok ps →
        LaneGoesOn (exec (.vLdsp f) s)
          (ps.foldl (fun y e => y.peerTouch c t e.2) (h.longLane x (scratchLoads h x code ps) true false).2) c t i pc) ∧
      (∀ r, laneScratch h x false n = .bad r → exec (.vLdsp f) s = .next (raise s c t m ⟨r, some (i, p.lpc), none⟩))) ∧
    (LaneIssues s c t m i p f { tys := 0x1F, a := .op, b := .op, x := true, imm := 0x3FFFFFF }
        { eat := [.a], pairB := code = 4, noisy := true } →
      let x := heldCtx s c t m i p f [] true true
      let h := heldState s c t m i p f [] true true
      (∀ ps s1, laneGlobal h x Need.store false n = (.ok ps, s1) → mustCommit s1 x (laneOrderOf f) (laneScopeOf f) = false →
        let frees := (laneStores s1 x code ps).any fun y => semFree y.pa y.data
        (frees = true → (x.now s1).inRegion = false ∧ released s1 c scSystem = true) →
        (laneOrderOf f = 2 → released s1 c (laneScopeOf f) = true) →
        ((x.now s1).inRegion = true ∨ substBlocked s1 c (x.now s1) (laneStores s1 x code ps) = false) →
        storesOverflow s1 c (x.now s1) (ps.map (·.2)) = false →
        LaneGoesOn (exec (.vSt f) s) ((laneStores s1 x code ps).foldl (fun y e => y.storeTeam c t e) s1) c t i pc) ∧
      (∀ r s1, laneGlobal h x Need.store false n = (.bad r, s1) → exec (.vSt f) s = .next (raise s c t m ⟨r, some (i, p.lpc), none⟩)) ∧
      (∀ ps, laneScratch h x true n = .ok ps → undoOverflows h c (x.now h) (ps.map fun e => (e.2, n)) = false →
        LaneGoesOn (exec (.vStsp f) s)
          ((topLanes ps).foldl (fun y e => y.teamScratch c t e.2 (laneStoreData h x code e.1).1 (laneStoreData h x code e.1).2) h) c t i pc) ∧
      (∀ r, laneScratch h x true n = .bad r → exec (.vStsp f) s = .next (raise s c t m ⟨r, some (i, p.lpc), none⟩)))

/-- R238, R235: each running lane makes its access at va + OFF; if some fail, the word traps with the first failing check, the lanes that
fail it, and the address of the lowest of them. -/
def Sys2Proof.Machine.LaneAccessesFailTogether : Prop :=
  (∀ (x : LaneCtx) (l : Nat), laneAddr x l = (x.src .a l).val + (x.f.imm.setWidth 21).signExtend 64) ∧
  (∀ (x : LaneCtx) (l : Nat), x.f.x = true →
    ∀ n, n < 64 → (laneScratchAddr x l).getLsbD n =
      if n = 23 then true else if 20 ≤ n ∧ n < 23 then x.f.imm.getLsbD (26 + (n - 20)) else (laneAddr x l).getLsbD n) ∧
  (∀ (bad : List (Nat × Raise)) (r : Raise), (∀ e ∈ bad, e.1 < 1024) → firstFailing bad = some r →
    (bad.find? fun e => e.2.cause == r.cause).map (·.2.addr) = some r.addr ∧ (∀ e ∈ bad, causeRank r.cause ≤ causeRank e.2.cause) ∧
    (∀ l, r.lanes.getLsbD l = true ↔ ∃ e ∈ bad, e.1 = l ∧ e.2.cause = r.cause)) ∧
  (∀ bad : List (Nat × Raise), bad ≠ [] → firstFailing bad ≠ none)

/-- R235, R237, R238: the loads and stores of the lane stream, and how they fail. -/
def Obligations.LaneAccessesComplete : Prop := LaneMemoryWordsAccessMemory ∧ LaneAccessesFailTogether

/-- R223, R238: a load that nothing nearer serves returns the bytes of memory with the marks of their sector; it changes no memory and no register. -/
def Sys2Proof.Machine.LoadsReadMemory : Prop :=
  ∀ (s : State) (c t pa n : Nat) (nt : Bool), isMgmt pa = false → s.lost pa = false → pa % 32 + n ≤ 32 →
    (s.core c).l1.get none (pa / 32) = none → (s.die (dieOf c)).rdc.get none (pa / 32) = none → (s.core c).inflight = [] →
    (∀ m, s.team c t = some m → m.region = none) →
    let r := s.load c t pa n nt false scTeam
    r.1 = ((List.range n).map fun i => s.byteAt (pa + i), s.mem.marks.get false (pa / 32)) ∧
    r.2.mem = s.mem ∧ SameStores s r.2 ∧ SameTeam s r.2 c t ∧ (∀ q u, (q, u) ≠ (c, t) → r.2.team q u = s.team q u)

/-- R223, R225, R228, R232, R407: a store outside a region, or to a management register, first waits in its core, then writes exactly its bytes at
their home, and the marks of the sectors that it touches. -/
def Sys2Proof.Machine.StoresWriteTheirBytes : Prop :=
  (∀ (s : State) (c t : Nat) (m : Team) (x : Store), s.team c t = some m → m.substitute x = none →
    (x.mark = true → m.ctl.policy.getLsbD 1 = false) →
    let s' := s.storeTeam c t x
    s'.mem = s.mem ∧ SameStores s s' ∧
    if m.region = none ∨ isMgmt x.pa = true then (s'.core c).inflight = (s.core c).inflight ++ [x] ∧ s'.team c t = some m
    else (s'.core c).inflight = (s.core c).inflight ∧ s'.team c t = some { m with
      region := m.region.map fun g => { g with held := g.held ++ [⟨x.pa, x.data, x.mark, x.va, x.lane32⟩], passes := false } }) ∧
  (∀ (s : State) (c : Nat) (x : Store), isMgmt x.pa = false → s.lost x.pa = false → x.data ≠ [] →
    let s' := s.performStore c x
    let n := x.data.length
    (∀ i, i < n → s'.byteAt (x.pa + i) = x.data.getD i 0) ∧ (∀ a, (a < x.pa ∨ x.pa + n ≤ a) → s'.byteAt a = s.byteAt a) ∧
    (∀ u, s'.mem.marks.get false u = markAfter 32 x.pa n u x.mark (s.mem.marks.get false u)) ∧
    SameStores s s' ∧ (∀ q u, s'.team q u = s.team q u))

/-- R223, R225, R228, R232, R238: what a load reads and what a store writes. -/
def Obligations.LoadsAndStoresMeetMemory : Prop := LoadsReadMemory ∧ StoresWriteTheirBytes

/-- R21, R219, R235, R298: where a scratchpad access of a team may lie, and that nothing lies anywhere else. -/
def Sys2Proof.Machine.ScratchAccessesStayInTheirArea : Prop :=
  ∀ (s : State) (c : Nat) (m : Team) (store : Bool) (va : Word) (n : Nat),
    (va.toNat % n ≠ 0 → checkScratch s c m store va n = .error ⟨.misaligned, va, 0⟩) ∧
    (∀ r, va.toNat % n = 0 → checkScratch s c m store va n = .error r → r = ⟨.scratchBounds, va, 0⟩) ∧
    (∀ p, checkScratch s c m store va n = .ok p → va.toNat % n = 0 ∧ va.toNat < 2 ^ 24 ∧ ∃ a, (s.core c).part = some a ∧
      if va.getLsbD 23 then
        p.peer = true ∧ peerCore (s.core c) c m (va.toNat / 2 ^ 20 % 8) = some p.core ∧ a.spBase ≤ va.toNat % 2 ^ 20 ∧
        va.toNat % 2 ^ 20 + n ≤ a.spBase + a.spSize ∧
        p.off = ((s.core p.core).part.map (·.spBase)).getD 0 + (va.toNat % 2 ^ 20 - a.spBase)
      else
        p = ⟨c, va.toNat % 2 ^ 20, false⟩ ∧
        ((m.id.regwin ≤ p.off ∧ p.off + n ≤ m.id.regwin + windowBytes m.id.lanes m.id.vregs) ∨
         (a.spBase ≤ p.off ∧ p.off + n ≤ a.spBase + a.spSize) ∨
         (m.trap.handler = true ∧ a.trapBase ≤ p.off ∧ p.off + n ≤ a.trapBase + (a.l1Base - a.trapBase))) ∧
        (store = true → m.trap.handler = false → 0 < n → p.off + n ≤ m.id.regwin + 0x200 ∨ m.id.regwin + 0x400 ≤ p.off))

/-- The units of a core store that a write of n bytes at `off` touches and that are RES0 (R298, R299): they ignore it, and read as zero. -/
def Sys2Proof.Machine.deadUnit (k : Core) (off n u : Nat) : Prop := off < k.windowEnd ∧ off / 8 ≤ u ∧ 8 * u < off + n ∧ k.reserved u = true

/-- R222, R420, R299: a scratchpad store writes exactly its bytes, in the core store that it names, and the marks of the pieces that it touches;
bytes that are RES0 stay zero and unmarked. -/
def Sys2Proof.Machine.ScratchStoresWriteTheirBytes : Prop :=
  ∀ (s : State) (c t : Nat) (p : Place) (bs : List Byte) (mark : Bool), bs ≠ [] →
    let s' := s.teamScratch c t p bs mark
    let n := bs.length
    let dead := deadUnit (s.core p.core) p.off n
    (∀ i, i < n → ¬ dead ((p.off + i) / 8) → (s'.core p.core).byte (p.off + i) = bs.getD i 0) ∧
    (∀ u, dead u → (s'.core p.core).store.get 0 u = 0 ∧ (s'.core p.core).unitMarks.get false u = false) ∧
    (∀ q a, (q ≠ p.core ∨ ((a < p.off ∨ p.off + n ≤ a) ∧ ¬ dead (a / 8))) → (s'.core q).byte a = (s.core q).byte a) ∧
    (∀ u, ¬ dead u → (s'.core p.core).unitMarks.get false u =
      if p.off < (s.core p.core).windowEnd then markAfter 8 p.off n u mark ((s.core p.core).unitMarks.get false u)
      else (s.core p.core).unitMarks.get false u) ∧
    (∀ u, (s'.core p.core).sectorMarks.get false u =
      if p.off < (s.core p.core).windowEnd then (s.core p.core).sectorMarks.get false u
      else markAfter 32 p.off n u mark ((s.core p.core).sectorMarks.get false u)) ∧
    s'.mem = s.mem ∧ (∀ q, (s'.core q).acc = (s.core q).acc ∧ (s'.core q).part = (s.core q).part)

/-- R21, R219, R222, R235, R298, R420: where a scratchpad access may lie, and what a store leaves. -/
def Obligations.ScratchpadsHoldTheirBytes : Prop := ScratchAccessesStayInTheirArea ∧ ScratchStoresWriteTheirBytes

namespace Sys2Proof.Machine

/-- A word whose status is a long result for register d has had its effect, which s1 holds, and goes on (R304): d awaits the status. -/
abbrev WritesStatus (o : Host.Outcome State Fault Refusal) (s1 : State) (c t : Nat) (pc : Word) (w : Bool) (d : Nat) (v : Word)
    (mark : Bool) : Prop :=
  ScalarGoesOn o (s1.longScalar c t [(d, ⟨v, mark⟩)] [] true false).2 c t pc w

/-- A number of n bytes in a core store, and the same after a word. -/
def SameBytes (s s' : State) (except : Nat → Nat → Prop) : Prop :=
  ∀ q a, ¬ except q a → (s'.core q).byte a = (s.core q).byte a

/-- The memory bytes are as before. -/
def SameMemory (s s' : State) : Prop := ∀ a, s'.byteAt a = s.byteAt a

end Sys2Proof.Machine

/-- R304, R303: a long result is kept, with its registers and values, until a marker delivers it; its registers are marked as awaiting it, and
nothing else changes. -/
def Sys2Proof.Machine.LongResultsAreKeptForTheirRegisters : Prop :=
  (∀ (s : State) (c t : Nat) (m : Team) (regs : List (Nat × Marked)) (ks : List (Nat × Bool × Bool)) (ready fill : Bool),
    s.team c t = some m → (∀ e ∈ regs, e.1 < 64) → (∀ e ∈ ks, e.1 < 8) →
    let r := s.longScalar c t regs ks ready fill
    ∃ m', r.2.team c t = some m' ∧ r.1 = s.ticket ∧ r.2.ticket = s.ticket + 1 ∧
      m' = { m with regs := { m.regs with slongs := m'.regs.slongs, klongs := m'.regs.klongs }, pend := m'.pend } ∧
      m'.pend = m.pend ++ [⟨s.ticket, regs, ks, [], [], ready, false, fill⟩] ∧
      (∀ n, n < 64 → m'.regs.slongs.getLsbD n = (m.regs.slongs.getLsbD n || regs.any fun e => e.1 == n)) ∧
      (∀ n, n < 8 → m'.regs.klongs.getLsbD n = (m.regs.klongs.getLsbD n || ks.any fun e => e.1 == n && n != 0)) ∧
      OnlyTeam (s.core c) (r.2.core c) t [] ∧ OnlyCore s r.2 c) ∧
  (∀ (s : State) (x : LaneCtx) (m : Team) (outs : List (Nat × LaneOut)) (ready fill : Bool), s.team x.c x.t = some m →
    let r := s.longLane x outs ready fill
    ∃ m' e, r.2.team x.c x.t = some m' ∧ m' = { m with pend := m.pend ++ [e] } ∧ e.ticket = s.ticket ∧ e.ready = ready ∧ e.lane = true ∧
      e.sregs = [] ∧ e.ks = [] ∧
      (∀ j l v, (j, l, v) ∈ e.vregs ↔ ∃ o, (l, o) ∈ outs ∧
        ((j = x.f.vd.toNat ∧ j < 240 ∧ o.d = some v) ∨ (j = x.f.vd.toNat + 1 ∧ j < 240 ∧ o.d2 = some v))) ∧
      (∀ n l v k, (n, l, v, k) ∈ e.preds ↔ n = x.f.pd.toNat ∧ ∃ o, (l, o) ∈ outs ∧ o.p = some (v, k)) ∧
      OnlyTeam (s.core x.c) (r.2.core x.c) x.t [] ∧ OnlyCore s r.2 x.c)

/-- R241 to R244: `s.awset` sets TARGET and zeroes COUNT and the flags, leaving GEN; `s.awwait` returns GEN and the flags once the generation has
passed, and waits until then; a contribution counts its bytes and completes generations. (A word at a place that is RES0 keeps nothing:
ScratchStoresWriteTheirBytes.) -/
def Obligations.ArrivalWordsCountGenerations : Prop :=
  (∀ (f : SC) (s : State) (c t : Nat) (m : Team) (p : Place), ScalarReady s c t m [f.a.toNat, f.b.toNat] [f.a.toNat] [] 0 →
    checkScratch s c m true (s.sreg c m f.a.toNat).val 16 = .ok p → undoOverflows s c m [(p, 16)] = false →
    (∀ u, ¬ deadUnit (s.core p.core) p.off 16 u) →
    ∃ s1, ScalarGoesOn (exec (.sAwset f) s) s1 c t (m.regs.spc + 4) f.w ∧ SameMemory s s1 ∧
      (s1.core p.core).readN p.off 4 = (s.sreg c m f.b.toNat).val.toNat % 2 ^ 32 ∧ (s1.core p.core).readN (p.off + 4) 4 = 0 ∧
      (s1.core p.core).readN (p.off + 8) 4 = (s.core p.core).readN (p.off + 8) 4 ∧ (s1.core p.core).readN (p.off + 12) 4 = 0 ∧
      SameBytes s s1 fun q a => q = p.core ∧ p.off ≤ a ∧ a < p.off + 16) ∧
  (∀ (f : SC) (s : State) (c t : Nat) (m : Team) (p : Place),
    ScalarReady s c t m [f.a.toNat, f.b.toNat, f.d.toNat] [f.a.toNat, f.b.toNat] [] 0 →
    checkScratch s c m false (s.sreg c m f.a.toNat).val 16 = .ok p →
    let gen := (s.core p.core).readN (p.off + 8) 4
    let flags := (s.core p.core).readN (p.off + 12) 4
    let g := (s.sreg c m f.b.toNat).val.toNat % 2 ^ 32
    let d := (gen + 2 ^ 32 - g) % 2 ^ 32
    (1 ≤ d ∧ d < 2 ^ 31 →
      ScalarGoesOn (exec (.sAwwait f) s)
        ((s.longScalar c t [(f.d.toNat, ⟨BitVec.ofNat 64 (gen * 2 ^ 32 + flags % 256 * 2 ^ 8),
          ((s.core p.core).read p.off 16).2 || (s.sreg c m f.a.toNat).mark || (s.sreg c m f.b.toNat).mark⟩)] [] true false).2.peerTouch c t p)
        c t (m.regs.spc + 4) f.w) ∧
    (¬ (1 ≤ d ∧ d < 2 ^ 31) → exec (.sAwwait f) s = .next (scalarHold s c t (.arrival f.d.toNat p.core p.off g) f.w))) ∧
  (∀ (s : State) (q off b cause : Nat) (poison : Bool), 0 < b → cause < 16 → (∀ u, ¬ deadUnit (s.core q) off 16 u) →
    let k := s.core q
    let k' := (s.contribute q off b cause poison).core q
    let target := k.readN off 4
    let total := (k.readN (off + 4) 4 + b) % 2 ^ 32
    k'.readN off 4 = target ∧
    k'.readN (off + 4) 4 = (if target = 0 then total else total % target) ∧
    k'.readN (off + 8) 4 = (k.readN (off + 8) 4 + if target = 0 then 0 else total / target) % 2 ^ 32 ∧
    (k'.readN (off + 12) 4).testBit 0 = ((k.readN (off + 12) 4).testBit 0 || cause != 0) ∧
    (k'.readN (off + 12) 4).testBit 1 = ((k.readN (off + 12) 4).testBit 1 || poison) ∧
    SameMemory s (s.contribute q off b cause poison) ∧
    SameBytes s (s.contribute q off b cause poison) fun r a => r = q ∧ off ≤ a ∧ a < off + 16)

/-- R246 to R249, R251, R254, R428: an accepted copy joins its cluster's queue, and a stream takes a free register of its core; a field that breaks a rule
answers BAD_FIELD, and the ninth stream 8, and nothing else happens. -/
def Obligations.CopiesAndStreamsAreQueued : Prop :=
  (∀ (f : SC) (s : State) (c t : Nat) (m : Team) (off : Nat) (s1 : State) (m1 : Team),
    ScalarReady s c t m [f.a.toNat, f.d.toNat] [f.a.toNat] [] 0 →
    checkDescriptor s c m (s.sreg c m f.a.toNat).val = .ok off →
    descriptorPoison m f.a.toNat (((s.core c).read off 32).2 || ((s.core c).read (off + 0x30) 16).2) = none →
    Committed true s c t m s1 m1 → settled s1 c = true → (s1.cluster (clusterOf c)).copies.length < 32 →
    let d := (s1.core c).descriptor off
    let mark := ((s.core c).read off 32).2 || ((s.core c).read (off + 0x30) 16).2 || (s1.sreg c m f.a.toNat).mark
    (copyBad s1 c m1 off = true → WritesStatus (exec (.sCopy f) s) s1 c t (m.regs.spc + 4) f.w f.d.toNat 1 mark) ∧
    (∀ ps s2, copyBad s1 c m1 off = false →
      (if cpDstSp d then ([], s1) else s1.pieces none (dieOf c) m1.id.asid m1.id.runtime Need.range (cpDst d) (cpLen d)) = (ps, s2) →
      s2.rangesFull ps = false →
      ∃ s3, WritesStatus (exec (.sCopy f) s) s3 c t (m.regs.spc + 4) f.w f.d.toNat 0 mark ∧ SameMemory s2 s3 ∧ SameStores s2 s3 ∧
        (∀ q u, s3.team q u = s2.team q u) ∧
        s3.mem.ranges = s2.mem.ranges ++ (if ps = [] then [] else [⟨s2.ticket, ps, []⟩]) ∧
        (s3.cluster (clusterOf c)).copies = (s2.cluster (clusterOf c)).copies ++
          [{ ticket := s2.ticket, core := c, team := t, launch := m1.id.launch, off, desc := d, asid := m1.id.asid, runtime := m1.id.runtime,
             handler := m1.trap.handler, started := false, marked := false, broken := false, taken := [], entry := false }])) ∧
  (∀ (f : SC) (s : State) (c t : Nat) (m : Team) (pa : Nat) (s0 s1 : State) (m1 : Team),
    ScalarReady s c t m [f.a.toNat, f.d.toNat] [f.a.toNat] [] 0 →
    checkAccess s c m Need.load false (s.sreg c m f.a.toNat).val 64 = (.ok pa, s0) →
    Committed true s0 c t m s1 m1 → settled s1 c = true → descriptorPoison m f.a.toNat (s1.mem.mark pa 64) = none →
    let r := s1.readHome (dieOf c) pa 64
    let d := dwordsOf r.1.1
    let mark := r.1.2 || (r.2.sreg c m f.a.toNat).mark
    let bad := r.1.2 || streamBad r.2 c m1 d
    (bad = true → WritesStatus (exec (.sStream f) s) r.2 c t (m.regs.spc + 4) f.w f.d.toNat 1 mark) ∧
    (bad = false → (∀ i, i < 8 → (r.2.core c).streams.get none i ≠ none) →
      WritesStatus (exec (.sStream f) s) r.2 c t (m.regs.spc + 4) f.w f.d.toNat 8 mark) ∧
    (∀ i, bad = false → i < 8 → (r.2.core c).streams.get none i = none → (∀ j, j < i → (r.2.core c).streams.get none j ≠ none) →
      ∃ s3, WritesStatus (exec (.sStream f) s) s3 c t (m.regs.spc + 4) f.w f.d.toNat 0 mark ∧ SameStores r.2 s3 ∧ s3.mem = r.2.mem ∧
        (s3.core c).streams.get none i = some { desc := d, next := 0, asid := m1.id.asid, runtime := m1.id.runtime, broken := false, entry := false } ∧
        (∀ j, j ≠ i → (s3.core c).streams.get none j = (r.2.core c).streams.get none j) ∧ (∀ q u, s3.team q u = r.2.team q u)))

/-- R255, R256, R257, R234: prefetches change no register and no byte; each cache word drops, or makes clean, the copies of its range's lines in its
cache alone, and answers OK. A line of a compressed page that is written back may be poisoned as a whole. -/
def Sys2Proof.Machine.CacheWordsTouchOnlyTheirCache : Prop :=
  ∀ (f : SC) (s : State) (c t : Nat) (m : Team),
    let x : Ctx := ⟨c, t, m⟩
    let pc := m.regs.spc + 4
    let mark := (s.sreg c m f.a.toNat).mark || (s.sreg c m f.b.toNat).mark
    (ScalarReady s c t m [f.a.toNat, f.b.toNat] [f.a.toNat, f.b.toNat] [] 0 → ∀ ps s1,
      rangePieces x s Need.load f.a.toNat f.b.toNat = (ps, s1) →
      (∃ s2, ScalarGoesOn (exec (.sPrefL1 f) s) s2 c t pc f.w ∧ s2.mem = s1.mem ∧ SameStores s s2 ∧ ∀ q u, s2.team q u = s.team q u) ∧
      (∃ s2, ScalarGoesOn (exec (.sPrefL2 f) s) s2 c t pc f.w ∧ s2.mem = s1.mem ∧ SameStores s s2 ∧ ∀ q u, s2.team q u = s.team q u)) ∧
    (ScalarReady s c t m [f.a.toNat, f.b.toNat, f.d.toNat] [f.a.toNat, f.b.toNat] [] 0 → ∀ ps s1,
      rangePieces x s {} f.a.toNat f.b.toNat = (ps, s1) →
      let hit := fun pa n => meets (linesOf ps) pa n
      (∃ s2, WritesStatus (exec (.sCacheL1inv f) s) s2 c t pc f.w f.d.toNat 0 mark ∧ s2.mem = s1.mem ∧ SameStores s s2 ∧ s2.dies = s1.dies ∧
        (∀ q u, s2.team q u = s.team q u) ∧ (∀ q, q ≠ c → (s2.core q).l1 = (s1.core q).l1) ∧
        ∀ u, (s2.core c).l1.get none u = if hit (u * 32) 32 then none else (s1.core c).l1.get none u) ∧
      (∃ s2, WritesStatus (exec (.sCacheRdcinv f) s) s2 c t pc f.w f.d.toNat 0 mark ∧ s2.mem = s1.mem ∧ SameStores s s2 ∧ s2.cores = s1.cores ∧
        (∀ d, d ≠ dieOf c → (s2.die d).rdc = (s1.die d).rdc) ∧
        ∀ u, (s2.die (dieOf c)).rdc.get none u = if hit (u * 32) 32 then none else (s1.die (dieOf c)).rdc.get none u) ∧
      (∃ s2, WritesStatus (exec (.sCacheL2wb f) s) s2 c t pc f.w f.d.toNat 0 mark ∧ SameMemory s1 s2 ∧ SameStores s s2 ∧ s2.cores = s1.cores ∧
        (∀ u, hit (u / 4 * 128) 128 = false ∨ s1.mem.cmp.get false (u / 2048) = false → s2.mem.marks.get false u = s1.mem.marks.get false u) ∧
        (∀ u, s1.mem.marks.get false u = true → s2.mem.marks.get false u = true) ∧
        (∀ d, (s2.die d).rdc = (s1.die d).rdc) ∧
        ∀ d u, (s2.die d).l2.get none u =
          if hit (u * 128) 128 then ((s1.die d).l2.get none u).map (fun _ => false) else (s1.die d).l2.get none u)) ∧
    (ScalarReady s c t m [f.a.toNat, f.b.toNat, f.d.toNat] [f.a.toNat, f.b.toNat] [] 0 → ∀ s0 m0, Committed true s c t m s0 m0 →
      (∀ ps s1, storesHome s0 c t = true → rangePieces x s0 {} f.a.toNat f.b.toNat = (ps, s1) →
        let hit := fun pa n => meets (linesOf ps) pa n
        let mark := (s0.sreg c m f.a.toNat).mark || (s0.sreg c m f.b.toNat).mark
        ∃ s2, WritesStatus (exec (.sCacheIcinv f) s) s2 c t pc f.w f.d.toNat 0 mark ∧ s2.mem = s1.mem ∧ SameStores s0 s2 ∧
          (∀ q u, s2.team q u = s0.team q u) ∧
          (∀ u, (s2.core c).icache.get none u = if hit (u * 4) 4 then none else (s1.core c).icache.get none u) ∧
          (∀ u, (s2.core c).lcache.get none u = if hit (u * 4) 4 then none else (s1.core c).lcache.get none u) ∧
          ∀ u, (s2.die (dieOf c)).rdc.get none u = if hit (u * 32) 32 then none else (s1.die (dieOf c)).rdc.get none u) ∧
      (storesHome s0 c t = false → exec (.sCacheIcinv f) s = .next (scalarHold s0 c t .drain f.w)))

/-- R269, R270, R271, R289: fences. A fence wider than team scope first commits an open region; a release waits for the stores of its core that are on their
way, those of other teams included, since it is cumulative; an acquire discards what its scope's caches held, and nothing else changes. -/
def Sys2Proof.Machine.FencesReleaseAndAcquire : Prop :=
  (∀ (scope : BitVec 3) (f : SC) (s : State) (c t : Nat) (m : Team) (s1 : State) (m1 : Team), ScalarReady s c t m [] [] [] 0 →
    Committed (scope != 0) s c t m s1 m1 →
    let pc := m.regs.spc + 4
    ScalarGoesOn (exec (.sFenceAcq scope f) s) (s1.acquire c scope.toNat) c t pc f.w ∧
    (released s1 c scope.toNat = true →
      ScalarGoesOn (exec (.sFenceRel scope f) s) s1 c t pc f.w ∧
      ScalarGoesOn (exec (.sFenceAcqrel scope f) s) (s1.acquire c scope.toNat) c t pc f.w) ∧
    (released s1 c scope.toNat = false →
      exec (.sFenceRel scope f) s = .next (scalarHold s1 c t .drain f.w) ∧
      exec (.sFenceAcqrel scope f) s = .next (scalarHold s1 c t .drain f.w))) ∧
  (∀ (s : State) (c scope : Nat),
    let s' := s.acquire c scope
    s'.mem = s.mem ∧ SameStores s s' ∧ (∀ q u, s'.team q u = s.team q u) ∧
    (s'.core c).l1Gen = (s.core c).l1Gen + (if 2 ≤ scope then 1 else 0) ∧
    (s'.die (dieOf c)).rdcGen = (s.die (dieOf c)).rdcGen + (if 3 ≤ scope then 1 else 0)) ∧
  (∀ (s : State) (c scope : Nat), released s c scope = true ↔ scope ≤ 1 ∨ (s.core c).inflight = []) ∧
  (∀ (s : State) (gen sector : Nat) (x : Sector), Sector.fresh s gen sector x = true ↔ x.gen = gen ∨ s.mem.sealed (sector * 32) = true)

/-- R255 to R257, R269 to R271, R289: the words on caches, and the fences. -/
def Obligations.CachesAndFencesOrderAccesses : Prop := CacheWordsTouchOnlyTheirCache ∧ FencesReleaseAndAcquire

/-- R272, R274, R276, R426: the scalar atomics. The old value and the new mark come from one access at the home; `s.cas` writes only on a match. -/
def Sys2Proof.Machine.ScalarAtomicsUpdateMemoryOnce : Prop :=
  (∀ (o : AtomOp) (scope : BitVec 3) (f : SC) (s : State) (c t : Nat) (m : Team) (pa : Nat) (s1 s2 : State) (m2 : Team),
    ScalarReady s c t m [f.a.toNat, f.b.toNat, f.d.toNat] (if atomCode o = 8 then [f.a.toNat] else [f.a.toNat, f.b.toNat]) [] 0 →
    checkAccess s c m Need.atomic true (s.sreg c m f.a.toNat).val (atomBytes o) = (.ok pa, s1) → Committed true s1 c t m s2 m2 →
    let am := (s.sreg c m f.a.toNat).mark
    let bm := (s.sreg c m f.b.toNat).mark
    let pc := m.regs.spc + 4
    let n := atomBytes o
    let r := s2.atomic c pa n fun u mk => some (comb (atomCode o) n u (s2.sreg c m f.b.toNat).val.toNat, mk || am || bm)
    let e := (r.2.longScalar c t [(f.d.toNat, ⟨BitVec.ofNat 64 r.1.1, r.1.2 || am⟩)] [] true true).2
    ScalarGoesOn (exec (.sAtom o scope f) s) e c t pc f.w ∧
    ScalarGoesOn (exec (.sAtomAcq o scope f) s) (e.acquire c scope.toNat) c t pc f.w ∧
    (released s2 c scope.toNat = true →
      ScalarGoesOn (exec (.sAtomRel o scope f) s) e c t pc f.w ∧
      ScalarGoesOn (exec (.sAtomAcqrel o scope f) s) (e.acquire c scope.toNat) c t pc f.w)) ∧
  (∀ (order size : BitVec 2) (scope : BitVec 3) (f : SC) (s : State) (c t : Nat) (m : Team) (pa : Nat) (s1 s2 : State) (m2 : Team),
    let d := f.d.toNat
    let b := f.b.toNat
    let pair (r : Nat) : List Nat := if size = 2 then [r, r + 1] else [r]
    let n := if size = 0 then 4 else if size = 1 then 8 else 16
    ScalarReady s c t m (pair d ++ [f.a.toNat] ++ pair b ++ pair d) (pair d ++ [f.a.toNat]) [] 0 →
    (size = 2 → d % 2 = 0 ∧ b % 2 = 0) →
    checkAccess s c m Need.atomic true (s.sreg c m f.a.toNat).val n = (.ok pa, s1) → Committed true s1 c t m s2 m2 →
    (order.getLsbD 1 = true → released s2 c scope.toNat = true) →
    let value (i : Nat) : Nat :=
      ((s.sreg c m i).val.toNat + if size = 2 then (s.sreg c m (i + 1)).val.toNat * 2 ^ 64 else 0) % 2 ^ (8 * n)
    let mark := (pair d ++ [f.a.toNat] ++ pair b).any fun i => (s.sreg c m i).mark
    let r := s2.atomic c pa n fun u mk => if u = value d then some (value b, mk || mark) else none
    let am := (s.sreg c m f.a.toNat).mark
    let regs := (d, ⟨BitVec.ofNat 64 r.1.1, r.1.2 || am⟩) ::
      if size = 2 then [(d + 1, (⟨BitVec.ofNat 64 (r.1.1 / 2 ^ 64), r.1.2 || am⟩ : Marked))] else []
    let e := (r.2.longScalar c t regs [] true true).2
    ScalarGoesOn (exec (.sCas order size scope f) s) (if order.getLsbD 0 then e.acquire c scope.toNat else e) c t (m.regs.spc + 4) f.w) ∧
  (∀ (s : State) (c pa n : Nat) (fn : Nat → Bool → Option (Nat × Bool)), isMgmt pa = false → s.lost pa = false →
    (s.core c).inflight = [] → 0 < n → pa % 32 + n ≤ 32 →
    let u := bytesN (s.mem.read pa n)
    let mark := s.mem.marks.get false (pa / 32)
    let r := s.atomic c pa n fn
    r.1 = (u, mark) ∧ SameStores s r.2 ∧ (∀ q v, r.2.team q v = s.team q v) ∧ (∀ a, (a < pa ∨ pa + n ≤ a) → r.2.byteAt a = s.byteAt a) ∧
    match fn u mark with
    | none => r.2.mem = s.mem
    | some (v, k) => r.2.mem.read pa n = natBytes n v ∧
        ∀ u, r.2.mem.marks.get false u = markAfter 32 pa n u k (s.mem.marks.get false u))

/-- R274: what each operation combines, at 64 and at 32 bits. -/
def Sys2Proof.Machine.AtomicsCombineByTheirCode : Prop :=
  (∀ u x : Word,
    BitVec.ofNat 64 (comb 0 8 u.toNat x.toNat) = u + x ∧ BitVec.ofNat 64 (comb 1 8 u.toNat x.toNat) = u &&& x ∧
    BitVec.ofNat 64 (comb 2 8 u.toNat x.toNat) = u ||| x ∧ BitVec.ofNat 64 (comb 3 8 u.toNat x.toNat) = u ^^^ x ∧
    BitVec.ofNat 64 (comb 4 8 u.toNat x.toNat) = (if x.slt u then x else u) ∧
    BitVec.ofNat 64 (comb 5 8 u.toNat x.toNat) = (if u.slt x then x else u) ∧
    BitVec.ofNat 64 (comb 6 8 u.toNat x.toNat) = (if x < u then x else u) ∧
    BitVec.ofNat 64 (comb 7 8 u.toNat x.toNat) = (if u < x then x else u) ∧
    BitVec.ofNat 64 (comb 8 8 u.toNat x.toNat) = x ∧
    comb 9 8 u.toNat x.toNat = (roundR .f64 .rne (exactAdd .rne (f64 u) (f64 x))).1) ∧
  (∀ u x : Word, BitVec.ofNat 32 (comb 0 4 u.toNat x.toNat) = u.setWidth 32 + x.setWidth 32 ∧
    BitVec.ofNat 32 (comb 4 4 u.toNat x.toNat) = (if (x.setWidth 32).slt (u.setWidth 32) then x.setWidth 32 else u.setWidth 32) ∧
    BitVec.ofNat 32 (comb 8 4 u.toNat x.toNat) = x.setWidth 32 ∧ comb 0 4 u.toNat x.toNat < 2 ^ 32) ∧
  (∀ o : AtomOp, (atomCode o, atomBytes o) = match o with
    | .add => (0, 8) | .and => (1, 8) | .or => (2, 8) | .xor => (3, 8) | .min => (4, 8) | .max => (5, 8) | .minN => (6, 8) | .maxN => (7, 8)
    | .swap => (8, 8) | .add32 => (0, 4) | .swap32 => (8, 4) | .faddF64 => (9, 8))

/-- R272, R274, R276, R426: the scalar atomics and what they compute. -/
def Obligations.ScalarAtomicsComplete : Prop := ScalarAtomicsUpdateMemoryOnce ∧ AtomicsCombineByTheirCode

namespace Sys2Proof.Machine

/-- The running lanes, ascending, whose location is that of lane l, and those of them below l. -/
def sharers {α : Type} [DecidableEq α] (lanes : List Nat) (loc : Nat → α) (l : Nat) : List Nat := lanes.filter fun k => loc k = loc l
def sharersBelow {α : Type} [DecidableEq α] (lanes : List Nat) (loc : Nat → α) (l : Nat) : List Nat :=
  lanes.filter fun k => loc k = loc l ∧ k < l

/-- What lanes combine in the core before one request leaves (R278): the operand of the first, then Comb with each next one. -/
def combined (f : Lane) (x : Nat → Nat) : List Nat → Nat
  | [] => 0
  | l :: r => r.foldl (fun a k => laneComb f a (x k)) (x l)

/-- What a location that held `old` holds after the request of lanes, and what the lane after them is answered (R278). -/
def atomicResult (f : Lane) (x : Nat → Nat) (old : Nat) (ls : List Nat) : Nat := if ls = [] then old else laneComb f old (combined f x ls)

/-- What a location holds after compare-and-swaps of lanes in order (R280). -/
def swapResult (want new : Nat → Nat) (old : Nat) (ls : List Nat) : Nat := ls.foldl (fun u k => if u = want k then new k else u) old

/-- A lane atomic has completed: its split goes on, and one long result more awaits its marker; `vs` are its register values. -/
def LaneAtomicDone (o : Host.Outcome State Fault Refusal) (s' : State) (c t i : Nat) (m : Team) (p : Split) (f : Lane) (r : LongRes) : Prop :=
  o = .next s' ∧ ∃ m' q, s'.team c t = some m' ∧ m'.ctl.split i = some q ∧ q.lpc = p.lpc + 12 ∧ m'.pend = m.pend ++ [r] ∧ r.ready = true ∧
    r.lane = true ∧ r.sregs = [] ∧ (f.vd.toNat < 240 → q.longs.getLsbD f.vd.toNat = true)

end Sys2Proof.Machine

/-- R277 to R280: a lane atomic whose checks pass completes; it makes its accesses through the model's `laneAtoms`, `scratchAtoms` or `laneSwaps`,
and its lanes await what they answer. -/
def Sys2Proof.Machine.LaneAtomicsQueueTheirResults : Prop :=
  (∀ (f : Lane) (s : State) (c t : Nat) (m : Team) (i : Nat) (p : Split),
    let dst := namedRegs f.vd.toNat false
    let x := heldCtx s c t m i p f dst true true
    let h := heldState s c t m i p f dst true true
    let n := laneAtomBytes f
    let eat := if f.imm.toNat / 2 ^ 29 % 16 = 8 then [Src.a] else [Src.a, Src.b]
    (LaneReady s c t m i p f [.a, .b] eat true [] →
      (∀ ps s1, laneGlobal h x Need.atomic true n = (.ok ps, s1) → laneAtomicWaits s1 x = none →
        let r := s1.laneAtoms x ps
        let e := if laneAcq f && !x.lanes.isEmpty then r.2.acquire c (laneScopeOf f) else r.2
        LaneGoesOn (exec (.vAtom f) s) (e.longLane x r.1 true true).2 c t i (p.lpc + 12)) ∧
      (∀ ps, laneScratch h x true n = .ok ps → laneAtomicWaits h x = none →
        let r := h.scratchAtoms x ps
        LaneGoesOn (exec (.vAtomsp f) s) (r.2.longLane x r.1 true false).2 c t i (p.lpc + 12)) ∧
      (∀ r s1, laneGlobal h x Need.atomic true n = (.bad r, s1) →
        exec (.vAtom f) s = .next (raise s c t m ⟨r, some (i, p.lpc), none⟩)) ∧
      (∀ r, laneScratch h x true n = .bad r → exec (.vAtomsp f) s = .next (raise s c t m ⟨r, some (i, p.lpc), none⟩)) ∧
      (m.region ≠ none → x.lanes ≠ [] →
        (∀ ps s1, laneGlobal h x Need.atomic true n = (.ok ps, s1) →
          exec (.vAtom f) s = .next (commitLane (s.laneServed c t) c t m)) ∧
        (∀ ps, laneScratch h x true n = .ok ps → exec (.vAtomsp f) s = .next (commitLane (s.laneServed c t) c t m))))) ∧
  (∀ (f : Lane) (s : State) (c t : Nat) (m : Team) (i : Nat) (p : Split),
    let dst := namedRegs f.vd.toNat false ++ (if f.pd = 0 then [] else [240 + f.pd.toNat])
    let x := heldCtx s c t m i p f dst true true
    let h := heldState s c t m i p f dst true true
    LaneReady s c t m i p f [.a, .b, .c] [.a, .b] true [] →
      ∀ ps s1, laneGlobal h x Need.atomic true (laneAtomBytes f) = (.ok ps, s1) → laneAtomicWaits s1 x = none →
        let r := s1.laneSwaps x ps
        let e := if laneAcq f && !x.lanes.isEmpty then r.2.acquire c (laneScopeOf f) else r.2
        LaneGoesOn (exec (.vCas f) s) (e.longLane x r.1 true true).2 c t i (p.lpc + 12)) ∧
  (∀ (f : Lane) (x : Nat → Nat) (ls : List Nat) (old : Nat) (mark : Bool), f.ty ≠ 2 → f.imm.toNat / 2 ^ 29 % 16 ≤ 8 → ls ≠ [] →
    old < 2 ^ (8 * laneAtomBytes f) → (∀ l, x l < 2 ^ (8 * laneAtomBytes f)) →
    let r := merge f x ls
    laneComb f old r.1 = ls.foldl (fun a l => laneComb f a (x l)) old ∧
    merged f old mark r.2 = (List.range ls.length).map fun j =>
      (ls.getD j 0, ({ d := some ⟨BitVec.ofNat 64 ((ls.take j).foldl (fun a l => laneComb f a (x l)) old), mark⟩ } : LaneOut)))

/-- R278, R279: `v.atom` outside a region completes: each location that its lanes name holds Comb of what it held and what the lanes have combined in
ascending order, every other byte is as the checks left it, and each lane is answered what the lanes below it at its location would have
left. (A location that lanes reach by two virtual addresses gets two requests, whose order is open.) -/
def Sys2Proof.Machine.LaneAtomicsCombineInMemory : Prop :=
  ∀ (f : Lane) (s s1 : State) (c t : Nat) (m : Team) (i : Nat) (p : Split) (pa : Nat → Nat),
    let dst := namedRegs f.vd.toNat false
    let x := heldCtx s c t m i p f dst true true
    let n := laneAtomBytes f
    let lanes := runningLanes m p f
    let opnd := fun l => (laneSource s c m p f .b l).val.toNat % 2 ^ (8 * n)
    LaneReady s c t m i p f [.a, .b] (if f.imm.toNat / 2 ^ 29 % 16 = 8 then [Src.a] else [Src.a, Src.b]) true [] →
    laneGlobal (heldState s c t m i p f dst true true) x Need.atomic true n = (.ok (lanes.map fun l => (l, pa l)), s1) →
    m.region = none → (s.core c).inflight = [] →
    (∀ l ∈ lanes, pa l % n = 0 ∧ isMgmt (pa l) = false ∧ s.lost (pa l) = false) →
    ∃ s' r, LaneAtomicDone (exec (.vAtom f) s) s' c t i m p f r ∧
      (∀ a, (∀ l ∈ lanes, a < pa l ∨ pa l + n ≤ a) → s'.byteAt a = s1.byteAt a) ∧
      (∀ l ∈ lanes, (∀ k ∈ lanes, pa k = pa l → laneAddr x k = laneAddr x l) →
        let old := bytesN (s1.mem.read (pa l) n)
        s'.mem.read (pa l) n = natBytes n (atomicResult f opnd old (sharers lanes pa l)) ∧
        (f.vd.toNat < 240 → ∃ mark, (f.vd.toNat, l, ⟨BitVec.ofNat 64 (atomicResult f opnd old (sharersBelow lanes pa l)), mark⟩) ∈ r.vregs))

/-- R278, R279: the same of `v.atomsp` in core stores; bytes that are RES0 are left aside. -/
def Sys2Proof.Machine.LaneAtomicsCombineInScratchpads : Prop :=
  ∀ (f : Lane) (s : State) (c t : Nat) (m : Team) (i : Nat) (p : Split) (q : Nat → Place),
    let dst := namedRegs f.vd.toNat false
    let x := heldCtx s c t m i p f dst true true
    let n := laneAtomBytes f
    let lanes := runningLanes m p f
    let opnd := fun l => (laneSource s c m p f .b l).val.toNat % 2 ^ (8 * n)
    LaneReady s c t m i p f [.a, .b] (if f.imm.toNat / 2 ^ 29 % 16 = 8 then [Src.a] else [Src.a, Src.b]) true [] →
    laneScratch (heldState s c t m i p f dst true true) x true n = .ok (lanes.map fun l => (l, q l)) → m.region = none →
    (∀ l ∈ lanes, ∀ u, ¬ deadUnit (s.core (q l).core) (q l).off n u) →
    ∃ s' r, LaneAtomicDone (exec (.vAtomsp f) s) s' c t i m p f r ∧ SameMemory s s' ∧
      (∀ w a, (∀ l ∈ lanes, (q l).core ≠ w ∨ a < (q l).off ∨ (q l).off + n ≤ a) → (s'.core w).byte a = (s.core w).byte a) ∧
      (∀ l ∈ lanes, (∀ k ∈ lanes, q k = q l ∨ (q k).core ≠ (q l).core ∨ (q k).off + n ≤ (q l).off ∨ (q l).off + n ≤ (q k).off) →
        let old := (s.core (q l).core).readN (q l).off n
        ((s'.core (q l).core).read (q l).off n).1 = natBytes n (atomicResult f opnd old (sharers lanes q l)) ∧
        (f.vd.toNat < 240 → ∃ mark, (f.vd.toNat, l, ⟨BitVec.ofNat 64 (atomicResult f opnd old (sharersBelow lanes q l)), mark⟩) ∈ r.vregs))

/-- R280: `v.cas` outside a region completes: at each location the lanes that name it compare and swap one after the other, in ascending order; each
lane is answered the value that it found, and in pd whether it swapped. -/
def Sys2Proof.Machine.LaneSwapsActInLaneOrder : Prop :=
  ∀ (f : Lane) (s s1 : State) (c t : Nat) (m : Team) (i : Nat) (p : Split) (pa : Nat → Nat),
    let dst := namedRegs f.vd.toNat false ++ (if f.pd = 0 then [] else [240 + f.pd.toNat])
    let x := heldCtx s c t m i p f dst true true
    let n := laneAtomBytes f
    let lanes := runningLanes m p f
    let want := fun l => (laneSource s c m p f .b l).val.toNat % 2 ^ (8 * n)
    let new := fun l => (laneSource s c m p f .c l).val.toNat % 2 ^ (8 * n)
    LaneReady s c t m i p f [.a, .b, .c] [.a, .b] true [] →
    laneGlobal (heldState s c t m i p f dst true true) x Need.atomic true n = (.ok (lanes.map fun l => (l, pa l)), s1) →
    m.region = none → (s.core c).inflight = [] →
    (∀ l ∈ lanes, pa l % n = 0 ∧ isMgmt (pa l) = false ∧ s.lost (pa l) = false) →
    ∃ s' r, LaneAtomicDone (exec (.vCas f) s) s' c t i m p f r ∧
      (f.pd ≠ 0 → ∃ m' q, s'.team c t = some m' ∧ m'.ctl.split i = some q ∧ q.longs.getLsbD (240 + f.pd.toNat) = true) ∧
      (∀ a, (∀ l ∈ lanes, a < pa l ∨ pa l + n ≤ a) → s'.byteAt a = s1.byteAt a) ∧
      ∀ l ∈ lanes,
        let old := bytesN (s1.mem.read (pa l) n)
        let found := swapResult want new old (sharersBelow lanes pa l)
        s'.mem.read (pa l) n = natBytes n (swapResult want new old (sharers lanes pa l)) ∧
        (f.vd.toNat < 240 → ∃ mark, (f.vd.toNat, l, ⟨BitVec.ofNat 64 found, mark⟩) ∈ r.vregs) ∧
        (f.pd ≠ 0 → ∃ mark, (f.pd.toNat, l, found == want l, mark) ∈ r.preds)

/-- R277, R279, R275: what a lane atomic combines: the operation of its code at its width, or two bf16 sums. -/
def Sys2Proof.Machine.LaneAtomicsCombineByTheirCode : Prop :=
  ∀ (f : Lane) (u x : Nat),
    (f.ty ≠ 2 → laneComb f u x = comb (f.imm.toNat / 2 ^ 29 % 16) (if f.ty = 1 then 8 else 4) u x) ∧
    (f.ty = 2 → laneComb f u x % 2 ^ 16 = (roundR .bf16 .rne (exactAdd .rne (FFmt.bf16.value (u % 2 ^ 16)) (FFmt.bf16.value (x % 2 ^ 16)))).1 ∧
      laneComb f u x / 2 ^ 16 =
        (roundR .bf16 .rne (exactAdd .rne (FFmt.bf16.value (u / 2 ^ 16 % 2 ^ 16)) (FFmt.bf16.value (x / 2 ^ 16 % 2 ^ 16)))).1)

/-- R277 to R280: the lane atomics; lanes of one word that name one address act as if one after the other, in ascending order. -/
def Obligations.LaneAtomicsActInLaneOrder : Prop :=
  LaneAtomicsQueueTheirResults ∧ LaneAtomicsCombineInMemory ∧ LaneAtomicsCombineInScratchpads ∧ LaneSwapsActInLaneOrder ∧
  LaneAtomicsCombineByTheirCode

/-- R282, R283: named barriers. A phase completes when its arrivals reach the expected count; `s.bar.sync` goes on only once it has. -/
def Obligations.BarriersCountArrivals : Prop :=
  ∀ (f : SBar) (s : State) (c t : Nat) (m : Team),
    let b := f.bar.toNat
    let v := s.barrier c b
    let pc := m.regs.spc + 4
    let others := fun (s s' : State) => ∀ a, a ≠ b → s'.barrier c a = s.barrier c a
    let illegal := Host.Outcome.next (raise s c t m ⟨⟨.illegalOperand, 0, 0⟩, none, some m.regs.spc⟩)
    (ScalarReady s c t m [f.d.toNat] [f.d.toNat] [] 0 →
      let e := (s.sreg c m f.d.toNat).val.toNat
      (1 ≤ e ∧ e ≤ 32 →
        ∃ s1, ScalarGoesOn (exec (.sBarInit f) s) s1 c t pc f.w ∧ others s s1 ∧
          s1.barrier c b = (if e ≤ v.count then ⟨e, 0, v.phase + 1⟩ else ⟨e, v.count, v.phase⟩) ∧
          s1.mem = s.mem ∧ SameStores s s1 ∧ s1.team c t = some m) ∧
      (¬ (1 ≤ e ∧ e ≤ 32) → exec (.sBarInit f) s = illegal)) ∧
    (ScalarReady s c t m [] [] [] 0 →
      (v.expected = 0 → exec (.sBarArrive f) s = illegal) ∧
      (v.expected = 0 → (∀ a q, m.sched.hold ≠ some (.barrier a q)) → exec (.sBarSync f) s = illegal) ∧
      (∀ s1 m1, v.expected ≠ 0 → Committed true s c t m s1 m1 →
        let v := s1.barrier c b
        let v' : Barrier := if v.expected ≤ v.count + 1 then ⟨v.expected, 0, v.phase + 1⟩ else ⟨v.expected, v.count + 1, v.phase⟩
        ∃ s2, s2.barrier c b = v' ∧ others s1 s2 ∧ s2.mem = s1.mem ∧ SameStores s1 s2 ∧ (∀ q u, s2.team q u = s1.team q u) ∧
          ScalarGoesOn (exec (.sBarArrive f) s) s2 c t pc f.w ∧
          ((∀ a q, m.sched.hold ≠ some (.barrier a q)) →
            (v.phase ≠ v'.phase → ScalarGoesOn (exec (.sBarSync f) s) s2 c t pc f.w) ∧
            (v.phase = v'.phase → exec (.sBarSync f) s = .next (scalarHold s2 c t (.barrier b v.phase) f.w)))) ∧
      (∀ a q, m.sched.hold = some (.barrier a q) →
        (v.phase ≠ q → ScalarGoesOn (exec (.sBarSync f) s) s c t pc f.w) ∧
        (v.phase = q → exec (.sBarSync f) s = .next (scalarHold s c t (.barrier b q) f.w))))

/-- R285, R286, R287: a seal takes in exactly the pages of its range, an unseal releases exactly them, and neither changes a byte; a range that is no
run of whole pages answers 1. -/
def Sys2Proof.Machine.SealsCoverTheirPages : Prop :=
  ∀ (scope : BitVec 3) (f : SC) (s : State) (c t : Nat) (m : Team) (s1 : State) (pages : List (Nat × Nat × Nat)) (s2 : State) (m2 : Team),
    ScalarReady s c t m [f.a.toNat, f.b.toNat, f.d.toNat] [f.a.toNat, f.b.toNat] [] 0 →
    let va := (s.sreg c m f.a.toNat).val.toNat
    let len := (s.sreg c m f.b.toNat).val.toNat
    sealPages ⟨c, t, m⟩ s va len = (.ok pages, s1) → Committed true s1 c t m s2 m2 → released s2 c scope.toNat = true →
    let mark := (s2.sreg c m f.a.toNat).mark || (s2.sreg c m f.b.toNat).mark
    let whole := len ≠ 0 ∧ (pages.headD (1, 1, 0)).1 = va ∧ (pages.getLastD (1, 1, 0)).1 + (pages.getLastD (1, 1, 0)).2.1 = va + len
    let inside := fun a => pages.any fun p => decide (p.2.2 ≤ a ∧ a < p.2.2 + p.2.1)
    (¬ whole →
      WritesStatus (exec (.sSeal scope f) s) s2 c t (m.regs.spc + 4) f.w f.d.toNat 1 mark ∧
      WritesStatus (exec (.sUnseal scope f) s) s2 c t (m.regs.spc + 4) f.w f.d.toNat 1 mark) ∧
    (whole → (∀ r ∈ s2.mem.ranges, ∀ p ∈ r.pieces, meets (pages.map fun p => (p.2.2, p.2.1)) p.1 p.2 = false) →
      (∀ e ∈ s2.cores, ∀ y ∈ e.2.inflight, meets (pages.map fun p => (p.2.2, p.2.1)) y.pa y.data.length = false) →
      ∃ s3, WritesStatus (exec (.sSeal scope f) s) s3 c t (m.regs.spc + 4) f.w f.d.toNat 0 mark ∧ SameMemory s2 s3 ∧ SameStores s2 s3 ∧
        (∀ q u, s3.team q u = s2.team q u) ∧ ∀ a, s3.mem.sealed a = (s2.mem.sealed a || inside a)) ∧
    (whole →
      ∃ s3, ScalarGoesOn (exec (.sUnseal scope f) s) s3 c t (m.regs.spc + 4) f.w ∧ SameMemory s2 s3 ∧ SameStores s2 s3 ∧
        (∃ m3, s3.team c t = some m3 ∧ m3.regs.slongs = setBit m2.regs.slongs f.d.toNat true ∧
          m3.pend = m2.pend ++ [⟨s2.ticket, [(f.d.toNat, ⟨0, mark⟩)], [], [], [], true, false, false⟩]) ∧
        ∀ a, s3.mem.sealed a = (s2.mem.sealed a && !inside a))

namespace Sys2Proof.Machine

/-! ### The matrix unit and Yarrow (chapters 06 and 07) -/

/-- A scalar word raises a trap at its own place, and takes no effect. -/
abbrev Raises (o : Host.Outcome State Fault Refusal) (s : State) (c t : Nat) (m : Team) (r : Raise) : Prop :=
  o = .next (raise s c t m ⟨r, none, some m.regs.spc⟩)

/-- A lane word raises a trap at its split's place, and takes no effect. -/
abbrev LaneRaises (o : Host.Outcome State Fault Refusal) (s : State) (c t : Nat) (m : Team) (i : Nat) (p : Split) (r : Raise) : Prop :=
  o = .next (raise s c t m ⟨r, some (i, p.lpc), none⟩)

/-- The team's long results have gained one, still to be formed, for the scalar registers `ds` (R304). -/
def AwaitsResult (m m' : Team) (ticket : Nat) (ds : List Nat) (mark : Bool) : Prop :=
  m'.pend = m.pend ++ [⟨ticket, ds.map fun d => (d, ⟨0, mark⟩), [], [], [], false, false, false⟩] ∧
  ∀ n, n < 64 → m'.regs.slongs.getLsbD n = (m.regs.slongs.getLsbD n || ds.contains n)

/-- A matrix command is offered to the queue (R167, R180): the word waits while sixteen commands are queued, overflows an open region whose log
would need more than its 128 rows, and else goes on with the command last in the queue and its status still to come. -/
def JoinsMatrixQueue (o : Host.Outcome State Fault Refusal) (s : State) (c t : Nat) (m : Team) (w : Bool) (d : Option Nat)
    (mark : Bool) (kind : MatrixKind) (z : Bool) (fmt : List Word) (row rows : Nat) : Prop :=
  let k := s.core c
  let first := m.regs.accBase + row
  let full := rowsOverflow m (k.queuedRows t ++ (List.range rows).map (first + ·))
  (16 ≤ k.matrix.length → o = .next (scalarHold s c t .matrixFull w)) ∧
  (k.matrix.length < 16 → full = true → o = .next (scalarHold (s.overflow c t) c t .record w)) ∧
  (k.matrix.length < 16 → full = false →
    ∃ s1 m1, ScalarGoesOn o s1 c t (m.regs.spc + 4) w ∧ s1.mem = s.mem ∧ SameStores s s1 ∧
      (s1.core c).matrix = k.matrix ++
        [{ team := t, pc := m.regs.spc, ticket := s.ticket, kind, z, fmt, row := first, steps := 0, flags := 0, poisoned := false,
           retried := false, waitSince := s.cycles }] ∧
      s1.team c t = some m1 ∧ AwaitsResult m m1 s.ticket d.toList mark ∧
      m1.region = m.region.map fun g => { g with movable := false, passes := false })

/-- The first check of a list that holds decides an outcome; where none does, `ok` is so. -/
def FirstDecides {α : Type} (o : α) (ok : Prop) : List (Prop × α) → Prop
  | [] => ok
  | (c, a) :: r => (c → o = a) ∧ (¬ c → FirstDecides o ok r)

/-- A format block at an offset, its two dense tiles at `a` and `b`, and the destination rows pass or fail the checks of R169 from order 3 on,
after the checks `early` of orders 1 and 2; `bad`: fields of the registers or of a loop descriptor break a rule. -/
def FieldsAndAreasChecked (o : MatrixCheck) (k : Core) (m : Team) (early : List (Prop × MatrixCheck)) (bad : Prop) (fo a b row : Nat)
    (kind : MatrixKind) : Prop :=
  let fmt := dwordsOf (k.read fo 32).1
  let fields : Prop × MatrixCheck := (bad ∨ formatBad fmt = true, .status 1)
  (pairShape (fbA fmt) (fbB fmt) = none → FirstDecides o (o = .status 2) (early ++ [fields])) ∧
  (∀ sh, pairShape (fbA fmt) (fbB fmt) = some sh →
    FirstDecides o (o = .ok kind fmt row sh.rows) (early ++ [fields,
      (tileInside k sh (tileOf fmt sh false a) = false, .trap ⟨.scratchBounds, BitVec.ofNat 64 a, 0⟩),
      (tileInside k sh (tileOf fmt sh true b) = false, .trap ⟨.scratchBounds, BitVec.ofNat 64 b, 0⟩),
      (m.regs.accLimit - m.regs.accBase < row + sh.rows, .trap ⟨.accWindow, 0, 0⟩)]))

/-- The fields of a loop descriptor break a rule of R169, order 3, or of R175. -/
def LoopFieldsBad (s : State) (c : Nat) (m : Team) (d : List Word) : Prop :=
  field d 0x18 16 16 ≠ 0 ∨ field d 0x1C 4 28 ≠ 0 ∨ dw d 7 ≠ 0 ∨ field d 0x18 0 16 = 0 ∨
  (∃ o ∈ [0x00, 0x04, 0x08, 0x0C, 0x10, 0x14], field d o 0 32 % 16 ≠ 0) ∨
  (∃ e ∈ [(0, 0x20), (1, 0x24)], field d 0x1C e.1 1 = 1 ∧
    (field d e.2 0 32 % 16 ≠ 0 ∨ scratchPlace s c m m.wide (BitVec.ofNat 64 (field d e.2 0 32)) 16 = none)) ∨
  (∃ e ∈ [(2, 0x30), (3, 0x34)], field d 0x1C e.1 1 = 1 ∧
    (field d e.2 0 32 % 4 ≠ 0 ∨ scratchPlace s c m m.wide (BitVec.ofNat 64 (field d e.2 0 32)) 4 = none))

/-- A matrix word has completed: its command is the last of the queue, its status is awaited, and its stream goes on. -/
def MatrixWordCompletes (o : Host.Outcome State Fault Refusal) (s : State) (c t : Nat) (m : Team) (d : Option Nat) (mark : Bool)
    (kind : MatrixKind) (z : Bool) (fmt : List Word) (row : Nat) : Prop :=
  ∃ s' m', o = .next s' ∧ s'.team c t = some m' ∧ m'.regs.spc = m.regs.spc + 4 ∧ AwaitsResult m m' s.ticket d.toList mark ∧
    (s'.core c).matrix = (s.core c).matrix ++
      [{ team := t, pc := m.regs.spc, ticket := s.ticket, kind, z, fmt, row := m.regs.accBase + row, steps := 0, flags := 0, poisoned := false,
         retried := false, waitSince := s.cycles }] ∧
    s'.mem = s.mem ∧ SameStores s s'

end Sys2Proof.Machine

/-- R169, R172: which check at the issue of `s.mma` and `s.mloop` decides, in their order, and with which trap or status code. -/
def Sys2Proof.Machine.MatrixChecksDecideInOrder : Prop :=
  (∀ (k : Core) (m : Team) (sa sb : Word),
    let a := sa.toNat % 2 ^ 20
    let b := sa.toNat / 2 ^ 32 % 2 ^ 20
    let fo := sb.toNat % 2 ^ 20
    FieldsAndAreasChecked (mmaCheck k m sa sb) k m
      [(fo % 32 ≠ 0, .trap ⟨.misaligned, BitVec.ofNat 64 fo, 0⟩), (a % 16 ≠ 0, .trap ⟨.misaligned, BitVec.ofNat 64 a, 0⟩),
       (b % 16 ≠ 0, .trap ⟨.misaligned, BitVec.ofNat 64 b, 0⟩), (inScratchpad k fo 32 = false, .trap ⟨.scratchBounds, BitVec.ofNat 64 fo, 0⟩)]
      (sa.toNat / 2 ^ 20 % 2 ^ 12 ≠ 0 ∨ sa.toNat / 2 ^ 52 ≠ 0 ∨ sb.toNat / 2 ^ 20 % 2 ^ 12 ≠ 0 ∨ sb.toNat / 2 ^ 42 ≠ 0 ∨ blockMarked k fo 32 = true)
      fo a b (sb.toNat / 2 ^ 32 % 2 ^ 10) (.mma a b)) ∧
  (∀ (s : State) (c : Nat) (m : Team) (sa sb : Word),
    let k := s.core c
    let lo := sa.toNat % 2 ^ 20
    let fo := sb.toNat % 2 ^ 20
    let d := dwordsOf (k.read lo 64).1
    FieldsAndAreasChecked (mloopCheck s c m sa sb) k m
      [(fo % 32 ≠ 0, .trap ⟨.misaligned, BitVec.ofNat 64 fo, 0⟩), (lo % 64 ≠ 0, .trap ⟨.misaligned, BitVec.ofNat 64 lo, 0⟩),
       (inScratchpad k fo 32 = false, .trap ⟨.scratchBounds, BitVec.ofNat 64 fo, 0⟩),
       (inScratchpad k lo 64 = false, .trap ⟨.scratchBounds, BitVec.ofNat 64 lo, 0⟩)]
      (sa.toNat / 2 ^ 20 ≠ 0 ∨ sb.toNat / 2 ^ 20 % 2 ^ 12 ≠ 0 ∨ sb.toNat / 2 ^ 42 ≠ 0 ∨ blockMarked k fo 32 = true ∨ blockMarked k lo 64 = true ∨
        LoopFieldsBad s c m d)
      fo (field d 0 0 32) (field d 4 0 32) (sb.toNat / 2 ^ 32 % 2 ^ 10) (.mloop d)) ∧
  (∀ (k : Core) (off n : Nat), inScratchpad k off n = true ↔ ∃ p, k.part = some p ∧ p.spBase ≤ off ∧ off + n ≤ p.spBase + p.spSize) ∧
  (∀ (k : Core) (sh : Shape) (x : Tile), tileInside k sh x = true ↔
    inScratchpad k x.base ((sh.rows - 1) * x.pitch + denseRow x.fmt sh.k) = true ∧
    (scaleBytes x.fmt sh.rows sh.k = 0 ∨ inScratchpad k x.scale (scaleBytes x.fmt sh.rows sh.k) = true)) ∧
  (∀ d : List Word, formatBad d = true ↔
    field d 0 11 21 ≠ 0 ∨ 4 < field d 0 8 3 ∨ dw d 2 ≠ 0 ∨ dw d 3 ≠ 0 ∨
    ∃ isB : Bool, fbPitch d isB % 16 ≠ 0 ∨ fbScale d isB % 4 ≠ 0 ∨
      ∃ sh, pairShape (fbA d) (fbB d) = some sh ∧ fbPitch d isB ≠ 0 ∧ fbPitch d isB < denseRow (if isB then fbB d else fbA d) sh.k)

/-- R167, R169, R174, R175, R177, R180, R182: `s.mma`, `s.mloop` and `s.aclr`: a trap is raised, a status enters nothing into the queue, and else the
command joins the queue once it has room. -/
def Sys2Proof.Machine.MatrixWordsFollowTheirChecks : Prop :=
  (∀ (z : Bool) (f : SC) (s : State) (c t : Nat) (m : Team),
    ScalarReady s c t m [f.a.toNat, f.b.toNat, f.d.toNat] [f.a.toNat, f.b.toNat] [] 0 →
    let sa := (s.sreg c m f.a.toNat).val
    let sb := (s.sreg c m f.b.toNat).val
    let regs := (s.sreg c m f.a.toNat).mark || (s.sreg c m f.b.toNat).mark
    let answers := fun (o : Host.Outcome State Fault Refusal) (check : MatrixCheck) (marked : Bool) =>
      (∀ r, check = .trap r → Raises o s c t m r) ∧
      (∀ v, check = .status v → descriptorPoison m f.b.toNat marked = none →
        ScalarGoesOn o ((s.longScalar c t [(f.d.toNat, ⟨BitVec.ofNat 64 v, marked || regs⟩)] [] true false).2.clearMovable c t) c t
          (m.regs.spc + 4) f.w) ∧
      (∀ v r, check = .status v → descriptorPoison m f.b.toNat marked = some r → Raises o s c t m r) ∧
      (∀ kind fmt row rows, check = .ok kind fmt row rows →
        JoinsMatrixQueue o s c t m f.w (some f.d.toNat) regs kind z fmt row rows)
    let fo := sb.toNat % 2 ^ 20
    let lo := sa.toNat % 2 ^ 20
    answers (exec (.sMma z f) s) (mmaCheck (s.core c) m sa sb) (blockMarked (s.core c) fo 32) ∧
    answers (exec (.sMloop z f) s) (mloopCheck s c m sa sb) (blockMarked (s.core c) fo 32 || blockMarked (s.core c) lo 64)) ∧
  (∀ (f : SC) (s : State) (c t : Nat) (m : Team), ScalarReady s c t m [f.a.toNat, f.b.toNat] [f.a.toNat, f.b.toNat] [] 0 →
    let row := (s.sreg c m f.a.toNat).val.toNat
    let n := (s.sreg c m f.b.toNat).val.toNat
    (n = 0 → ScalarGoesOn (exec (.sAclr f) s) (s.clearMovable c t) c t (m.regs.spc + 4) f.w) ∧
    (0 < n → m.regs.accLimit - m.regs.accBase < row + n → Raises (exec (.sAclr f) s) s c t m ⟨.accWindow, 0, 0⟩) ∧
    (0 < n → row + n ≤ m.regs.accLimit - m.regs.accBase →
      JoinsMatrixQueue (exec (.sAclr f) s) s c t m f.w none false (.aclr n) false [] row n))

/-- R169, R174, R175, R177: outside a region, with room in the queue, `s.mma` and `s.mloop` whose checks all pass complete, and so does `s.aclr` of rows
in the window. -/
def Sys2Proof.Machine.MatrixWordsComplete : Prop :=
  (∀ (z : Bool) (f : SC) (s : State) (c t : Nat) (m : Team) (sh : Shape),
    ScalarReady s c t m [f.a.toNat, f.b.toNat, f.d.toNat] [f.a.toNat, f.b.toNat] [] 0 → m.region = none → (s.core c).matrix.length < 16 →
    let k := s.core c
    let sa := (s.sreg c m f.a.toNat).val
    let sb := (s.sreg c m f.b.toNat).val
    let mark := (s.sreg c m f.a.toNat).mark || (s.sreg c m f.b.toNat).mark
    let fo := sb.toNat % 2 ^ 20
    let fmt := dwordsOf (k.read fo 32).1
    let row := sb.toNat / 2 ^ 32 % 2 ^ 10
    let blockOk := fo % 32 = 0 ∧ inScratchpad k fo 32 = true ∧ sb.toNat / 2 ^ 20 % 2 ^ 12 = 0 ∧ sb.toNat / 2 ^ 42 = 0 ∧ blockMarked k fo 32 = false ∧
      formatBad fmt = false ∧ pairShape (fbA fmt) (fbB fmt) = some sh ∧ row + sh.rows ≤ m.regs.accLimit - m.regs.accBase
    let inside := fun a b => tileInside k sh (tileOf fmt sh false a) = true ∧ tileInside k sh (tileOf fmt sh true b) = true
    (let a := sa.toNat % 2 ^ 20
     let b := sa.toNat / 2 ^ 32 % 2 ^ 20
     blockOk → a % 16 = 0 → b % 16 = 0 → sa.toNat / 2 ^ 20 % 2 ^ 12 = 0 → sa.toNat / 2 ^ 52 = 0 → inside a b →
     MatrixWordCompletes (exec (.sMma z f) s) s c t m (some f.d.toNat) mark (.mma a b) z fmt row) ∧
    (let lo := sa.toNat % 2 ^ 20
     let d := dwordsOf (k.read lo 64).1
     blockOk → lo % 64 = 0 → inScratchpad k lo 64 = true → sa.toNat / 2 ^ 20 = 0 → blockMarked k lo 64 = false → ¬ LoopFieldsBad s c m d →
     inside (field d 0 0 32) (field d 4 0 32) →
     MatrixWordCompletes (exec (.sMloop z f) s) s c t m (some f.d.toNat) mark (.mloop d) z fmt row)) ∧
  (∀ (f : SC) (s : State) (c t : Nat) (m : Team), ScalarReady s c t m [f.a.toNat, f.b.toNat] [f.a.toNat, f.b.toNat] [] 0 → m.region = none →
    (s.core c).matrix.length < 16 →
    let row := (s.sreg c m f.a.toNat).val.toNat
    let n := (s.sreg c m f.b.toNat).val.toNat
    0 < n → row + n ≤ m.regs.accLimit - m.regs.accBase →
    MatrixWordCompletes (exec (.sAclr f) s) s c t m none false (.aclr n) false [] row)

/-- R167, R169, R172, R174, R175, R177: `s.mma`, `s.mloop` and `s.aclr`. The checks of R169 decide in their order between a trap, a status that enters
nothing into the queue, and a command, with which the word completes. -/
def Obligations.MatrixWordsQueueCommands : Prop := MatrixChecksDecideInOrder ∧ MatrixWordsFollowTheirChecks ∧ MatrixWordsComplete

/-- R176, R178, R179: `s.awin` answers with the window and its code, and moves a window only on OK; `v.ldacc` reads, and `v.stacc` writes, the elements
that their lanes name, once the checks of every running lane have passed. -/
def Obligations.WindowsAndLaneAccumulatorAccess : Prop :=
  (∀ (q : Bool) (f : SC) (s : State) (c t : Nat) (m : Team),
    ScalarReady s c t m ((if q then [f.a.toNat] else [f.a.toNat, f.b.toNat]) ++ [f.d.toNat])
      (if q then [f.a.toNat] else [f.a.toNat, f.b.toNat]) [] 0 →
    let target := (s.sreg c m f.a.toNat).val.toNat
    let v := (s.sreg c m f.b.toNat).val.toNat
    let base := v % 2 ^ 10
    let count := v / 2 ^ 16 % 2 ^ 11
    let mark := if q then (s.sreg c m f.a.toNat).mark else (s.sreg c m f.a.toNat).mark || (s.sreg c m f.b.toNat).mark
    let answers := fun (code : Nat) (b n : Nat) (move : Prop) =>
      ∃ s1, ScalarGoesOn (exec (.sAwin q f) s) s1 c t (m.regs.spc + 4) f.w ∧ s1.mem = s.mem ∧
        s1.sreg c m f.d.toNat = ⟨BitVec.ofNat 64 (n * 2 ^ 32 + b * 2 ^ 16 + code), mark⟩ ∧
        (∀ u, u ≠ m.sUnit f.d.toNat → (s1.core c).dword u = (s.core c).dword u) ∧
        (s1.core c).acc = (s.core c).acc ∧ (s1.core c).accMarks = (s.core c).accMarks ∧
        ∀ r n0, (s.core c).teams.get none r = some n0 → ∃ n1, (s1.core c).teams.get none r = some n1 ∧
          (move ∧ r = target → n1.regs.accBase = base ∧ n1.regs.accLimit = base + count) ∧
          (¬ (move ∧ r = target) → n1.regs.accBase = n0.regs.accBase ∧ n1.regs.accLimit = n0.regs.accLimit)
    let stays := fun (code : Nat) (n : Team) =>
      answers code n.regs.accBase (n.regs.accLimit - n.regs.accBase) False
    (s.team c target = none → answers 6 0 0 False) ∧
    ∀ n, s.team c target = some n →
      (q = true → stays 0 n) ∧
      (q = false →
        let fieldBad := v / 2 ^ 10 % 2 ^ 6 ≠ 0 ∨ v / 2 ^ 27 ≠ 0 ∨ 1024 < base + count
        let notLeader := (s.core c).leader ≠ some t ∧ ¬ (target = t ∧ count = 0)
        let overlap := 0 < count ∧ ∃ e ∈ (s.core c).residents, e.1 ≠ target ∧ e.2.regs.accBase < e.2.regs.accLimit ∧
          e.2.regs.accBase < base + count ∧ base < e.2.regs.accLimit
        let busy := (s.core c).busyFor target n = true
        (fieldBad → stays 1 n) ∧
        (¬ fieldBad → notLeader → stays 5 n) ∧
        (¬ fieldBad → ¬ notLeader → overlap → stays 7 n) ∧
        (¬ fieldBad → ¬ notLeader → ¬ overlap → busy → stays 8 n) ∧
        (¬ fieldBad → ¬ notLeader → ¬ overlap → ¬ busy → answers 0 base count True))) ∧
  (∀ (f : Lane) (s : State) (c t : Nat) (m : Team) (i : Nat) (p : Split),
    let u : LaneUse := { tys := if f.x then 0xF else 0x7F, vd := .op, a := .op, rm := accConverts f, x := true, imm := 0xFFFF }
    let dst := namedRegs f.vd.toNat false
    let x := heldCtx s c t m i p f dst
    LaneIssues s c t m i p f u { eat := [.a], long := true } →
    (∀ r, accLanes x = .bad r → LaneRaises (exec (.vLdacc f) s) s c t m i p r) ∧
    (∀ ps, accLanes x = .ok ps → accWaits (heldState s c t m i p f dst) x (ps.map (·.2.1)) = false →
      let h := heldState s c t m i p f dst
      let outs := accLoads h x ps
      (∀ r, fpTrap (m.blockOf p).fpctl outs = some r → LaneRaises (exec (.vLdacc f) s) s c t m i p r) ∧
      (fpTrap (m.blockOf p).fpctl outs = none →
        LaneGoesOn (exec (.vLdacc f) s) (((h.clearMovable c t).longLane x outs true false).2.addFlags c t (allFlags outs)) c t i
          (p.lpc + 12)))) ∧
  (∀ (f : Lane) (s : State) (c t : Nat) (m : Team) (i : Nat) (p : Split),
    let u : LaneUse := { tys := if f.x then 0xF else 0x7F, a := .op, b := .op, rm := accConverts f, x := true, imm := 0xFFFF }
    let x := heldCtx s c t m i p f []
    let h := heldState s c t m i p f []
    LaneIssues s c t m i p f u { eat := if accConverts f then [.a, .b] else [.a] } →
    (∀ r, accLanes x = .bad r → LaneRaises (exec (.vStacc f) s) s c t m i p r) ∧
    (∀ ps r, accLanes x = .ok ps → fpTrap (m.blockOf p).fpctl (accStoreFlags x ps) = some r →
      LaneRaises (exec (.vStacc f) s) s c t m i p r) ∧
    (∀ ps, accLanes x = .ok ps → fpTrap (m.blockOf p).fpctl (accStoreFlags x ps) = none → accWaits h x (ps.map (·.2.1)) = false →
      let rows := ps.map (·.2.1)
      let full := rowsOverflow m ((h.core c).queuedRows t ++ rows)
      (full = true → exec (.vStacc f) s = .next (s.overflow c t)) ∧
      (full = false →
        LaneGoesOn (exec (.vStacc f) s)
          ((((h.logRows c t rows).clearMovable c t).addFlags c t (allFlags (accStoreFlags x ps))).modCore c (accStores x ps)) c t i
          (p.lpc + 12)))) ∧
  (∀ (x : LaneCtx) (l : Nat),
    let e := (x.src .a l).val.toNat % 2 ^ 32 + x.f.imm.toNat % 2 ^ 16
    let cols := if x.f.x then 32 else 64
    accCheck x l =
      if e % ftyCount x.f.ty.toNat ≠ 0 then .error ⟨.misaligned, BitVec.ofNat 64 e, 0⟩
      else if x.m.regs.accLimit - x.m.regs.accBase ≤ e / cols then .error ⟨.accWindow, 0, 0⟩
      else .ok (x.m.regs.accBase + e / cols, e % cols)) ∧
  (∀ (k : Core) (wide : Bool) (row col v row' col' : Nat) (mark : Bool),
    let cols := if wide then 32 else 64
    col < cols → col' < cols → v < 2 ^ (if wide then 64 else 32) →
    (k.accSet wide row col v mark).accGet wide row' col' =
      (if row' = row ∧ col' = col then (v, mark) else k.accGet wide row' col') ∧
    (k.accSet wide row col v mark).store = k.store)

/-- R159, R163, R164: a step forms each element of its rows by the summation rule: each group's products are summed exactly and added to the
accumulator with one rounding; NaN products and infinities of both signs give the canonical NaN; no other element changes. -/
def Obligations.MatrixStepsSumExactly : Prop :=
  (∀ (rm : RMode) (ps : List (FVal × FVal)) (xs : List (Rat × Rat)),
    ps.map (fun p => (p.1.rat, p.2.rat)) = xs.map (fun x => (some x.1, some x.2)) → (∀ p ∈ ps, p.1.proper ∧ p.2.proper) →
    (groupSum rm ps).1.rat = some ((xs.map fun x => x.1 * x.2).foldl (· + ·) 0) ∧ (groupSum rm ps).2 = 0) ∧
  (∀ (sh : Shape) (rm : RMode) (acc : Nat) (ps : List (FVal × FVal)), 0 < sh.g → sh.k % sh.g = 0 → ps.length = sh.k →
    let f := accFormat sh.wide
    (∀ p ∈ ps, (exactMul p.1 p.2).1.isNan = true → (stepElement sh rm acc ps).1 = f.canonical) ∧
    (sh.k = sh.g → (groupSum rm ps).1.isNan = false → (f.value acc).isNan = false →
      stepElement sh rm acc ps =
        ((roundR f rm (exactAdd rm (f.value acc) (groupSum rm ps).1)).1,
         (groupSum rm ps).2 ||| (roundR f rm (exactAdd rm (f.value acc) (groupSum rm ps).1)).2))) ∧
  (∀ (k : Core) (d : List Word) (sh : Shape) (a b row : Nat) (z : Bool), pairShape (fbA d) (fbB d) = some sh →
    let r := matrixStepCore k d sh a b row z
    let rowA := fun i => tileRow k sh (tileOf d sh false a) i
    let rowB := fun j => tileRow k sh (tileOf d sh true b) j
    (∀ i j, i < sh.rows → j < sh.rows →
      let old := if z then (0, false) else k.accGet sh.wide (row + i) j
      r.1.accGet sh.wide (row + i) j =
        ((stepElement sh (RMode.ofCode (fbRm d)) old.1 ((rowA i).1.zip (rowB j).1)).1, old.2 || (rowA i).2 || (rowB j).2)) ∧
    (∀ i j, (i < row ∨ row + sh.rows ≤ i) → j < sh.rows → r.1.accGet sh.wide i j = k.accGet sh.wide i j) ∧
    r.1.store = k.store ∧ r.1.sectorMarks = k.sectorMarks ∧ r.1.unitMarks = k.unitMarks ∧ r.1.teams = k.teams) ∧
  (∀ a b, pairShape a b =
    if a = 0 ∧ b = 0 then some ⟨32, 8, 1, true⟩
    else if (a = 1 ∧ b = 1) ∨ (a = 2 ∧ b = 2) then some ⟨64, 32, 8, false⟩
    else if a ∈ [3, 4] ∧ b ∈ [3, 4] then some ⟨64, 64, 16, false⟩
    else if a = 9 ∧ b = 9 then some ⟨64, 128, 32, false⟩
    else if a ∈ [5, 6, 7, 8, 9, 10] ∧ b ∈ [5, 6, 7, 8, 9, 10] then some ⟨64, 64, 32, false⟩
    else if a = 11 ∧ b = 11 then some ⟨64, 128, 64, false⟩
    else if (a = 11 ∧ b = 1) ∨ (a = 1 ∧ b = 11) then some ⟨64, 64, 64, false⟩
    else none)

/-- R200, R207, R208, R210 to R212: `s.beam` and `v.trace` join the queue of their cluster's engine, and their registers await the results; a
descriptor that breaks a rule answers BAD_FIELD. (That the nodes of a `v.trace` are read as it issues is the model's choice, log entry 95.) -/
def Obligations.BeamWordsQueueQueries : Prop :=
  (∀ (f : SC) (s : State) (c t : Nat) (m : Team), ScalarReady s c t m [f.a.toNat, f.d.toNat] [f.a.toNat] [] 0 →
    let v := (s.sreg c m f.a.toNat).val
    let off := v.toNat % 2 ^ 20
    let k := s.core c
    let marked := (k.read off 0x68).2
    let d := dwordsOf (k.read off 128).1
    let bad := v.toNat / 2 ^ 20 ≠ 0 ∨ marked = true ∨ beamBad d = true
    let o := exec (.sBeam f) s
    (off % 128 ≠ 0 → Raises o s c t m ⟨.misaligned, BitVec.ofNat 64 off, 0⟩) ∧
    (off % 128 = 0 → inScratchpad k off 128 = false → Raises o s c t m ⟨.scratchBounds, BitVec.ofNat 64 off, 0⟩) ∧
    (off % 128 = 0 → inScratchpad k off 128 = true → descriptorPoison m f.a.toNat marked = none →
      (∀ s1 m1, bad → Committed true s c t m s1 m1 →
        ScalarGoesOn o (s1.longScalar c t [(f.d.toNat, ⟨1, marked || (s1.sreg c m f.a.toNat).mark⟩)] [] true false).2 c t (m.regs.spc + 4) f.w) ∧
      (∀ r s1, ¬ bad → resultPieces s m (dieOf c) d = (.error (some r), s1) → Raises o s c t m r) ∧
      (∀ s1, ¬ bad → resultPieces s m (dieOf c) d = (.error none, s1) → o = .next (scalarHold s1 c t .line f.w)) ∧
      (∀ ps s0 s1 m1, ¬ bad → resultPieces s m (dieOf c) d = (.ok ps, s0) → Committed true s0 c t m s1 m1 → settled s1 c = true →
        (32 ≤ (s1.cluster (clusterOf c)).beamCount → o = .next (scalarHold s1 c t .beamFull f.w)) ∧
        ((s1.cluster (clusterOf c)).beamCount < 32 → s1.rangesFull ps = false →
          ∃ s2 m2, ScalarGoesOn o s2 c t (m.regs.spc + 4) f.w ∧ SameMemory s1 s2 ∧ SameStores s1 s2 ∧
            s2.mem.ranges = s1.mem.ranges ++ (if ps = [] then [] else [⟨s1.ticket, ps, []⟩]) ∧
            s2.team c t = some m2 ∧ AwaitsResult m1 m2 s1.ticket [f.d.toNat] (s1.sreg c m f.a.toNat).mark ∧
            (s2.cluster (clusterOf c)).beams = (s1.cluster (clusterOf c)).beams ++
              [{ core := c, team := t, ticket := s1.ticket, asid := m1.id.asid, runtime := m1.id.runtime, launch := m1.id.launch,
                 job := .beam off d }])))) ∧
  (∀ (f : Lane) (s : State) (c t : Nat) (m : Team) (i : Nat) (p : Split),
    let dst := namedRegs f.vd.toNat true
    let x := heldCtx s c t m i p f dst
    let h := heldState s c t m i p f dst
    LaneIssues s c t m i p f { vd := .op, a := .op, b := .op } { eat := [.a, .b], pairD := true, long := true, illegal := f.vd == 0xF8 } →
    (∀ l r, x.lanes = [l] → traceCheck x h l = .error r →
      LaneRaises (exec (.vTrace f) s) s c t m i p { r with lanes := maskOf [l] }) ∧
    (∀ out : Nat → List Nat × Bool × List Word, (∀ l ∈ x.lanes, traceCheck x h l = .ok (out l)) → m.ctl.policy.getLsbD 0 = false →
      (h.cluster (clusterOf c)).beamCount < 32 →
      let none' := fun l => (⟨0, (x.src .a l).mark || (x.src .b l).mark⟩ : Marked)
      let outs := x.lanes.map fun l => (l, ({ d := some (none' l), d2 := some (none' l) } : LaneOut))
      let s0 := (h.longLane x outs false false).2.dropNodes (clusterOf c)
      let cmd := fun rs => ({ core := c, team := t, ticket := h.ticket, asid := m.id.asid, runtime := m.id.runtime, launch := m.id.launch,
                              job := .trace f.vd.toNat rs } : BeamCmd)
      let traced := traceLanes (cmd []) (x.lanes.map fun l => (l, out l)) s0 []
      (∀ rs s1, traced = some (rs, s1) →
        LaneGoesOn (exec (.vTrace f) s) (s1.modCluster (clusterOf c) fun k => { k with beams := k.beams ++ [cmd rs] }) c t i (p.lpc + 12)) ∧
      (traced = none → exec (.vTrace f) s = .next (s.laneServed c t)))) ∧
  (∀ (f : Lane) (s : State) (c t : Nat) (m : Team) (i : Nat) (p : Split), s.focus = some ⟨c, t, some i⟩ → s.team c t = some m →
    m.ctl.split i = some p → f.vd = 0xF8 → LaneRaises (exec (.vTrace f) s) s c t m i p ⟨.illegalOperand, 0, m.active p⟩) ∧
  (∀ (f : Lane) (s : State) (c t : Nat) (m : Team) (i : Nat) (p : Split),
    let dst := namedRegs f.vd.toNat false
    let x := heldCtx s c t m i p f dst
    let h := heldState s c t m i p f dst
    LaneIssues s c t m i p f { vd := .op, a := .op, b := .op, c := if f.x then .op else .bits 0, x := true }
      { eat := if f.x then [.a, .b, .c] else [.a, .b], long := true } →
    (∀ r, texDescriptors x h = .error r → LaneRaises (exec (.vTex f) s) s c t m i p r) ∧
    (∀ ds cs s1, texDescriptors x h = .ok ds → m.ctl.policy.getLsbD 0 = false → texelChecks x h (texelsOf x ds) = (cs, s1) →
      (∀ e ∈ cs, ∃ pa, e.2 = .ok pa) →
      LaneGoesOn (exec (.vTex f) s) ((s1.texLanes x ds).2.longLane x (s1.texLanes x ds).1 true true).2 c t i (p.lpc + 12))) ∧
  (∀ a b : Nat, a < 2 ^ 128 → b < 2 ^ 128 →
    let key := fun v => v % 2 ^ 32 * 2 ^ 32 + v / 2 ^ 32 % 2 ^ 32
    mergeResult a b % 2 ^ 123 = (if key b < key a then b else a) % 2 ^ 123 ∧
    mergeResult a b / 2 ^ 123 = (a / 2 ^ 123) ||| (b / 2 ^ 123) ∧ mergeResult a a = a)

namespace Sys2Proof.Machine

/-! ### Events of engines and teams (chapters 06 to 11) -/

/-- An event finds its condition false and changes nothing. -/
abbrev Nothing (i : Instr) (s : State) : Prop := exec i s = .next s

/-- A held word ends by the act of another agent with the long results `rs` (R304): its stream goes on behind it, and a blocked team is ready. -/
def HeldWordEnds (o : Host.Outcome State Fault Refusal) (s : State) (c t : Nat) (m : Team) (rs : List (Nat × Marked))
    (ks : List (Nat × Bool × Bool)) : Prop :=
  ∃ s' m', o = .next s' ∧ s'.team c t = some m' ∧ m'.regs.spc = m.regs.spc + 4 ∧ m'.sched.hold = none ∧
    m'.sched.parked = (m.sched.parked || m.sched.holdW) ∧ m'.sched.state = (if m.sched.state = .blocked then .ready else m.sched.state) ∧
    (∃ n, m'.pend = m.pend ++ [⟨n, rs, ks, [], [], true, false, false⟩]) ∧
    (∀ n, n < 64 → m'.regs.slongs.getLsbD n = (m.regs.slongs.getLsbD n || rs.any fun e => e.1 == n)) ∧
    (∀ n, n < 8 → m'.regs.klongs.getLsbD n = (m.regs.klongs.getLsbD n || ks.any fun e => e.1 == n && n != 0)) ∧ m'.ctl = m.ctl ∧
    (∀ u, (s'.core c).dword u = (s.core c).dword u)

/-- The values of a long result are formed, and its marks stay (R304). -/
def finished (pend : List LongRes) (ticket : Nat) (v : Word) : List LongRes :=
  pend.map fun p => if p.ticket = ticket then { p with sregs := p.sregs.map fun r => (r.1, ⟨v, r.2.mark⟩), ready := true } else p

/-- The launch that holds a core does not end with a store of the core: it has teams left (R339). -/
def LaunchGoesOn (s : State) (c : Nat) : Prop := ∀ p l, (s.core c).part = some p → s.launch p.launch = some l → 0 < l.live

end Sys2Proof.Machine

/-- R231, R269, R228: `storePerformedAtHome` completes for the first store of its sector: exec answers the state in which its bytes and marks are in
memory. Behind another store of the sector, or where its line must wait, the store stays. -/
def Sys2Proof.Machine.StoresArePerformed : Prop :=
  ∀ (core index : Nat) (check : PathCheck) (s : State),
    let i := Instr.storePerformedAtHome core index check
    ((s.core core).inflight[index]? = none → Nothing i s) ∧
    ∀ x, (s.core core).inflight[index]? = some x →
      let before := (s.core core).inflight.take index
      let n := x.data.length
      (storeBehind before x = true ∨ s.blocked x.pa none = true → Nothing i s) ∧
      (storeBehind before x = false → s.blocked x.pa none = false → isMgmt x.pa = false → s.lost x.pa = false → x.data ≠ [] →
        LaunchGoesOn s core →
        ∃ s', exec i s = .next s' ∧ (s'.core core).inflight = before ++ (s.core core).inflight.drop (index + 1) ∧
          (∀ j, j < n → s'.byteAt (x.pa + j) = x.data.getD j 0) ∧
          (∀ a, (a < x.pa ∨ x.pa + n ≤ a) → s'.byteAt a = s.byteAt a) ∧
          (∀ u, s'.mem.marks.get false u =
            markAfter 32 x.pa n u x.mark (s.mem.marks.get false u || (check != .good && u == x.pa / 32))) ∧
          SameStores s s' ∧ ∀ q u, s'.team q u = s.team q u)

/-- The end of a copy: it has left the queue and its range is released; RESULT and FAULTADDR hold the cause and the address (R247, R249). -/
def Sys2Proof.Machine.CopyEnds (o : Host.Outcome State Fault Refusal) (s1 : State) (q : Nat) (x : CopyCmd) (cause va : Nat) : Prop :=
  ∃ s2 : State, o = .next s2.trySaves ∧
    (s2.cluster q).copies = (s1.cluster q).copies.filter (fun y => y.ticket != x.ticket) ∧ (∀ r ∈ s2.mem.ranges, r.ticket ≠ x.ticket) ∧
    (copyCoreHeld s1 x x.core = true → cpAwen x.desc = false → (s1.core x.core).windowEnd ≤ x.off + 0x20 →
      (s2.core x.core).readN (x.off + 0x20) 4 = 2 ^ 31 + cause ∧ (s2.core x.core).readN (x.off + 0x28) 8 = va)

/-- R246, R249, R228: `copyStart` completes where a copy waits and fewer than four run; `copyComplete` of a started copy ends it when every byte has
moved or met a fault: always, for one from scratchpad to scratchpad, whose bytes are then those of its source; `engineLineRelease` of a started copy
releases at most its line. -/
def Sys2Proof.Machine.CopiesRun : Prop :=
  (∀ (q : Nat) (s : State),
    let xs := (s.cluster q).copies
    ((4 ≤ (xs.filter (·.started)).length ∨ xs.find? (fun x => !x.started) = none) → Nothing (.copyStart q) s) ∧
    ∀ x, xs.find? (fun x => !x.started) = some x → (xs.filter (·.started)).length < 4 →
      ∃ s', exec (.copyStart q) s = .next s' ∧
        (s'.cluster q).copies = (xs.map fun y => if y.ticket = x.ticket then { y with started := true } else y) ∧
        s'.mem = s.mem ∧ s'.cores = s.cores) ∧
  (∀ (ticket line : Nat) (s : State),
    ((∀ e ∈ s.clusters, ∀ x ∈ e.2.copies, x.ticket = ticket → x.started = false) → Nothing (.engineLineRelease ticket line) s) ∧
    ∃ s', exec (.engineLineRelease ticket line) s = .next s' ∧
      (s' = s ∨ ∀ r ∈ s'.mem.ranges, r.ticket = ticket → line ∈ r.released)) ∧
  (∀ (q ticket : Nat) (s : State),
    let o := exec (.copyComplete q ticket) s
    ((s.cluster q).copies.find? (fun x => x.ticket == ticket && x.started) = none → o = .next s) ∧
    ∀ x, (s.cluster q).copies.find? (fun x => x.ticket == ticket && x.started) = some x →
      (moveCopy (cpLen x.desc) s x 0 (cpLen x.desc) = .wait → o = .next s) ∧
      (∀ s1 x1, moveCopy (cpLen x.desc) s x 0 (cpLen x.desc) = .ok s1 x1 → CopyEnds o s1 q x 0 0) ∧
      (∀ s1 x1 k va, moveCopy (cpLen x.desc) s x 0 (cpLen x.desc) = .fault s1 x1 k va → va < 2 ^ 64 → CopyEnds o s1 q x k.code va) ∧
      (cpSrcSp x.desc = true → cpDstSp x.desc = true → copyCoreHeld s x x.core = true →
        CopyEnds o s q x 0 0 ∧
        let len := cpLen x.desc
        let src := cpSrc x.desc
        let dst := cpDst x.desc
        (src + len < 2 ^ 20 → dst + len < 2 ^ 20 → (src + len ≤ dst ∨ dst + len ≤ src) → (s.core x.core).windowEnd ≤ dst → x.taken = [] →
          cpAwen x.desc = false → s.sched.preqs = [] → (dst + len ≤ x.off ∨ x.off + 64 ≤ dst) →
          ∃ s', o = .next s' ∧ ∀ j, j < len → (s'.core x.core).byte (dst + j) = (s.core x.core).byte (src + j))))

/-- A tile of the streams of one direction (R252, R253): where its slot is ready and its rows move, the arrival word takes its bytes and cause, and the
stream goes on at the next tile, or ends. -/
def Sys2Proof.Machine.TileMoves (o : Host.Outcome State Fault Refusal) (s : State) (c i : Nat) (drain : Bool) : Prop :=
  ((s.core c).streams.get none i = none → o = .next s) ∧
  ∀ x, (s.core c).streams.get none i = some x →
    let moved := fun (s1 : State) (mark : Bool) (cause : Nat) (after : Option Stream) =>
      let p := s1.enginePlace c (stAw x.desc)
      o = .next ((s1.contribute p.core p.off (stRows x.desc * stRowBytes x.desc) cause mark).modCore c fun k =>
        { k with streams := k.streams.set none i after })
    (stDrain x.desc ≠ drain ∨ tileReady s c x = false ∨ (drain = true ∧ s.rangesFull (tilePieces s c x) = true) → o = .next s) ∧
    (stDrain x.desc = drain → tileReady s c x = true → (drain = true → s.rangesFull (tilePieces s c x) = false) →
      (moveTile c x x.next s = .wait → o = .next s) ∧
      (∀ s1 mark, moveTile c x x.next s = .ok s1 mark → moved s1 mark 0
        (if stCount x.desc ≤ x.next + 1 then none else some { x with next := x.next + 1, broken := false, entry := false })) ∧
      (∀ s1 mark k va, moveTile c x x.next s = .fault s1 mark k va → k.code ≠ 0 → moved s1 mark k.code none))

/-- R228, R231, R246, R249, R252, R253, R269: a store is performed at its home with its bytes and marks, after the stores ahead of it; copies start,
release lines and complete with RESULT and FAULTADDR; `streamTileFill` and `streamTileDrain` move a tile, contribute and go on. -/
def Obligations.EnginesMoveTheirData : Prop :=
  StoresArePerformed ∧ CopiesRun ∧
  (∀ (c i : Nat) (s : State), TileMoves (exec (.streamTileFill c i) s) s c i false) ∧
  ∀ (c i : Nat) (s : State), TileMoves (exec (.streamTileDrain c i) s) s c i true

/-- The matrix queue once command x has left it: the next command of its team begins its wait now (R175). -/
def Sys2Proof.Machine.leftAfter (s : State) (c : Nat) (x : MatrixCmd) : List MatrixCmd :=
  ((s.core c).matrix.filter fun y => y.ticket != x.ticket).map fun y => if y.team = x.team then { y with waitSince := s.cycles } else y

/-- R163, R165, R166, R167, R173, R175, R177: the matrix unit runs a step of the command whose turn it is and delivers its status; a step that fails the
residue check twice writes nothing; a loop that waits 2^20 cycles ends. `matrixStep` and `mloopWaitTimeout` complete where such a command stands. -/
def Sys2Proof.Machine.MatrixUnitRunsCommands : Prop :=
  (∀ (c : Nat) (residue : Residue) (s : State),
    let left := leftAfter s c
    (nextCommand s c = none → Nothing (.matrixStep c residue) s) ∧
    ∀ x m, nextCommand s c = some x → s.team c x.team = some m →
      (∀ a b sh, x.kind = .mma a b → pairShape (fbA x.fmt) (fbB x.fmt) = some sh →
        tileInside (s.core c) sh (tileOf x.fmt sh false a) = true → tileInside (s.core c) sh (tileOf x.fmt sh true b) = true →
        let r := matrixStepCore (s.core c) x.fmt sh a b x.row (x.z && x.steps == 0)
        (residue ≠ .twice → ∃ s' m', exec (.matrixStep c residue) s = .next s' ∧
          (s'.core c).acc = r.1.acc ∧ (s'.core c).accMarks = r.1.accMarks ∧
          (s'.core c).matrix = left x ∧ (s'.core c).matrixTurn = x.team + 1 ∧
          s'.mem = s.mem ∧ s'.team c x.team = some m' ∧
          m'.pend = finished m.pend x.ticket (BitVec.ofNat 64 ((x.steps + 1) * 2 ^ 16 +
            (x.retried || residue == .once).toNat * 2 ^ 14 + (x.poisoned || r.2.2).toNat * 2 ^ 13 + (x.flags ||| r.2.1).toNat * 2 ^ 8))) ∧
        (residue = .twice → ∃ s', exec (.matrixStep c residue) s = .next s' ∧
          (s'.core c).acc = (s.core c).acc ∧ (s'.core c).accMarks = (s.core c).accMarks ∧ s'.mem = s.mem ∧
          (m.replayable (s.core c) = false →
            (s'.core c).matrix = left x ∧
            ∃ m', s'.team c x.team = some m' ∧ m'.pend = finished m.pend x.ticket (x.status 3)))) ∧
      (∀ rows, x.kind = .aclr rows → ∃ s', exec (.matrixStep c residue) s = .next s' ∧ s'.mem = s.mem ∧
        (∀ row col, col < 64 → (s'.core c).accGet false row col =
          if x.row ≤ row ∧ row < x.row + min rows 8 then (0, false) else (s.core c).accGet false row col) ∧
        (rows ≤ 8 → (s'.core c).matrix = left x) ∧
        (8 < rows → (s'.core c).matrix = (s.core c).matrix.map fun y =>
          if y.ticket = x.ticket then { x with kind := .aclr (rows - 8), row := x.row + 8 } else y))) ∧
  (∀ (c : Nat) (s : State),
    let late := fun (x : MatrixCmd) => x.waits s c = true ∧ x.waitSince + 2 ^ 20 ≤ s.cycles
    ((∀ x ∈ (s.core c).matrixHeads, ¬ late x) → Nothing (.mloopWaitTimeout c) s) ∧
    ∀ before x rest m, (s.core c).matrixHeads = before ++ x :: rest → (∀ y ∈ before, ¬ late y) → late x → s.team c x.team = some m →
      ∃ s' m', exec (.mloopWaitTimeout c) s = .next s' ∧ (s'.core c).matrix = leftAfter s c x ∧ s'.team c x.team = some m' ∧
        m'.pend = finished m.pend x.ticket (x.status 4))

/-- A query of a cluster has come on: it has ended, or it stands with no less posted. -/
def Sys2Proof.Machine.QueryStands (s' : State) (q : Nat) (cmd : BeamCmd) (posts : Nat) : Prop :=
  (s'.cluster q).run = none ∨ ∃ r', (s'.cluster q).run = some r' ∧ r'.cmd = cmd ∧ r'.posts = posts

/-- R183, R198, R202: the engine starts its queries in order, and one that waited goes on; a split record that the queue takes counts in POSTS, and a
refused hit record is offered again each microsecond. `beamQueryStart`, `splitRecordAnswer` and `hitRecordRetry` complete where such a query stands. -/
def Sys2Proof.Machine.YarrowRunsQueries : Prop :=
  ∀ (q : Nat) (s : State),
    ((s.cluster q).run = none → (s.cluster q).beams = [] → Nothing (.beamQueryStart q) s) ∧
    ((s.cluster q).run = none → Nothing (.splitRecordAnswer q) s ∧ Nothing (.hitRecordRetry q) s) ∧
    (∀ cmd rest, (s.cluster q).run = none → (s.cluster q).beams = cmd :: rest → clusterOf cmd.core = q →
      (∀ off d, cmd.job = .beam off d → ∃ s', exec (.beamQueryStart q) s = .next s' ∧ (s'.cluster q).beams = rest ∧ QueryStands s' q cmd 0) ∧
      (∀ reg rs m, cmd.job = .trace reg rs → s.team cmd.core cmd.team = some m →
        ∃ s' m', exec (.beamQueryStart q) s = .next s' ∧ (s'.cluster q).beams = rest ∧ SameStores s s' ∧ s'.mem = s.mem ∧
          s'.team cmd.core cmd.team = some m' ∧ m'.pend = m.pend.map fun p =>
            if p.ticket = cmd.ticket then { p with ready := true, vregs := p.vregs.map fun r =>
              (r.1, r.2.1, match rs.find? fun e => e.1 == r.2.1 with
                | some e => ⟨BitVec.ofNat 64 (if r.1 = reg then e.2.1 else e.2.1 / 2 ^ 64), e.2.2 || r.2.2.mark⟩
                | none => ⟨0, r.2.2.mark⟩) } else p)) ∧
    (∀ r off d, (s.cluster q).run = some r → clusterOf r.cmd.core = q → r.cmd.job = .beam off d →
      (r.phase = .traverse → ∃ s', exec (.beamQueryStart q) s = .next s' ∧ (s'.cluster q).beams = (s.cluster q).beams ∧
        QueryStands s' q r.cmd r.posts) ∧
      (∀ k ref b rest added, r.phase = .answer k ref b rest added → s.recordQueue r.cmd.asid (bmSplitQ d) = true →
        let posting := s.post (bmSplitQ d) (splitRecord d ref b) false none
        let goesOn := fun (posts : Nat) => ∃ s', exec (.splitRecordAnswer q) s = .next s' ∧ QueryStands s' q r.cmd posts
        (posting = .wait → Nothing (.splitRecordAnswer q) s) ∧
        (posting = .full → goesOn r.posts) ∧
        (∀ s1, posting = .done s1 → goesOn (r.posts + 1))) ∧
      (∀ n, r.phase = .records n →
        (∀ at_, r.refused = some at_ → s.cycles < at_ + cyclesPerUs → Nothing (.hitRecordRetry q) s) ∧
        ((∀ at_, r.refused = some at_ → at_ + cyclesPerUs ≤ s.cycles) → ∃ s', exec (.hitRecordRetry q) s = .next s' ∧
          ((s'.cluster q).run = none ∨ ∃ r' n', (s'.cluster q).run = some r' ∧ r'.cmd = r.cmd ∧ r'.phase = .records n' ∧ n ≤ n'))))

/-- R163, R165 to R167, R173, R175, R177, R183, R198, R202: what the matrix unit and Yarrow do with queued work. -/
def Obligations.MatrixUnitAndYarrowRunTheirWork : Prop := MatrixUnitRunsCommands ∧ YarrowRunsQueries

/-- R87, R231, R304: a long result that is ready writes its registers, with the mark of a failed path check, and its marks stay until the next marker; the
divider delivers after its time. -/
def Sys2Proof.Machine.LongResultsReturn : Prop :=
  (∀ (c t ticket : Nat) (check : PathCheck) (s : State) (m : Team), s.team c t = some m →
    let e := Instr.longResultReturn c t ticket check
    (m.pend.find? (fun p => p.ticket == ticket && p.ready) = none → Nothing e s) ∧
    ∀ p, m.pend.find? (fun p => p.ticket == ticket && p.ready) = some p → (m.recovering && m.ofRegion p) = false →
      let bad := p.fill && check == .twice
      ∃ (s1 : State) (m1 : Team), exec e s = .next (s1.settle c t) ∧ s1.team c t = some m1 ∧ m1.pend = m.pend.filter (fun y => y.ticket != ticket) ∧
        m1.regs.slongs = m.regs.slongs ∧ m1.regs.klongs = m.regs.klongs ∧ s1.mem = s.mem ∧
        (∀ i, (m1.ctl.split i).map (fun q => { q with spin := Spin.init }) = (m.ctl.split i).map fun q => { q with spin := Spin.init }) ∧
        (∀ k l v mk, p.preds = [(k, l, v, mk)] → 0 < k → k < 8 → l < 1024 → m1.ctl.pred k l = v ∧ m1.ctl.predMark k l = (mk || bad)) ∧
        ((p.sregs.map (·.1)).Nodup → p.vregs = [] → ∀ r ∈ p.sregs, s1.sreg c m r.1 = ⟨r.2.val, r.2.mark || bad⟩) ∧
        (p.sregs = [] → (p.vregs.map fun r => m.vUnit r.1 r.2.1).Nodup →
          ∀ r ∈ p.vregs, s1.vreg c m r.1 r.2.1 = ⟨r.2.2.val, r.2.2.mark || bad⟩) ∧
        (∀ u, (∀ r ∈ p.sregs, u ≠ m.sUnit r.1) → (∀ r ∈ p.vregs, u ≠ m.vUnit r.1 r.2.1) →
          (s1.core c).store.get 0 u = (s.core c).store.get 0 u ∧ (s1.core c).unitMarks.get false u = (s.core c).unitMarks.get false u) ∧
        ∀ k v mk, p.ks = [(k, v, mk)] → 0 < k → k < 8 → m1.regs.pred k = v ∧ m1.regs.predMark k = (mk || bad)) ∧
  (∀ (c : Nat) (s : State),
    ((s.core c).divider = none → Nothing (.scalarDividerComplete c) s) ∧
    ∀ t n at_ m, (s.core c).divider = some (t, n, at_) → s.team c t = some m →
      (s.cycles < at_ → Nothing (.scalarDividerComplete c) s) ∧
      (at_ ≤ s.cycles → ∃ s', exec (.scalarDividerComplete c) s = .next s' ∧ (s'.core c).divider = none ∧
        s'.team c t = some { m with pend := m.pend.map fun p => if p.ticket = n then { p with ready := true } else p } ∧
        s'.mem = s.mem ∧ SameStores s s'))

/-- R87, R231, R303, R304: long results mark their registers, and return. -/
def Obligations.LongResultsWaitAndReturn : Prop := LongResultsAreKeptForTheirRegisters ∧ LongResultsReturn

/-- R244, R284, R303, R324, R359, R361, R392, R460: a switch marker releases its team once its waits have ended; a wait that lasts too long ends with the
status, or the trap, of its word. -/
def Obligations.WaitsEndOrTimeOut : Prop :=
  ∀ (c t : Nat) (s : State) (m : Team), s.team c t = some m →
    let late := fun (n : Nat) => n ≤ s.cycles - m.sched.holdSince
    (m.sched.parked = true → m.released s c t = false → m.home = none → s.sched.preqs = [] → Nothing (.switchMarkerRelease c t) s) ∧
    (m.released s c t = true → m.trap.mchecks = [] → m.trap.preempt = none → m.sched.yielding = false → m.lease.raised = false →
      m.home = none → s.sched.preqs = [] →
      ∃ s' m', exec (.switchMarkerRelease c t) s = .next s' ∧ s'.team c t = some m' ∧ m'.sched.parked = false ∧ m'.tally = [] ∧
        m'.regs = { m.regs with slongs := 0, klongs := 0 } ∧ m'.ctl.preds = m.ctl.preds ∧ m'.ctl.live = m.ctl.live ∧
        (∀ i, m'.ctl.split i = (m.ctl.split i).map fun p => { p with latches := [none, none, none], longs := 0 }) ∧
        m'.region = m.region ∧ m'.trap = m.trap) ∧
    (∀ d tag fi co mark, m.sched.hold = some (.regroup d tag fi co mark) →
      let matched := (matching s.cycles (s.core c) t m tag fi co).isSome
      (¬ late (2 ^ 16) ∨ matched = true → Nothing (.regroupOfferTimeout c t) s) ∧
      (late (2 ^ 16) → matched = false → HeldWordEnds (exec (.regroupOfferTimeout c t) s) s c t m
        [(d, ⟨BitVec.ofNat 64 (maskCount m.ctl.live * 2 ^ 16 + 4), mark⟩)] [])) ∧
    (∀ d q off g, m.sched.hold = some (.arrival d q off g) →
      (¬ late (2 ^ 20) → Nothing (.awwaitTimeout c t) s) ∧
      (late (2 ^ 20) → HeldWordEnds (exec (.awwaitTimeout c t) s) s c t m
        [(d, ⟨BitVec.ofNat 64 ((s.core q).readN (off + 8) 4 * 2 ^ 32 + (s.core q).readN (off + 12) 4 % 256 * 2 ^ 8 + 4),
          ((s.core q).read off 16).2⟩)] [])) ∧
    (∀ b p, m.sched.hold = some (.barrier b p) →
      (¬ late (2 ^ 24) ∨ (s.barrier c b).phase ≠ p → Nothing (.barrierSyncTimeout c t) s) ∧
      (late (2 ^ 24) → (s.barrier c b).phase = p → ∃ s1 m1,
        exec (.barrierSyncTimeout c t) s = .next (raise s1 c t m1 ⟨⟨.timeout, BitVec.ofNat 64 b, 0⟩, none, some m.regs.spc⟩) ∧
        s1.team c t = some m1 ∧ m1.sched.hold = none ∧ m1.regs = m.regs ∧ s1.mem = s.mem ∧
        s1.barrier c b = { s.barrier c b with count := (s.barrier c b).count - 1 })) ∧
    (∀ op, m.sched.hold = some (.queue op) →
      let ks := fun (code : Nat) => if op.pops then [(op.kd, code == 5, op.mark)] else []
      (¬ late (2 ^ 20) → Nothing (.queueWaitTimeout c t) s) ∧
      (late (2 ^ 20) → HeldWordEnds (exec (.queueWaitTimeout c t) s) s c t m [(op.d, ⟨4, op.mark⟩)] (ks 4)) ∧
      (handleRing op.handle = true ∨ m.halted = true → Nothing (.recordQueueOperation c t) s) ∧
      (handleRing op.handle = false → m.halted = false → ∀ n s1 m1, queueAttempt s c t op = .code n s1 → s1.team c t = some m1 →
        HeldWordEnds (exec (.recordQueueOperation c t) s) s1 c t m1 [(op.d, ⟨BitVec.ofNat 64 n, op.mark⟩)] (ks n))) ∧
    (∀ d h gen mark, m.sched.hold = some (.collective d h gen mark) →
      (¬ late (2 ^ 24) → Nothing (.cwaitTimeout c t) s) ∧
      (∀ y, s.sched.collectives.get none h = some y → y.gen = gen →
        (y.code ≠ none → Nothing (.cwaitTimeout c t) s) ∧
        (late (2 ^ 24) → y.code = none → HeldWordEnds (exec (.cwaitTimeout c t) s) s c t m
          [(d, ⟨cwaitStatus y 3, mark⟩), (d + 1, ⟨0, mark⟩)] [])) ∧
      ((∀ y, s.sched.collectives.get none h = some y → y.gen ≠ gen) → late (2 ^ 24) →
        ∃ v : Word, v.toNat % 2 ^ 32 = 10 ∧ HeldWordEnds (exec (.cwaitTimeout c t) s) s c t m [(d, ⟨v, mark⟩), (d + 1, ⟨0, mark⟩)] [])) ∧
    (m.sched.hold = none →
      Nothing (.regroupOfferTimeout c t) s ∧ Nothing (.awwaitTimeout c t) s ∧ Nothing (.barrierSyncTimeout c t) s ∧
      Nothing (.queueWaitTimeout c t) s ∧ Nothing (.recordQueueOperation c t) s ∧ Nothing (.cwaitTimeout c t) s)

/-- R347 to R351, R354: teams enter the active set only while their leases fit the share, but for the one rule of a team that has waited 4096 cycles;
a blocked team leaves it and becomes ready when its wait ends. -/
def Obligations.LeasesBoundTheActiveSet : Prop :=
  (∀ (c : Nat) (s : State), (s.core c).teams.wf none = true →
    let k := s.core c
    (k.admissionHeld = true ∨ (overDue s k).isSome = true → Nothing (.teamAdmission c) s) ∧
    (k.admissionHeld = false → overDue s k = none →
      ∃ s', exec (.teamAdmission c) s = .next s' ∧ s'.mem = s.mem ∧ SameStores s s' ∧
        ((s'.core c).leaseSum ≤ k.leaseSum ∨ (s'.core c).leaseSum ≤ k.shareGranules) ∧
        ∀ t m, s.team c t = some m → ∃ m', s'.team c t = some m' ∧ m'.regs = m.regs ∧ m'.ctl = m.ctl ∧
          (m.sched.state = .active → m'.sched.state = .active) ∧
          (m.sched.state = .blocked → m'.sched.state = .blocked) ∧
          (m.sched.state = .ready → m.sched.started = true → m'.sched.state = .ready →
            k.shareGranules < (s'.core c).leaseSum + m.lease.cur)) ∧
    (∀ t m, k.admitHold = none → (∀ e ∈ k.residents, e.2.sched.state = .active → e.2.lease.solo = false) → overDue s k = some (t, m) →
      (m.lease.cur ≤ k.shareGranules → ∃ s' m', exec (.overBudgetAdmission c) s = .next s' ∧ s'.team c t = some m' ∧
        m'.sched.state = .active ∧ (m'.lease.overBit = true ↔ (s'.core c).shareGranules < (s'.core c).leaseSum)) ∧
      (k.shareGranules < m.lease.cur → k.anyActive = true → ∃ s', exec (.overBudgetAdmission c) s = .next s' ∧
        (s'.core c).admitHold = some t ∧ ∀ u, s'.team c u = s.team c u) ∧
      (k.shareGranules < m.lease.cur → k.anyActive = false → ∃ s' m', exec (.overBudgetAdmission c) s = .next s' ∧
        s'.team c t = some m' ∧ m'.sched.state = .active ∧ m'.lease.solo = true)) ∧
    (∀ t m, k.admitHold = some t → k.anyActive = false → s.team c t = some m → ∃ s' m', exec (.overBudgetAdmission c) s = .next s' ∧
      s'.team c t = some m' ∧ m'.sched.state = .active ∧ m'.lease.solo = true ∧ (s'.core c).admitHold = none) ∧
    (k.admitHold = none → overDue s k = none → Nothing (.overBudgetAdmission c) s)) ∧
  (∀ (c t : Nat) (s : State) (m : Team), s.team c t = some m →
    (∀ h, m.sched.hold = some h → m.sched.state = .active → h.blocks = true → 1024 ≤ s.cycles - m.sched.holdSince →
      waitOver s c t h = false → ∃ s' m', exec (.teamBlocked c t) s = .next s' ∧ s'.team c t = some m' ∧
        m'.sched.state = .blocked ∧ m'.lease.overBit = false ∧ m'.regs = m.regs ∧ m'.sched.hold = some h) ∧
    (m.sched.hold = none → Nothing (.teamBlocked c t) s) ∧
    (m.trap.yielded = true → Nothing (.teamUnblocked c t) s) ∧
    (m.trap.yielded = false → m.sched.state = .blocked → (∀ h, m.sched.hold = some h → waitOver s c t h = true) →
      ∃ s', exec (.teamUnblocked c t) s = .next s' ∧
        s'.team c t = some { m with sched := { m.sched with state := .ready, since := s.cycles } }) ∧
    (∀ h, m.trap.yielded = false → m.sched.hold = some h → waitOver s c t h = false → Nothing (.teamUnblocked c t) s) ∧
    ((m.sched.holdUntil = 0 ∨ s.cycles < m.sched.holdUntil) → Nothing (.qpollBackoffEnd c t) s) ∧
    (0 < m.sched.holdUntil → m.sched.holdUntil ≤ s.cycles → ∃ s', exec (.qpollBackoffEnd c t) s = .next s' ∧
      s'.team c t = some { m with sched := { m.sched with holdUntil := 0, lowPoll := true } }) ∧
    ((m.lease.auto = false ∨ s.cycles < m.lease.decayed + 65536) → Nothing (.leaseDecay c t) s) ∧
    (m.lease.auto = true → m.lease.decayed + 65536 ≤ s.cycles → ∃ s' m', exec (.leaseDecay c t) s = .next s' ∧ s'.team c t = some m' ∧
      m'.lease.lines ≤ m.lease.lines ∧ m.lease.lines ≤ m'.lease.lines + 8 ∧ m'.lease.hit = false ∧ m'.lease.decayed = s.cycles ∧
      (m.lease.hit = true → m'.lease.lines = m.lease.lines) ∧ m'.regs = m.regs))

namespace Sys2Proof.Machine

/-! ### Streams, splits and special registers (chapter 10) -/

/-- A jump of the scalar stream under a condition or to an address whose mark is `mark` (R427): an unmarked one only moves the stream; a marked one is
obeyed, and CPOIS is set. -/
def Jumps (o : Host.Outcome State Fault Refusal) (s : State) (c t : Nat) (m : Team) (w : Bool) (pc : Word) (mark : Bool) : Prop :=
  if mark then ∃ s1 m1, ScalarGoesOn o s1 c t pc w ∧ s1.team c t = some m1 ∧ m1.ctl = { m.ctl with cpois := true } ∧ m1.regs = m.regs ∧
    s1.mem = s.mem ∧ SameStores s s1
  else ScalarCompletes o s c t m w { m.regs with spc := pc } []

/-- The state a split's body leaves differs at most in that split's spin detector (R353). -/
def OnlySpin (s s' : State) (c t i : Nat) : Prop :=
  ∃ m p, s.team c t = some m ∧ m.ctl.split i = some p ∧
    ∃ g, s'.team c t = some { m with ctl := m.ctl.setSplit i (some { p with spin := g }) } ∧
    OnlyTeam (s.core c) (s'.core c) t [] ∧ OnlyCore s s' c

/-- The registers that `s.mfs` reads (R300), but for the words of TRAP_MASK. -/
def specialTable (s : State) (c : Nat) (m : Team) : List (Nat × Word) :=
  let n := fun (v : Nat) => BitVec.ofNat 64 v
  [(0x000, n m.id.index), (0x001, n m.id.lanes), (0x002, n m.id.cx), (0x003, n m.id.cy), (0x004, n m.id.rank),
   (0x005, n (s.launchOf m).1), (0x006, n (s.launchOf m).2), (0x007, n m.id.gen), (0x010, n m.id.regwin),
   (0x011, n (((s.core c).part.map (·.spBase)).getD 0)), (0x012, n (((s.core c).part.map (·.spSize)).getD 0)),
   (0x013, n m.regs.accBase), (0x014, n m.regs.accLimit), (0x020, m.regs.fpctl), (0x021, m.regs.fpflags), (0x030, m.lease.reg),
   (0x031, m.regionId), (0x040, m.trap.regs.cause), (0x041, m.trap.regs.spc), (0x042, m.trap.regs.lpc), (0x043, m.trap.regs.addr),
   (0x080, n s.cycles)]

/-- The registers that `s.mfp` reads (R372). -/
def privTable (s : State) (c : Nat) (m : Team) : List (Nat × Word) :=
  [(0x800, BitVec.ofNat 64 (physCore s c)), (0x801, BitVec.ofNat 64 m.id.asid), (0x802, BitVec.ofNat 64 s.boot.ctxBase), (0x804, 0), (0x805, 0),
   (0x806, m.regs.pstat), (0x807, (s.die (dieOf c)).migctl), (0x808, 0)] ++
  (List.range 4).map fun i => (0x810 + i, m.regs.bkpt.getD i 0)

/-- The context of a lane word that has no guard. -/
abbrev bareCtx (s : State) (c t : Nat) (m : Team) (i : Nat) (p : Split) (f : Lane) : LaneCtx := heldCtx s c t m i p f [] false

end Sys2Proof.Machine

/-- R314, R315, R317: branches, jumps and calls move the scalar stream, in units of words from their own address; `s.call` links; a jump to an
address that is no multiple of 4 traps; `s.nop` only goes on. -/
def Obligations.BranchesAndCallsMoveTheStream : Prop :=
  (∀ (f : SB) (s : State) (c t : Nat) (m : Team), ScalarReady s c t m [] [] [f.kg.toNat] 0 →
    let target := m.regs.spc + 4 * f.disp.signExtend 64
    Jumps (exec (.sBr f) s) s c t m f.w (if m.regs.pred f.kg.toNat != f.kn then target else m.regs.spc + 4) (m.regs.predMark f.kg.toNat)) ∧
  (∀ (w : Bool) (disp : BitVec 21) (s : State) (c t : Nat) (m : Team), ScalarReady s c t m [] [] [] 0 →
    Jumps (exec (.sJmp w disp) s) s c t m w (m.regs.spc + 4 * disp.signExtend 64) false) ∧
  (∀ (f : SL) (s : State) (c t : Nat) (m : Team), ScalarReady s c t m [f.d.toNat] [] [] 0 →
    ScalarCompletes (exec (.sCall f) s) s c t m f.w { m.regs with spc := m.regs.spc + 4 * f.i.signExtend 64 }
      [(f.d.toNat, ⟨m.regs.spc + 4, false⟩)]) ∧
  (∀ (f : SC) (s : State) (c t : Nat) (m : Team), ScalarReady s c t m [f.a.toNat] [f.a.toNat] [] 0 →
    let v := s.sreg c m f.a.toNat
    (v.val.toNat % 4 = 0 →
      Jumps (exec (.sRet f) s) s c t m f.w v.val v.mark ∧ Jumps (exec (.sJr f) s) s c t m f.w v.val v.mark) ∧
    (v.val.toNat % 4 ≠ 0 →
      Raises (exec (.sRet f) s) s c t m ⟨.misaligned, v.val, 0⟩ ∧ Raises (exec (.sJr f) s) s c t m ⟨.misaligned, v.val, 0⟩)) ∧
  (∀ (f : SC) (s : State) (c t : Nat) (m : Team), ScalarReady s c t m [] [] [] 0 →
    ScalarCompletes (exec (.sNop f) s) s c t m f.w { m.regs with spc := m.regs.spc + 4 } [])

/-- R301, R302, R316, R317: `s.lrun` queues a block with its uniform slots and FPCTL, and waits while the lane queue is full; a block retires, and the next
starts, once its lanes have finished; `s.lwait` waits for the blocks, and `s.exit`, which commits an open region first, too, and then retires the team. -/
def Obligations.LaneBlocksRunInOrder : Prop :=
  (∀ (n : Nat) (i : Instr) (f : SC) (s : State) (c t : Nat) (m : Team),
    (n = 0 ∧ i = .sLrun f ∨ ∃ k : BitVec 3, n = k.toNat + 1 ∧ i = .sLrunUniforms k f) →
    let us := (List.range n).map (f.b.toNat + ·)
    let v := s.sreg c m f.a.toNat
    ScalarReady s c t m (f.a.toNat :: us) [f.a.toNat] [] 0 →
    let count := if m.trap.handler then m.ctl.hqueue.length + m.ctl.hrunning.isSome.toNat
      else m.ctl.queue.length + m.ctl.running.isSome.toNat
    let full := (if m.trap.handler then 2 else 8) ≤ count
    (v.val.toNat % 4 ≠ 0 → Raises (exec i s) s c t m ⟨.misaligned, v.val, 0⟩) ∧
    (v.val.toNat % 4 = 0 → full → exec i s = .next (scalarHold s c t .lrun f.w)) ∧
    (v.val.toNat % 4 = 0 → ¬ full → v.mark = false →
      ∃ s1 : State, ScalarGoesOn (exec i s) (s1.settle c t) c t (m.regs.spc + 4) f.w ∧ OnlyTeam (s.core c) (s1.core c) t [] ∧ OnlyCore s s1 c ∧
        ∃ b : Block, b.addr = v.val ∧ b.fpctl = m.regs.fpctl ∧ b.after = s.ticket ∧ b.uniforms.length = 8 ∧
          (∀ j, j < 8 → b.uniforms.getD j ⟨0, false⟩ = if j < n then s.sreg c m (f.b.toNat + j) else ⟨0, false⟩) ∧
          s1.team c t = some { m with ctl := if m.trap.handler then { m.ctl with hqueue := m.ctl.hqueue ++ [b] }
            else { m.ctl with queue := m.ctl.queue ++ [b] } })) ∧
  (∀ (k : Core) (m : Team), m.trap.handler = false →
    let r := settle k m
    ((m.ctl.empty false && (m.ctl.running.isNone || m.laneIdle)) = false → r = (k, m)) ∧
    ((m.ctl.empty false && (m.ctl.running.isNone || m.laneIdle)) = true → r.1 = k ∧
      (m.ctl.queue = [] → r.2 = { m with ctl := { m.ctl with queue := [], running := none } }) ∧
      ∀ b rest, m.ctl.queue = b :: rest → m.ctl.live ≠ 0 →
        r.2.ctl.running = some ⟨b, m.ctl.live⟩ ∧ r.2.ctl.queue = rest ∧ r.2.ctl.split 0 = some (Split.fresh m.ctl.live b.addr none false) ∧
        r.2.regs = m.regs ∧ r.2.ctl.preds = m.ctl.preds)) ∧
  (∀ (f : SC) (s : State) (c t : Nat) (m : Team), ScalarReady s c t m [] [] [] 0 →
    (m.blocksDone = true → ScalarCompletes (exec (.sLwait f) s) s c t m f.w { m.regs with spc := m.regs.spc + 4 } []) ∧
    (m.blocksDone = false → exec (.sLwait f) s = .next (scalarHold s c t .lwait f.w)) ∧
    (∀ s1 m1, Committed true s c t m s1 m1 →
      (m1.blocksDone = false → exec (.sExit f) s = .next (scalarHold s1 c t .lwait f.w)) ∧
      (m1.blocksDone = true → (m1.halted || !drained s1 c t m1) = true → exec (.sExit f) s = .next (scalarHold s1 c t .drain f.w)) ∧
      (m1.blocksDone = true → m1.halted = false → drained s1 c t m1 = true → ∃ s', exec (.sExit f) s = .next s' ∧ s'.team c t = none)))

/-- R300, R318, R322, R372, R395: the moves from and to special registers, with the numbers that each may name; the privileged ones run in runtime mode
only. -/
def Obligations.SpecialRegisterMoves : Prop :=
  (∀ (f : SSpec) (s : State) (c t : Nat) (m : Team), ScalarReady s c t m [f.d.toNat] [] [] 0 →
    let n := f.num.toNat
    let d := f.d.toNat
    (∀ e ∈ specialTable s c m, n = e.1 → WritesScalar (exec (.sMfs f) s) s c t m f.w d ⟨e.2, false⟩) ∧
    (∀ i, i < 16 → n = 0x050 + i → ∃ v : Word, (∀ j, j < 64 → v.getLsbD j = m.trap.regs.mask.getLsbD (64 * i + j)) ∧
      WritesScalar (exec (.sMfs f) s) s c t m f.w d ⟨v, false⟩) ∧
    ((∀ e ∈ specialTable s c m, n ≠ e.1) → ¬ (0x050 ≤ n ∧ n < 0x060) → Raises (exec (.sMfs f) s) s c t m ⟨.illegalOperand, 0, 0⟩) ∧
    (m.id.runtime = false → Raises (exec (.sMfp f) s) s c t m ⟨.privilege, 0, 0⟩ ∧ Raises (exec (.sMtp f) s) s c t m ⟨.privilege, 0, 0⟩) ∧
    (m.id.runtime = true →
      (∀ e ∈ privTable s c m, n = e.1 → WritesScalar (exec (.sMfp f) s) s c t m f.w d ⟨e.2, false⟩) ∧
      ((∀ e ∈ privTable s c m, n ≠ e.1) → Raises (exec (.sMfp f) s) s c t m ⟨.illegalOperand, 0, 0⟩))) ∧
  (∀ (f : SSpec) (s : State) (c t : Nat) (m : Team), ScalarReady s c t m [f.d.toNat] [] [] 0 →
    let n := f.num.toNat
    let v := (s.sreg c m f.d.toNat).val
    let becomes := fun (m' : Team) => ∃ s1, ScalarGoesOn (exec (.sMts f) s) s1 c t (m.regs.spc + 4) f.w ∧ s1.team c t = some m' ∧
      OnlyTeam (s.core c) (s1.core c) t [] ∧ OnlyCore s s1 c
    let trap := fun (r : TrapRegs) => becomes { m with trap := { m.trap with regs := r } }
    let allowed := m.trap.handler = true ∨ m.id.runtime = true
    let old := m.trap.regs
    (n = 0x020 → becomes { m with regs := { m.regs with
      fpctl := BitVec.ofNat 64 (v.toNat / 2 ^ 8 % 2 ^ 5 * 2 ^ 8 + if v.toNat % 8 ≤ 4 then v.toNat % 8 else m.regs.fpctl.toNat % 8) } }) ∧
    (n = 0x021 → becomes { m with regs := { m.regs with fpflags := BitVec.ofNat 64 (v.toNat % 2 ^ 5) } }) ∧
    (allowed → n = 0x040 → trap { old with cause := BitVec.ofNat 64 (v.toNat % 2 ^ 16) }) ∧
    (allowed → n = 0x041 → trap { old with spc := v }) ∧ (allowed → n = 0x042 → trap { old with lpc := v }) ∧
    (allowed → n = 0x043 → trap { old with addr := v }) ∧
    (∀ i, allowed → i < 16 → n = 0x050 + i → ∃ k : Mask,
      (∀ j, j < 1024 → k.getLsbD j = if j / 64 = i then v.getLsbD (j % 64) else old.mask.getLsbD j) ∧ trap { old with mask := k }) ∧
    (n ≠ 0x020 → n ≠ 0x021 → (¬ allowed ∨ ¬ (0x040 ≤ n ∧ n ≤ 0x043 ∨ 0x050 ≤ n ∧ n < 0x060)) →
      Raises (exec (.sMts f) s) s c t m ⟨.illegalOperand, 0, 0⟩)) ∧
  (∀ (f : SSpec) (s : State) (c t : Nat) (m : Team), ScalarReady s c t m [f.d.toNat] [] [] 0 → m.id.runtime = true →
    let n := f.num.toNat
    let v := (s.sreg c m f.d.toNat).val
    let goesOn := fun (s1 : State) => ScalarGoesOn (exec (.sMtp f) s) s1 c t (m.regs.spc + 4) f.w
    (∀ s1, n = 0x804 → exec (.preq c t v) s = .next s1 → goesOn s1) ∧
    (∀ s1, n = 0x808 → exec (.pcancel c t v) s = .next s1 → goesOn s1) ∧
    (∀ s1, n = 0x805 → exec (.pkill c t v) s = .next s1 →
      (s1.team c t ≠ none → goesOn s1) ∧ (s1.team c t = none → ∃ s', exec (.sMtp f) s = .next s' ∧ s'.team c t = none)) ∧
    (n = 0x807 → ∃ s1, goesOn s1 ∧ s1.mem = s.mem ∧ SameStores s s1 ∧
      (s1.die (dieOf c)).migctl = BitVec.ofNat 64 (v.toNat % 2 ^ 24 + v.toNat / 2 ^ 31 % 2 * 2 ^ 31)) ∧
    (∀ i, i < 4 → n = 0x810 + i → ∃ s1 m1, goesOn s1 ∧ s1.mem = s.mem ∧ SameStores s s1 ∧ s1.team c t = some m1 ∧
      ∀ j, j < 4 → m1.regs.bkpt.getD j 0 =
        if j = i then BitVec.ofNat 64 (v.toNat / 2 ^ 62 * 2 ^ 62 + v.toNat % 2 ^ 54) else m.regs.bkpt.getD j 0) ∧
    (n ∉ [0x804, 0x805, 0x807, 0x808, 0x810, 0x811, 0x812, 0x813] → Raises (exec (.sMtp f) s) s c t m ⟨.illegalOperand, 0, 0⟩)) ∧
  (∀ (f : Lane) (s : State) (c t : Nat) (m : Team) (i : Nat) (p : Split), LaneReady s c t m i p f [] [] true [] →
    let n := f.imm.toNat % 2 ^ 12
    (n = 0x020 → WritesLanes (exec (.vMfs f) s) s c t m i p f fun _ => ⟨(m.blockOf p).fpctl, false⟩) ∧
    (∀ e ∈ specialTable s c m, n = e.1 → (n ≤ 7 ∨ 0x010 ≤ n ∧ n ≤ 0x014 ∨ n = 0x080) →
      WritesLanes (exec (.vMfs f) s) s c t m i p f fun _ => ⟨e.2, false⟩) ∧
    (¬ (n ≤ 7 ∨ 0x010 ≤ n ∧ n ≤ 0x014 ∨ n = 0x020 ∨ n = 0x080) →
      LaneRaises (exec (.vMfs f) s) s c t m i p ⟨.illegalOperand, 0, m.active p⟩))

/-- R323, R324, R325: `s.regroup` answers with the code of the first rule that it breaks, waits for a match, or merges: the lower team keeps the live lanes of
both, in their new places with their registers and predicates, and the higher one retires. -/
def Obligations.RegroupMergesTeams : Prop :=
  (∀ (nw : Bool) (f : SC) (s : State) (c t : Nat) (m : Team) (s1 : State) (m1 : Team),
    ScalarReady s c t m [f.a.toNat, f.b.toNat, f.d.toNat] [f.a.toNat, f.b.toNat] [] 0 → Committed true s c t m s1 m1 →
    let a := (s.sreg c m f.a.toNat).val.toNat
    let b := (s.sreg c m f.b.toNat).val.toNat
    let tag := a % 2 ^ 16
    let first := b % 2 ^ 8
    let count := b / 2 ^ 8 % 2 ^ 8
    let live := maskCount m1.ctl.live
    let mark := (s1.sreg c m f.a.toNat).mark || (s1.sreg c m f.b.toNat).mark
    let answers := fun (code : Nat) =>
      WritesStatus (exec (.sRegroup nw f) s) s1 c t (m.regs.spc + 4) f.w f.d.toNat (BitVec.ofNat 64 (live * 2 ^ 16 + code)) mark
    let waits := exec (.sRegroup nw f) s = .next (scalarHold s1 c t (.regroup f.d.toNat tag first count mark) f.w)
    let fieldBad := a / 2 ^ 16 ≠ 0 ∨ b / 2 ^ 16 ≠ 0 ∨ 240 < count ∨ ∃ j, j < count ∧ m1.laneOk (first + j) = false
    let dual := (s1.core c).mode = modeDual
    let blocks := m1.ctl.queue = [] ∧ m1.ctl.running = none ∧ m1.ctl.hqueue = [] ∧ m1.ctl.hrunning = none
    (fieldBad → answers 1) ∧
    (¬ fieldBad → dual → answers 5) ∧
    (¬ fieldBad → ¬ dual → ¬ blocks → answers 3) ∧
    (¬ fieldBad → ¬ dual → blocks → m1.id.lanes < 2 * live → answers 2) ∧
    (¬ fieldBad → ¬ dual → blocks → 2 * live ≤ m1.id.lanes →
      (matching s1.cycles (s1.core c) t m1 tag first count = none → (nw = true → answers 4) ∧ (nw = false → waits)) ∧
      (∀ o d2 mark2 s2 m2, matching s1.cycles (s1.core c) t m1 tag first count = some (o, d2, mark2) →
        ((mayMerge s1 c t && mayMerge s1 c o) = false → waits) ∧
        ((mayMerge s1 c t && mayMerge s1 c o) = true →
          (t < o → s1.regroup c t o f.d.toNat first count mark = s2 → s2.team c t = some m2 →
            ScalarGoesOn (exec (.sRegroup nw f) s) s2 c t (m.regs.spc + 4) f.w) ∧
          (o < t → s1.regroup c o t d2 first count mark2 = s2 → s2.team c o = some m2 →
            ∃ s' m', exec (.sRegroup nw f) s = .next s' ∧ s'.team c o = some m' ∧ m'.regs.spc = m2.regs.spc + 4 ∧ m'.sched.hold = none ∧
              m'.pend = m2.pend ∧ m'.ctl = m2.ctl))))) ∧
  (∀ (now : Nat) (k : Core) (t : Nat) (m : Team) (tag first count o d : Nat) (mark : Bool),
    matching now k t m tag first count = some (o, d, mark) →
    ∃ e, (o, e) ∈ k.residents ∧ o ≠ t ∧ e.sched.hold = some (.regroup d tag first count mark) ∧ e.id.launch = m.id.launch ∧
      e.id.vregs = m.id.vregs ∧ maskCount e.ctl.live + maskCount m.ctl.live ≤ (if o < t then e.id.lanes else m.id.lanes) ∧
      now < e.sched.holdSince + 2 ^ 16) ∧
  (∀ (k : Core) (a b : Team) (first count : Nat),
    let la := lanesOf a.ctl.live a.id.lanes
    let lb := lanesOf b.ctl.live b.id.lanes
    let r := mergeTeams k a b first count
    la.length + lb.length ≤ a.id.lanes → a.id.lanes ≤ 1024 →
    (∀ i j, i < count → j < count → a.slotOf (first + i) = a.slotOf (first + j) → i = j) →
    (∀ l, r.2.ctl.live.getLsbD l = decide (l < la.length + lb.length)) ∧
    (∀ i j, i < la.length → j < count → r.1.vreg a (first + j) i = k.vreg a (first + j) (la.getD i 0)) ∧
    (∀ i j, i < lb.length → j < count → r.1.vreg a (first + j) (la.length + i) = k.vreg b (first + j) (lb.getD i 0)) ∧
    (∀ i n, i < la.length → n ≤ 7 → r.2.ctl.pred n i = a.ctl.pred n (la.getD i 0) ∧ r.2.ctl.predMark n i = a.ctl.predMark n (la.getD i 0)) ∧
    (∀ i n, i < lb.length → n ≤ 7 → r.2.ctl.pred n (la.length + i) = b.ctl.pred n (lb.getD i 0) ∧
      r.2.ctl.predMark n (la.length + i) = b.ctl.predMark n (lb.getD i 0)) ∧
    r.2.regs = { a.regs with fpflags := a.regs.fpflags ||| b.regs.fpflags } ∧ r.2.id = a.id)

/-- R309, R310, R312, R319: a lane branch moves, keeps or divides its split; a split at its join address parks until every member has, and the lanes
go on together behind it; `v.lend` ends a split and `v.exit` takes lanes from the team. -/
def Obligations.LaneStreamsDivideAndJoin : Prop :=
  ∀ (f : Lane) (s : State) (c t : Nat) (m : Team) (i : Nat) (p : Split),
    let h := heldState s c t m i p f [] false
    let x := bareCtx s c t m i p f
    let target := p.lpc + 12 * BitVec.ofInt 64 (BitVec.ofNat 17 (f.imm.toNat / 2 ^ 16)).toInt
    let jaddr := p.lpc + 12 * BitVec.ofInt 64 (BitVec.ofNat 16 f.imm.toNat).toInt
    let active := lanesOf (m.active p) m.id.lanes
    let taken := active.filter (laneGuard m f)
    let rest := active.filter fun l => !laneGuard m f l
    (LaneIssues s c t m i p f { tys := 1, imm := immAll } { guarded := false, preds := [f.pg.toNat] } →
      (∀ l ∈ active, m.ctl.predMark f.pg.toNat l = false) →
      (taken = [] → ∃ s1, OnlySpin h s1 c t i ∧ LaneGoesOn (exec (.vBr f) s) s1 c t i (p.lpc + 12)) ∧
      (taken ≠ [] → rest = [] → ∃ s1, OnlySpin h s1 c t i ∧ LaneGoesOn (exec (.vBr f) s) s1 c t i target) ∧
      (taken ≠ [] → rest ≠ [] →
        ∃ m1, h.team c t = some m1 ∧
          (divide (h.core c) m1 x taken rest target jaddr = none →
            LaneRaises (exec (.vBr f) s) s c t m i p ⟨.scratchBounds, BitVec.ofNat 64 (spillArea (h.core c) m), m.active p⟩) ∧
          (∀ k2 m2, divide (h.core c) m1 x taken rest target jaddr = some (k2, m2) →
            exec (.vBr f) s = .next (((h.setCore c k2).setTeam c t (some m2)).settle c t)))) ∧
    (LaneIssues s c t m i p f { tys := 1, imm := immAll } { guarded := false } →
      ∃ s1, OnlySpin h s1 c t i ∧ LaneGoesOn (exec (.vJmp f) s) s1 c t i target) ∧
    (LaneIssues s c t m i p f { tys := 1 } { guarded := false } →
      ((∀ r j, p.join = some r → m.ctl.joinRec r = some j → j.jaddr ≠ p.lpc) → LaneGoesOn (exec (.vJoin f) s) h c t i (p.lpc + 12)) ∧
      (∀ r j, p.join = some r → m.ctl.joinRec r = some j → j.jaddr = p.lpc → m.ctl.spills = [] → j.parked + 1 < j.members →
        ∃ (s1 : State) (m1 : Team), exec (.vJoin f) s = .next (s1.settle c t) ∧ s1.team c t = some m1 ∧ m1.ctl.split i = none ∧
          m1.ctl.joinRec r = some { j with
            parked := j.parked + 1, lanes := j.lanes ||| p.mask, longs := j.longs ||| p.longs }) ∧
      (∀ r j, p.join = some r → m.ctl.joinRec r = some j → j.jaddr = p.lpc → m.ctl.spills = [] → i < 16 →
        j.parked + 1 = j.members →
        (j.lanes ||| p.mask) &&& m.ctl.live ≠ 0 →
        ∃ (s1 : State) (m1 : Team) (n : Nat) (q : Split), exec (.vJoin f) s = .next (s1.settle c t) ∧ s1.team c t = some m1 ∧ m1.ctl.joinRec r = none ∧
          m1.ctl.split n = some q ∧ q.mask = (j.lanes ||| p.mask) &&& m.ctl.live ∧ q.lpc = p.lpc + 12 ∧ q.join = j.outer ∧
          q.longs = j.longs ||| p.longs ∧ (∀ n', n' < 16 → n' ≠ n → n' ≠ i → m1.ctl.split n' = m.ctl.split n')) ∧
      (∃ (s1 : State) (m1 : Team), exec (.vLend f) s = .next (s1.settle c t) ∧ s1.team c t = some m1 ∧ m1.ctl.live = m.ctl.live ∧
        m1.regs = m.regs ∧ s1.mem = s.mem) ∧
      (p.join = none → m.ctl.spills = [] →
        ∃ (s1 : State) (m1 : Team), exec (.vLend f) s = .next (s1.settle c t) ∧ s1.team c t = some m1 ∧ m1.ctl.split i = none ∧ m1.ctl.live = m.ctl.live ∧
          (∀ n, n ≠ i → m1.ctl.split n = m.ctl.split n))) ∧
    (LaneIssues s c t m i p f { tys := 1 } {} →
      let h := heldState s c t m i p f []
      let lanes := runningLanes m p f
      (lanes = [] → LaneGoesOn (exec (.vExit f) s) h c t i (p.lpc + 12)) ∧
      (lanes ≠ [] → ∃ s' m', exec (.vExit f) s = .next s' ∧ s'.team c t = some m' ∧ m'.regs = m.regs ∧
        ∀ l, m'.ctl.live.getLsbD l = (m.ctl.live.getLsbD l && !lanes.contains l))) ∧
    (∀ (k : Core) (r j : Nat), m.ctl.split i = some p → taken ≠ [] → rest ≠ [] →
      (∀ q o, p.join = some q → m.ctl.joinRec q = some o → o.jaddr ≠ jaddr) →
      m.ctl.freeJoin = some r → (m.ctl.setSplit i (some p)).freeSplit = some j → j ≠ i →
      ∃ m', divide k m x taken rest target jaddr = some (k, m') ∧
        m'.ctl.joinRec r = some { jaddr, members := 2, parked := 0, lanes := 0, outer := p.join, longs := 0, handler := p.handler } ∧
        (∃ q, m'.ctl.split i = some q ∧ q.mask = maskOf rest ∧ q.lpc = p.lpc + 12 ∧ q.join = some r) ∧
        (∃ q, m'.ctl.split j = some q ∧ q.mask = maskOf taken ∧ q.lpc = target ∧ q.join = some r ∧ q.longs = p.longs))

/-- R320, R321: votes write their result to every running lane, or to a scalar register; a shuffle takes the value of the source lane where that lane is
active, and the fallback elsewhere, with its mark. -/
def Obligations.VotesAndShufflesCrossLanes : Prop :=
  (∀ (f : Lane) (s : State) (c t : Nat) (m : Team) (i : Nat) (p : Split),
    let n := f.va.toNat % 8
    let lanes := runningLanes m p f
    let yes := lanes.filter fun l => m.ctl.pred n l != f.imm.getLsbD 4
    let h := heldState s c t m i p f []
    let is := fun (v : Word) =>
      match f.ty.toNat with
      | 0 => ∀ j, j < 64 → v.getLsbD j = yes.contains (64 * (f.imm.toNat % 16) + j)
      | 1 => v = if yes = [] then 0 else 1
      | 2 => v = if yes = lanes then 1 else 0
      | _ => v = BitVec.ofNat 64 yes.length
    let mark := lanes.any fun l => m.ctl.predMark n l
    ∃ v, is v ∧
      (f.x = false → LaneReady s c t m i p f [] [] true [n] → WritesLanes (exec (.vVote f) s) s c t m i p f fun _ => ⟨v, mark⟩) ∧
      (f.x = true → LaneIssues s c t m i p f { tys := 0xF, vd := .bits 6, a := .bits 3, x := true, imm := 0x1F }
          { preds := [n], scalarD := some f.vd.toNat } →
        (lanes = [] → LaneGoesOn (exec (.vVote f) s) h c t i (p.lpc + 12)) ∧
        (lanes ≠ [] → LaneGoesOn (exec (.vVote f) s) (h.setSreg c m f.vd.toNat ⟨v, mark⟩) c t i (p.lpc + 12)))) ∧
  (∀ (f : Lane) (s : State) (c t : Nat) (m : Team) (i : Nat) (p : Split),
    LaneReady s c t m i p f (if f.ty = 0 then [.a, .b, .c] else [.a, .c]) [] true [] →
    let src := fun y l => laneSource s c m p f y l
    let k := f.imm.toNat % 2 ^ 10
    let source := fun (l : Nat) => match f.ty.toNat with
      | 0 => some ((src .b l).val.toNat % 2 ^ 32)
      | 1 => some (l ^^^ k)
      | 2 => if k ≤ l then some (l - k) else none
      | _ => some (l + k)
    let hits := fun (l : Nat) => match source l with
      | some q => decide (q < m.id.lanes) && (m.active p).getLsbD q
      | none => false
    let im := fun (l : Nat) => f.ty == 0 && (src .b l).mark
    LaneCompletes (exec (.vShuf f) s) s c t m i p f
      (fun l => some (if hits l then src .a ((source l).getD 0) else src .c l))
      (fun l => if f.pd = 0 then none else some (hits l, im l)) 0)

namespace Sys2Proof.Machine

/-! ### Traps, queues and recovery words (chapters 11, 12 and 14) -/

/-- A trap is taken by a team with a handler (R384, R385): what it saves, and where the team goes on. `lane`: the trapping split and its word. -/
structure TakesTrap (s s' : State) (c t : Nat) (m : Team) (code : Cause) (addr : Word) (lanes : Mask) (lane : Option (Nat × Word)) : Prop where
  team : ∃ m', s'.team c t = some m' ∧ m'.regs = { m.regs with spc := m.id.strapvec } ∧
    m'.trap.handler = true ∧
    m'.trap.regs.cause = BitVec.ofNat 64 ((match lane with | some (i, _) => 2 ^ 13 + i * 2 ^ 8 | none => 0) + code.code) ∧
    m'.trap.regs.spc = m.regs.spc ∧ m'.trap.regs.lpc = (match lane with | some (_, pc) => pc | none => 0) ∧
    m'.trap.regs.addr = addr ∧ m'.trap.regs.mask = lanes ∧ m'.trap.split = lane.map (·.1) ∧ m'.trap.outer = [] ∧
    m'.sched.hold = none ∧ m'.sched.parked = false ∧ m'.id = m.id ∧ m'.pend = m.pend ∧ m'.region = m.region ∧ m'.lease = m.lease ∧
    m'.ctl.preds = m.ctl.preds ∧ m'.ctl.live = m.ctl.live ∧ m'.ctl.joins = m.ctl.joins ∧
    ∀ i, m'.ctl.split i = (m.ctl.split i).map fun p => { p with latches := [none, none, none] }
  frame : ∀ i, i < 64 → (s'.core c).store.get 0 (m.id.regwin / 8 + 64 + i) = (frameDwords (s.core c) m).getD i 0 ∧
    (s'.core c).unitMarks.get false (m.id.regwin / 8 + 64 + i) = false
  block : s'.sreg c m 63 = ⟨BitVec.ofNat 64 (handlerBlock (s.core c) m), false⟩
  vector : ∀ l, lane ≠ none → l < m.id.lanes → s'.vreg c m 239 l = ⟨if lanes.getLsbD l then 1 else 0, false⟩
  rest : ∀ u, u ≠ m.sUnit 63 → (u < m.id.regwin / 8 + 64 ∨ m.id.regwin / 8 + 128 ≤ u) →
    (lane = none ∨ ∀ l, l < m.id.lanes → u ≠ m.vUnit 239 l) → (s'.core c).dword u = (s.core c).dword u
  only : OnlyCore s s' c

/-- The team takes a trap at once: it runs no handler and has one, no region is open, and its word stands alone in its cycle. -/
structure TrapsAtOnce (s : State) (c t : Nat) (m : Team) : Prop where
  team : s.team c t = some m
  handler : m.trap.handler = false
  vectored : m.hasHandler = true
  region : m.region = none
  alone : s.gather = false
  free : ∀ h, m.sched.hold = some h → h.engaged = false

/-- The operation of a queue word. -/
def opOf (s : State) (c : Nat) (m : Team) (f : SC) (kind : QueueKind) (kd : Nat) : QueueOp :=
  { kind, d := f.d.toNat, kd, handle := (s.sreg c m f.a.toNat).val, area := (s.sreg c m f.b.toNat).val,
    mark := (s.sreg c m f.a.toNat).mark || (kind != .open_ && kind != .close && (s.sreg c m f.b.toNat).mark) }

/-- A queue word (R358 to R361): it commits, waits for its release, and then answers with the code of its operation, waits, or traps. -/
def QueueWord (i : SC → Instr) (kind : QueueKind) (kd : Nat) : Prop :=
  ∀ (f : SC) (s : State) (c t : Nat) (m : Team) (s1 : State) (m1 : Team),
    let srcs := if kind = .open_ ∨ kind = .close then [f.a.toNat] else [f.a.toNat, f.b.toNat]
    ScalarReady s c t m (srcs ++ [f.d.toNat]) srcs [] 0 (if kind = .pop ∨ kind = .poll then [kd] else []) →
    let op := opOf s c m f kind kd
    (∀ r, queueAttempt s c t op = .trap r → Raises (exec (i f) s) s c t m r) ∧
    ((∀ r, queueAttempt s c t op ≠ .trap r) → Committed true s c t m s1 m1 →
      (op.pops = false → released s1 c (queueScope s1 op) = false → exec (i f) s = .next (scalarHold s1 c t .drain f.w)) ∧
      ((op.pops = true ∨ released s1 c (queueScope s1 op) = true) →
        (∀ r, queueAttempt s1 c t op = .trap r → Raises (exec (i f) s) s c t m r) ∧
        (∀ s2, queueAttempt s1 c t op = .wait s2 → exec (i f) s = .next (scalarHold s2 c t (.queue op) f.w)) ∧
        (∀ n s2 m2, queueAttempt s1 c t op = .code n s2 → s2.team c t = some m2 →
          ScalarGoesOn (exec (i f) s) (queueStatus s2 c t op n) c t (m.regs.spc + 4) f.w)))

/-- The bytes of a place hold a record, with a mark only where `mark` is set. -/
def HoldsRecord (s : State) (p : Place) (bs : List Byte) : Prop := ∀ i, i < bs.length → (s.core p.core).byte (p.off + i) = bs.getD i 0

/-- n bytes of two places do not overlap. -/
def Apart (p : Place) (n : Nat) (q : Place) (k : Nat) : Prop := p.core ≠ q.core ∨ p.off + n ≤ q.off ∨ q.off + k ≤ p.off

end Sys2Proof.Machine

/-- R384, R385, R389, R395, R396: taking a trap saves the place, the cause, the address and the lanes, writes the frame copies, and goes to the vector; a team
without a handler, or in one, ends. `s.trap` and `v.trap` take SOFTWARE with their operand. -/
def Sys2Proof.Machine.TrapsEnterTheHandler : Prop :=
  (∀ (s : State) (c t : Nat) (m : Team) (x : Trap), TrapsAtOnce s c t m → x.what.cause ≠ .machineCheck →
    (x.lane = none → x.spc = some m.regs.spc) →
    TakesTrap s (raise s c t m x) c t m x.what.cause x.what.addr x.what.lanes x.lane) ∧
  (∀ (s : State) (c t : Nat) (m : Team) (x : Trap), s.team c t = some m → (m.trap.handler = true ∨ m.hasHandler = false) →
    (Team.unchecked s c t m = false → (raise s c t m x).team c t = none) ∧
    (Team.unchecked s c t m = true → ∃ m', (raise s c t m x).team c t = some m' ∧ m'.regs = m.regs ∧ m'.ctl = m.ctl ∧ m'.trap = m.trap ∧
      m'.region = m.region)) ∧
  (∀ (f : SC) (s : State) (c t : Nat) (m : Team), ScalarReady s c t m [f.a.toNat] [] [] 0 → TrapsAtOnce s c t m →
    ∃ s', exec (.sTrap f) s = .next s' ∧ TakesTrap s s' c t m .software (s.sreg c m f.a.toNat).val 0 none) ∧
  (∀ (f : Lane) (s : State) (c t : Nat) (m : Team) (i : Nat) (p : Split),
    LaneIssues s c t m i p f { tys := 1, imm := immAll } {} → TrapsAtOnce s c t m →
    let lanes := runningLanes m p f
    (lanes ≠ [] → ∃ s', exec (.vTrap f) s = .next s' ∧
      TakesTrap s s' c t m .software (BitVec.ofNat 64 f.imm.toNat) (maskOf lanes) (some (i, p.lpc))) ∧
    (lanes = [] → LaneGoesOn (exec (.vTrap f) s) (heldState s c t m i p f []) c t i (p.lpc + 12)))

/-- R390: `s.eret` in runtime mode enters team mode at TRAP_SPC; in a handler it waits for the handler's blocks and accesses and returns, scalar stream and
trapped split each at its saved place; in team mode it is PRIVILEGE. -/
def Sys2Proof.Machine.ReturnsLeaveTheHandler : Prop :=
  ∀ (f : SC) (s : State) (c t : Nat) (m : Team), ScalarReady s c t m [] [] [] 0 →
    let o := exec (.sEret f) s
    let spc := m.trap.regs.spc
    let lpc := m.trap.regs.lpc
    (m.trap.handler = false →
      (m.id.runtime = false → Raises o s c t m ⟨.privilege, 0, 0⟩) ∧
      (m.id.runtime = true → spc.toNat % 4 ≠ 0 → Raises o s c t m ⟨.misaligned, spc, 0⟩) ∧
      (m.id.runtime = true → spc.toNat % 4 = 0 →
        ∃ s1 m1, ScalarGoesOn o s1 c t spc f.w ∧ s1.team c t = some m1 ∧ m1.id = { m.id with runtime := false } ∧ m1.regs = m.regs ∧
          m1.ctl = m.ctl ∧ OnlyTeam (s.core c) (s1.core c) t [] ∧ OnlyCore s s1 c)) ∧
    (m.trap.handler = true → spc.toNat % 4 ≠ 0 → Raises o s c t m ⟨.misaligned, spc, 0⟩) ∧
    (m.trap.handler = true → spc.toNat % 4 = 0 → m.trap.split ≠ none → lpc.toNat % 4 ≠ 0 → Raises o s c t m ⟨.misaligned, lpc, 0⟩) ∧
    (m.trap.handler = true → spc.toNat % 4 = 0 → (m.trap.split = none ∨ lpc.toNat % 4 = 0) →
      (m.blocksDone = false → o = .next (scalarHold s c t .lwait f.w)) ∧
      (m.blocksDone = true → (m.halted || !drained s c t m || !m.saveReleased s c) = true → o = .next (scalarHold s c t .drain f.w)) ∧
      (m.blocksDone = true → m.halted = false → drained s c t m = true → m.saveReleased s c = true → m.trap.regs.cause.getLsbD 14 = false →
        m.tally = [] →
        (∀ r rest, m.trap.outer = r :: rest → ∃ s' m', o = .next s' ∧ s'.team c t = some m' ∧ m'.regs = { m.regs with spc := spc, slongs := 0, klongs := 0 } ∧
          m'.trap.handler = true ∧ m'.trap.regs = r ∧ m'.trap.outer = rest) ∧
        (m.trap.outer = [] → m.trap.pending = [] → m.trap.mchecks = [] → m.trap.preempt = none → m.trap.frame = 0 →
          ∃ s' m', o = .next s' ∧ s'.team c t = some m' ∧ m'.regs.spc = spc ∧ m'.regs.slongs = 0 ∧ m'.regs.klongs = 0 ∧ m'.trap.handler = false ∧
            m'.trap.split = none ∧ m'.ctl.live = m.ctl.live ∧ m'.ctl.preds = m.ctl.preds ∧ m'.id = m.id ∧ m'.trap.regs = m.trap.regs ∧
            (∀ n, n < 8 → m'.regs.pred n = m.regs.pred n ∧ m'.regs.predMark n = m.regs.predMark n) ∧
            (∀ u, (s'.core c).dword u = (s.core c).dword u) ∧
            (∀ i p, m.trap.split = some i → m.ctl.split i = some p → p.mask &&& m.ctl.live ≠ 0 →
              (∀ j q, m.ctl.split j = some q → q.mask &&& m.ctl.live ≠ 0) → m.ctl.spills = [] →
              ∃ q, m'.ctl.split i = some q ∧ q.lpc = lpc ∧ q.mask = p.mask ∧ q.join = p.join))))

/-- R384, R385, R389, R390, R395, R396: taking a trap, and returning. -/
def Obligations.TrapsEnterAndLeaveTheHandler : Prop := TrapsEnterTheHandler ∧ ReturnsLeaveTheHandler

/-- R380: `s.tlbi` waits for the team's stores, then removes exactly the translations that it names from every TLB of the package, and answers OK; the
domain form tells the other packages; it is privileged. -/
def Sys2Proof.Machine.InvalidationsRemoveTranslations : Prop :=
  (∀ (dom : Bool) (f : SC) (i : Instr) (srcs : List Nat) (bad : Prop) (k : TlbiKind) (s : State) (c t : Nat) (m : Team) (s1 : State) (m1 : Team),
    let a := (s1.sreg c m f.a.toNat).val.toNat
    let b := (s1.sreg c m f.b.toNat).val.toNat
    (i = .sTlbiVa dom f ∧ srcs = [f.a.toNat, f.b.toNat] ∧ bad = (2 ^ 54 ≤ a ∨ 2 ^ 16 ≤ b) ∧ k = .va a (b % 2 ^ 16) ∨
      i = .sTlbiAsid dom f ∧ srcs = [f.b.toNat] ∧ bad = (2 ^ 16 ≤ b) ∧ k = .asid (b % 2 ^ 16) ∨
      i = .sTlbiAll dom f ∧ srcs = [] ∧ bad = False ∧ k = .all) →
    ScalarReady s c t m (srcs ++ [f.d.toNat]) srcs [] 0 →
    (m.id.runtime = false → Raises (exec i s) s c t m ⟨.privilege, 0, 0⟩) ∧
    (m.id.runtime = true → Committed true s c t m s1 m1 →
      let scope := if dom then scDomain else scPackage
      let pc := m.regs.spc + 4
      (released s1 c scope = false → exec i s = .next (scalarHold s1 c t .drain f.w)) ∧
      (released s1 c scope = true → ∃ mark,
        (bad → WritesStatus (exec i s) s1 c t pc f.w f.d.toNat 1 mark) ∧
        (¬ bad → (s1.tlbi k).tlbiWaits k = true → exec i s = .next (scalarHold (s1.tlbi k) c t .drain f.w)) ∧
        (¬ bad → (s1.tlbi k).tlbiWaits k = false →
          ∃ s2, WritesStatus (exec i s) s2 c t pc f.w f.d.toNat 0 mark ∧ s2.mem = s1.mem ∧ SameStores s1 s2 ∧
            (∀ q u, s2.team q u = s1.team q u) ∧
            (∀ q, (s2.core q).tlb = (s1.core q).tlb.filter fun e => !k.entry e) ∧
            (∀ d, (s2.die d).tlb = (s1.die d).tlb.filter fun e => !k.entry e) ∧
            s2.out = s1.out ++ (if dom then
              ((slotsOf s1.boot.podLive.toNat).filter (· != s1.boot.podSlot)).map Message.invalidate else []))))) ∧
  (∀ (e : TlbEntry) (v a : Nat), (TlbiKind.entry (.va v a) e = true ↔ e.asid = a ∧ e.base = v / 2 ^ levelShift e.level) ∧
    (TlbiKind.entry (.asid a) e = true ↔ e.asid = a) ∧ TlbiKind.entry .all e = true)

/-- R285 to R287, R380: sealing, unsealing and the invalidation of translations. -/
def Obligations.SealsAndInvalidationsAct : Prop := SealsCoverTheirPages ∧ InvalidationsRemoveTranslations

/-- R356 to R361: the queue words; a push puts a record at a ring's tail and a pop takes the one at its head, each moving its index by one; a full or empty
ring answers, or makes the team wait. -/
def Sys2Proof.Machine.QueueWordsMoveRecords : Prop :=
  QueueWord .sQpush .push 0 ∧ QueueWord .sQpushNw .pushNw 0 ∧ QueueWord .sQpushOpen .open_ 0 ∧ QueueWord .sQpushClose .close 0 ∧
  (∀ kd, QueueWord (.sQpop kd) .pop kd.toNat) ∧ (∀ kd, QueueWord (.sQpoll kd) .poll kd.toNat) ∧
  (∀ (s : State) (c t : Nat) (m : Team) (op : QueueOp) (r : Ring), s.team c t = some m → ringAt s c m (op.handle.toNat % 2 ^ 24) = some r →
    r.bad = false →
    let n := 16 * r.slotQ
    let bytes := fun (p : Place) => ((s.core p.core).read p.off n).1
    let writable := fun (p : Place) (k : Nat) => ∀ u, ¬ deadUnit (s.core p.core) p.off k u
    (r.broken = true → op.kind ∈ [.push, .pushNw, .pop, .poll] →
      ringAttempt s c t m op = .trap ⟨.channelBroken, BitVec.ofNat 64 (op.handle.toNat % 2 ^ 24), 0⟩) ∧
    (r.broken = false → op.kind ∈ [.push, .pushNw] → ∀ src dst,
      recordArea s c m false op.area n = some src → ringSlot s c m r r.tail = some dst →
      (openBit s c m r.place = none → ringAttempt s c t m op = .code 6 s) ∧
      (∀ e, openBit s c m r.place = some e → 2 ^ r.logN ≤ r.count →
        ringAttempt s c t m op = if op.kind = .pushNw then .code 2 s else .wait s) ∧
      (∀ e, openBit s c m r.place = some e → r.count < 2 ^ r.logN → Apart dst n r.place 64 → writable dst n → writable r.place 64 →
        ∃ s', ringAttempt s c t m op = .code 0 s' ∧ HoldsRecord s' dst (bytes src) ∧
          (s'.core r.place.core).readN (r.place.off + 4) 4 = (r.tail + 1) % 2 ^ 32 ∧ (s'.core r.place.core).readN r.place.off 4 = r.head)) ∧
    (r.broken = false → op.kind ∈ [.pop, .poll] → ∀ dst src,
      recordArea s c m true op.area n = some dst → ringSlot s c m r r.head = some src →
      (r.count = 0 → r.seen = true → r.pmask = 0 → ringAttempt s c t m op = .code 5 s) ∧
      (r.count = 0 → (r.seen = false ∨ r.pmask ≠ 0) →
        ringAttempt s c t m op = if op.kind = .poll then .code 3 s else .wait s) ∧
      (r.count ≠ 0 → Apart dst n r.place 64 → writable dst n → writable r.place 64 →
        ∃ s', ringAttempt s c t m op = .code 0 s' ∧ HoldsRecord s' dst (bytes src) ∧
          (s'.core r.place.core).readN r.place.off 4 = (r.head + 1) % 2 ^ 32 ∧
          (s'.core r.place.core).readN (r.place.off + 4) 4 = r.tail)))

/-- R345, R346, R351, R368, R369: `s.wdq` hands a request to the work distributor; `s.lease` sets or refuses a lease; `s.yield` parks the team and yields;
`s.launch` publishes a launch in its queue. -/
def Sys2Proof.Machine.SchedulingWordsAnswer : Prop :=
  (∀ (f : SC) (s : State) (c t : Nat) (m : Team) (s1 : State) (m1 : Team),
    ScalarReady s c t m [f.a.toNat, f.b.toNat, f.d.toNat] [f.a.toNat, f.b.toNat] [] 0 → Committed true s c t m s1 m1 →
    let a := (s1.sreg c m f.a.toNat).val
    let b := (s1.sreg c m f.b.toNat).val
    let mark := (s1.sreg c m f.a.toNat).mark || (s1.sreg c m f.b.toNat).mark
    let answers := fun (s2 : State) (code : Word) => WritesStatus (exec (.sWdq f) s) s2 c t (m.regs.spc + 4) f.w f.d.toNat code mark
    (wdqFields s1 c m1 a b = none → answers s1 1) ∧
    (∀ n ans aw l, wdqFields s1 c m1 a b = some (n, ans, aw) → s1.launch m1.id.launch = some l →
      (4 ≤ m1.wdq → answers s1 8) ∧
      (m1.wdq < 4 → ∃ s2, answers s2 0 ∧ s2.mem = s1.mem ∧ SameStores s1 s2 ∧ s2.team c t = some { m1 with wdq := m1.wdq + 1 } ∧
        s2.launch m1.id.launch = some { l with requests := l.requests ++ [(m1.id.cy * 32 + m1.id.cx, t, n, ans, aw)] }))) ∧
  (∀ (f : SC) (s : State) (c t : Nat) (m : Team), ScalarReady s c t m [f.a.toNat, f.d.toNat] [f.a.toNat] [] 0 →
    let v := (s.sreg c m f.a.toNat).val.toNat
    let g := v % 2 ^ 16
    let auto := (s.sreg c m f.a.toNat).val.getLsbD 16
    let pinned := match m.region with | some r => r.pinned.length | none => 0
    let fieldBad := v / 2 ^ 17 ≠ 0 ∨ g = 0 ∨ 1024 < g
    let answers := fun (s1 : State) (m1 : Team) (code : Nat) =>
      ScalarGoesOn (exec (.sLease f) s) s1 c t (m.regs.spc + 4) f.w ∧ s1.team c t = some m1 ∧ s1.mem = s.mem ∧ m1.regs = m.regs ∧ m1.ctl = m.ctl ∧
        s1.sreg c m f.d.toNat = ⟨BitVec.ofNat 64 (m1.lease.cur * 2 ^ 32 + code), (s.sreg c m f.a.toNat).mark⟩
    (fieldBad → ∃ s1 m1, answers s1 m1 1 ∧ m1.lease.cur = m.lease.cur) ∧
    (¬ fieldBad → 8 * g < pinned → ∃ s1 m1, answers s1 m1 2 ∧ m1.lease.cur = m.lease.cur) ∧
    (¬ fieldBad → pinned ≤ 8 * g → ∃ s1 m1, answers s1 m1 0 ∧ m1.lease.cur = g ∧ m1.lease.decl = g ∧ m1.lease.auto = auto)) ∧
  (∀ (f : SC) (s : State) (c t : Nat) (m : Team) (s1 : State) (m1 : Team), ScalarReady s c t m [] [] [] 0 → Committed true s c t m s1 m1 →
    ∃ s2 m2, ScalarGoesOn (exec (.sYield f) s) s2 c t (m.regs.spc + 4) f.w ∧ s2.team c t = some m2 ∧ m2.sched.parked = true ∧
      m2.sched.yielding = true ∧ m2.regs = m1.regs ∧ m2.ctl = m1.ctl ∧ s2.mem = s1.mem ∧ SameStores s1 s2) ∧
  (∀ (f : SC) (s : State) (c t : Nat) (m : Team) (pa : Nat) (s0 s1 : State) (m1 : Team),
    ScalarReady s c t m [f.a.toNat, f.b.toNat, f.d.toNat] [f.a.toNat, f.b.toNat] [] 0 →
    checkAccess s c m Need.load false (s.sreg c m f.b.toNat).val 64 = (.ok pa, s0) →
    Committed true s0 c t m s1 m1 → settled s1 c = true → descriptorPoison m f.b.toNat (s1.mem.mark pa 64) = none →
    let a := (s.sreg c m f.a.toNat).val.toNat
    let q := a % 2 ^ 17
    let d := s1.queueDesc q
    let r := s1.readHome (dieOf c) pa 64
    let mark := fun (s2 : State) => r.1.2 || (s2.sreg c m f.a.toNat).mark || (s2.sreg c m f.b.toNat).mark
    let answers := fun (s2 : State) (code : Word) =>
      WritesStatus (exec (.sLaunch f) s) s2 c t (m.regs.spc + 4) f.w f.d.toNat code (mark s2)
    let bad := a / 2 ^ 17 ≠ 0 ∨ queueBroken d = true ∨ qKind d ≠ 1 ∨ qAsid d ≠ m.id.asid ∨ queueOverfull d = true ∨ r.1.2 = true
    (bad → answers r.2 1) ∧
    (¬ bad → 2 ^ qLog d ≤ qCount d → answers r.2 2) ∧
    (¬ bad → qCount d < 2 ^ qLog d →
      (∀ s3, r.2.queueEntry q (qTail d) 64 Need.store = (.fault, s3) → answers s3 7) ∧
      (∀ s3, r.2.queueEntry q (qTail d) 64 Need.store = (.wait, s3) → exec (.sLaunch f) s = .next (scalarHold s3 c t .line f.w)) ∧
      (∀ at_ s3, r.2.queueEntry q (qTail d) 64 Need.store = (.ok at_, s3) →
        answers ((s3.engineWrite at_ r.1.1 false).published q (qTail d) (some c)) 0)))

/-- R345, R346, R351, R356 to R361, R368, R369: the words on queues, launches and the lease. -/
def Obligations.QueueAndSchedulingWordsAnswer : Prop := QueueWordsMoveRecords ∧ SchedulingWordsAnswer

/-- R418, R422, R439, R440, R441: `s.region` and `s.ckpt` commit what is open and open a region with its record; `s.commit` lets the stores that a region held
leave in order and ends it; a launch in mode NONE has no regions. -/
def Obligations.RegionsOpenAndCommit : Prop :=
  (∀ (movable : Bool) (f : SC) (s : State) (c t : Nat) (m : Team), ScalarReady s c t m [f.a.toNat, f.b.toNat] [f.a.toNat, f.b.toNat] [] 0 →
    let o := exec (.sRegion movable f) s
    let v := (s.sreg c m f.a.toNat).val.toNat
    let smask := (s.sreg c m f.b.toNat).val
    let first := v / 2 ^ 16 % 2 ^ 8
    let count := v / 2 ^ 24 % 2 ^ 8
    let scope := v / 2 ^ 32 % 2 ^ 3
    let bad := scope = 7 ∨ v / 2 ^ 35 ≠ 0 ∨ (∃ j, j < count ∧ m.laneOk (first + j) = false) ∨
      ∃ i, i < 64 ∧ smask.getLsbD i = true ∧ m.scalarOk i = false
    let snap := (s.core c).mode = modeSnapshot
    (bad → Raises o s c t m ⟨.illegalOperand, 0, 0⟩) ∧
    (¬ bad → (s.core c).mode = modeNone → ScalarCompletes o s c t m f.w { m.regs with spc := m.regs.spc + 4 } []) ∧
    (∀ s1 m1, ¬ bad → (s.core c).mode ≠ modeNone → Committed true s c t m s1 m1 → (s1.core c).mode = (s.core c).mode →
      (m1.blocksDone = false → o = .next (scalarHold s1 c t .lwait f.w)) ∧
      (m1.blocksDone = true → snap → (m1.halted || !drained s1 c t m1) = true → o = .next (scalarHold s1 c t .drain f.w)) ∧
      (m1.blocksDone = true → (snap → m1.halted = false ∧ drained s1 c t m1 = true) →
        ∃ s2 g, ScalarGoesOn o s2 c t (m.regs.spc + 4) f.w ∧ s2.team c t = some { m1 with region := some g } ∧ s2.mem = s1.mem ∧ SameStores s1 s2 ∧
          g.tag = v % 2 ^ 16 ∧ g.scope = scope ∧ g.movable = movable ∧ g.held = [] ∧ g.undo = [] ∧ g.accLog = [] ∧ g.attempt = 0 ∧
          g.opened = s1.ticket ∧ g.record.entry = m1.regs.spc + 4 ∧ g.record.smask = smask ∧ g.record.first = first ∧ g.record.count = count ∧
          (g.record.snap.isSome = true ↔ snap) ∧ g.record.k = m1.regs.k ∧ g.record.fpctl = m1.regs.fpctl ∧ g.record.fpflags = m1.regs.fpflags ∧
          g.record.live = m1.ctl.live ∧ g.record.preds = m1.ctl.preds ∧
          (∀ i, i < 64 → g.record.sregs.getD i ⟨0, false⟩ = s1.sreg c m1 i) ∧
          ∀ j l, j < count → l < m1.id.lanes → g.record.lanes.getD (j * m1.id.lanes + l) ⟨0, false⟩ = s1.vreg c m1 (first + j) l))) ∧
  (∀ (f : SC) (s : State) (c t : Nat) (m : Team) (s1 : State) (m1 : Team), ScalarReady s c t m [] [] [] 0 →
    (Committed true s c t m s1 m1 → ScalarGoesOn (exec (.sCommit f) s) s1 c t (m.regs.spc + 4) f.w) ∧
    (∀ g, m.region = some g → commit s c t m g = .wait → exec (.sCommit f) s = .next (scalarHold s c t .drain f.w))) ∧
  (∀ (s : State) (c t : Nat) (m : Team) (g : Region), s.team c t = some m → m.region = some g → drained s c t m = true → m.halted = false →
    m.mismatch = false → m.home = none → m.ctl.policy = 0 → (∀ h ∈ g.held, s.mem.sealed h.pa = false) →
    ∃ s', commit s c t m g = .done s' c ∧ s'.team c t = some { m with region := none, seq := m.seq + 1 } ∧
      (s'.core c).inflight = (s.core c).inflight ++
        g.held.map (fun h => { pa := h.pa, data := h.data, mark := h.mark, team := t, lane32 := h.lane32, va := h.va }) ∧
      s'.mem = s.mem ∧ SameStores s s') ∧
  (∀ (f : SC) (s : State) (c t : Nat) (m : Team), ScalarReady s c t m [f.d.toNat] [] [] 0 →
    let o := exec (.sCkpt f) s
    ((s.core c).mode = modeNone → WritesStatus o s c t (m.regs.spc + 4) f.w f.d.toNat 5 false) ∧
    (∀ s1 m1, (s.core c).mode ≠ modeNone → Committed true s c t m s1 m1 →
      ((m1.halted || !drained s1 c t m1) = true → o = .next (scalarHold s1 c t .drain f.w)) ∧
      (m1.halted = false → drained s1 c t m1 = true →
        let kib := windowBytes m1.id.lanes m1.id.vregs / 1024 + ceilDiv ((m1.regs.accLimit - m1.regs.accBase) * 256) 1024 + 16
        ∃ s2 m2 g, ScalarGoesOn o s2 c t (m.regs.spc + 4) f.w ∧ s2.team c t = some m2 ∧ s2.mem = s1.mem ∧ SameStores s1 s2 ∧
          m2.pend = m1.pend ++ [⟨s1.ticket, [(f.d.toNat, ⟨BitVec.ofNat 64 (kib * 2 ^ 32), false⟩)], [], [], [], true, false, false⟩] ∧
          m2.region = some g ∧ g.tag = 0 ∧ g.movable = false ∧ g.record.entry = m1.regs.spc + 4 ∧ g.record.snap.isSome = true)))

/-- R429, R442, R443, R444, R445: checks that hold go on and others are replayed or trap; checksums follow their kind; the poison words read, clear and direct
marks. -/
def Obligations.ChecksAndPoisonWords : Prop :=
  (∀ (cond : Cond) (f : SC) (s : State) (c t : Nat) (m : Team), ScalarReady s c t m [f.a.toNat, f.b.toNat] [f.a.toNat, f.b.toNat] [] 0 →
    let o := exec (.sCschk cond f) s
    let holds := conditionTrue cond (s.sreg c m f.a.toNat).val (s.sreg c m f.b.toNat).val
    let r : Raise := ⟨.checkFail, BitVec.ofNat 64 (f.d.toNat % 32), 0⟩
    (holds → ScalarCompletes o s c t m f.w { m.regs with spc := m.regs.spc + 4 } []) ∧
    (¬ holds → checkFails s c t m (f.d.getLsbD 5) ⟨r, none, some m.regs.spc⟩ = none → Raises o s c t m r) ∧
    (∀ s', ¬ holds → checkFails s c t m (f.d.getLsbD 5) ⟨r, none, some m.regs.spc⟩ = some s' → o = .next s')) ∧
  (∀ (f : Lane) (s : State) (c t : Nat) (m : Team) (i : Nat) (p : Split),
    let x := heldCtx s c t m i p f []
    let h := heldState s c t m i p f []
    let bad := x.lanes.filter fun l =>
      !laneCondHolds (f.vd.toNat % 8) (Ity f) (Isg f) (x.src .a l).val.toNat (srcB x l).val.toNat
    let r : Raise := ⟨.checkFail, BitVec.ofNat 64 f.vc.toNat, maskOf bad⟩
    LaneIssues s c t m i p f { LaneUse.binary f false with vd := .bits 4, c := .bits 8 } { eat := if f.x then [.a] else [.a, .b] } →
    (bad = [] → LaneGoesOn (exec (.vChk f) s) h c t i (p.lpc + 12)) ∧
    (bad ≠ [] → checkFails h c t m (f.vd.getLsbD 3) ⟨r, some (i, p.lpc), none⟩ = none → LaneRaises (exec (.vChk f) s) s c t m i p r) ∧
    (∀ s', bad ≠ [] → checkFails h c t m (f.vd.getLsbD 3) ⟨r, some (i, p.lpc), none⟩ = some s' →
      exec (.vChk f) s = .next (s'.settle c t))) ∧
  (∀ (s : State) (c t : Nat) (m : Team) (rp : Bool) (x : Trap), s.team c t = some m →
    ((m.region = none ∨ rp = false ∨ m.replayable (s.core c) = false) → checkFails s c t m rp x = none) ∧
    (∀ g, m.region = some g → rp = true → m.replayable (s.core c) = true → g.lastAttempt = false →
      ∃ s' m' g', checkFails s c t m rp x = some s' ∧ s'.team c t = some m' ∧ m'.region = some g' ∧ g'.recovery = .halt ∧ g'.check = some x ∧
        m'.regs = m.regs)) ∧
  (∀ (f : Lane) (s : State) (c t : Nat) (m : Team) (i : Nat) (p : Split), f.vd.toNat < 240 → LaneReady s c t m i p f [.a] [] true [] →
    let d := fun l => s.vreg c m f.vd.toNat l
    let a := fun l => laneSource s c m p f .a l
    let m61 := 2 ^ 61 - 1
    let q := 2 ^ 32 - 1
    let v := fun l =>
      let x := (d l).val.toNat
      let y := (a l).val.toNat
      match f.ty.toNat with
      | 0 => (d l).val + (a l).val
      | 1 => (d l).val ^^^ (a l).val
      | 2 => BitVec.ofNat 64 ((x + y) % m61)
      | _ =>
        let lo := (x % 2 ^ 32 + y % q) % q
        BitVec.ofNat 64 ((x / 2 ^ 32 + lo) % q * 2 ^ 32 + lo)
    WritesLanes (exec (.vCsacc f) s) s c t m i p f fun l => ⟨v l, (d l).mark || (a l).mark⟩) ∧
  (∀ (f : SC) (s : State) (c t : Nat) (m : Team),
    let d := f.d.toNat
    let va := (s.sreg c m f.a.toNat).val
    let pc := m.regs.spc + 4
    (ScalarReady s c t m [d] [] [] 0 → ∃ v : Word, (∀ i, i < 64 → v.getLsbD i = (s.sreg c m i).mark) ∧
      WritesScalar (exec (.sPoisqRegs f) s) s c t m f.w d ⟨v, false⟩) ∧
    (ScalarReady s c t m [f.a.toNat, d] [] [] 0 →
      WritesScalar (exec (.sPoisqClr f) s) s c t m f.w d ⟨va, false⟩ ∧
      (∀ r s0, checkAccess s c m Need.load false va 1 = (.bad r, s0) → Raises (exec (.sPoisqLine f) s) s c t m r) ∧
      (∀ pa s0, checkAccess s c m Need.load false va 1 = (.ok pa, s0) → (s0.core c).inflight = [] →
        (∀ i, i < 4 → isMgmt (pa / 128 * 128 + 32 * i) = false ∧ s0.lost (pa / 128 * 128 + 32 * i) = false) →
        ∃ s1 v, WritesStatus (exec (.sPoisqLine f) s) s1 c t pc f.w d v false ∧ s1.mem = s0.mem ∧ v.toNat < 16 ∧
          ∀ i, i < 4 → v.getLsbD i = s0.mem.marks.get false (pa / 128 * 4 + i)) ∧
      (scratchPlace s c m m.wide (BitVec.ofNat 64 (va.toNat / 128 * 128)) 128 = none →
        Raises (exec (.sPoisqSp f) s) s c t m ⟨.scratchBounds, va, 0⟩) ∧
      (∀ p, scratchPlace s c m m.wide (BitVec.ofNat 64 (va.toNat / 128 * 128)) 128 = some p →
        ∃ v : Word, v.toNat < 16 ∧ (∀ i, i < 4 → v.getLsbD i = ((s.core p.core).read (p.off + 32 * i) 32).2) ∧
          ScalarGoesOn (exec (.sPoisqSp f) s) ((s.longScalar c t [(d, ⟨v, false⟩)] [] true false).2.peerTouch c t p) c t pc f.w)) ∧
    (ScalarReady s c t m [f.a.toNat, f.b.toNat, d] [] [] 0 →
      let block := substBlock s c m (s.sreg c m f.b.toNat).val
      let bad := 8 ≤ va.toNat ∨ va.getLsbD 2 = true ∧ block = none
      (bad → Raises (exec (.sPoisqPol f) s) s c t m ⟨.illegalOperand, 0, 0⟩) ∧
      (¬ bad → ∃ s1 m1, ScalarGoesOn (exec (.sPoisqPol f) s) s1 c t pc f.w ∧ s1.team c t = some m1 ∧ m1.regs = m.regs ∧
        m1.ctl = { m.ctl with policy := va.setWidth 3, cpois := false, subst := if va.getLsbD 2 then block else m.ctl.subst } ∧
        s1.sreg c m d = ⟨BitVec.ofNat 64 (m.ctl.cpois.toNat * 2 ^ 8 + m.ctl.policy.toNat), false⟩ ∧ s1.mem = s.mem)))

/-- R459, R460: `s.coll` answers BAD_FIELD, NOT_MEMBER or FULL, or takes a slot; `s.cwait` waits for its collective and frees the slot. -/
def Obligations.CollectiveWordsTakeSlots : Prop :=
  (∀ (f : SC) (s : State) (c t : Nat) (m : Team) (pa : Nat) (s0 s1 : State) (m1 : Team),
    ScalarReady s c t m [f.a.toNat, f.d.toNat] [f.a.toNat] [] 0 →
    checkAccess s c m Need.load false (s.sreg c m f.a.toNat).val 64 = (.ok pa, s0) →
    Committed true s0 c t m s1 m1 → released s1 c scDomain = true → descriptorPoison m f.a.toNat (s1.mem.mark pa 64) = none →
    let r := s1.readHome (dieOf c) pa 64
    let d := dwordsOf r.1.1
    let own := r.2.boot.podSlot
    let held := ∃ e ∈ r.2.sched.collectives, ∃ y, e.2 = some y ∧ y.gen = coGen d ∧ y.members = coMembers d ∧ y.asid = m.id.asid
    let bad := r.1.2 = true ∨ collectiveBad d = true ∨ held
    let member := (coMembers d).testBit own
    let reads := if coReads d own then pagesFault r.2 m (dieOf c) Need.load (coSrc d) (coInput d) else (none, r.2)
    let writes := if coWrites d own then pagesFault reads.2 m (dieOf c) Need.range (coDst d) (coOutput d) else (none, reads.2)
    let s2 := writes.2
    let o := exec (.sColl f) s
    let answers := fun (s3 : State) (handle code : Nat) =>
      WritesStatus o s3 c t (m.regs.spc + 4) f.w f.d.toNat
        (BitVec.ofNat 64 (coGen d * 2 ^ 32 + handle * 2 ^ 8 + code)) (r.1.2 || (s1.sreg c m f.a.toNat).mark)
    (bad → answers r.2 0 1) ∧
    (¬ bad → member = false → answers r.2 0 2) ∧
    (¬ bad → member = true →
      (∀ x, reads.1 = some (some x) → Raises o s c t m x) ∧
      (reads.1 = some none → o = .next (scalarHold reads.2 c t .line f.w)) ∧
      (∀ x, reads.1 = none → writes.1 = some (some x) → Raises o s c t m x) ∧
      (reads.1 = none → writes.1 = some none → o = .next (scalarHold s2 c t .line f.w)) ∧
      (reads.1 = none → writes.1 = none →
        ((∀ i, i < 32 → s2.sched.collectives.get none i ≠ none) → answers s2 0 8) ∧
        (∀ h ps s3, h < 32 → s2.sched.collectives.get none h = none → (∀ i, i < h → s2.sched.collectives.get none i ≠ none) →
          let con := contributorsOf s2 d
          let rootLost := (coKind d = 1 ∨ coKind d = 2) ∧ coRoot d ∉ con.1
          let code := if own ∉ con.1 then some 7 else if rootLost then some 9 else none
          (if coWrites d own = true ∧ code = none then s2.pieces none (dieOf c) m1.id.asid m1.id.runtime Need.range (coDst d) (coOutput d)
            else ([], s2)) = (ps, s3) →
          (s3.rangesFull ps = true → o = .next (scalarHold s3 c t .line f.w)) ∧
          (s3.rangesFull ps = false →
            ∃ s4 y, answers s4 h 0 ∧ SameMemory s3 s4 ∧ SameStores s1 s4 ∧ s4.sched.collectives.get none h = some y ∧
              (∀ i, i ≠ h → s4.sched.collectives.get none i = s2.sched.collectives.get none i) ∧
              y.gen = coGen d ∧ y.members = coMembers d ∧ y.desc = d ∧ y.restarts = con.2 ∧ y.code = code ∧ y.team = t ∧
              y.launch = m1.id.launch ∧ ∀ i, i < 64 → y.contributors.testBit i = decide (i ∈ con.1)))))) ∧
  (∀ (s : State) (d : List Word) (i : Nat), i ∈ (contributorsOf s d).1 ↔
    i < 64 ∧ (coMembers d).testBit i = true ∧ s.present i = true ∧ (i, coGen d) ∉ s.sched.excluded) ∧
  (∀ (f : SC) (s : State) (c t : Nat) (m : Team) (s1 : State) (m1 : Team),
    let d := f.d.toNat
    ScalarReady s c t m [f.a.toNat, d, d + 1] [f.a.toNat] [] 0 → d % 2 = 0 → Committed true s c t m s1 m1 →
    let v := s1.sreg c m f.a.toNat
    let o := exec (.sCwait f) s
    let pc := m.regs.spc + 4
    (s1.heldCollective v.val = none →
      ∃ (s2 : State) (w : Word), ScalarGoesOn o (s2.longScalar c t [(d, ⟨w, v.mark⟩), (d + 1, ⟨0, v.mark⟩)] [] true false).2 c t pc f.w ∧
        w.toNat % 2 ^ 32 = 10 ∧ s2.mem = s1.mem ∧ s2.sched = s1.sched) ∧
    (∀ h y, s1.heldCollective v.val = some (h, y) →
      (y.code = none → o = .next (scalarHold s1 c t (.collective d h y.gen v.mark) f.w)) ∧
      (∀ code, y.code = some code →
        let good := code = 0 ∨ code = 6
        ∃ s2, s2.sched.collectives.get none h = none ∧ s2.mem = s1.mem ∧ SameStores s1 s2 ∧
          let e := (s2.longScalar c t [(d, ⟨cwaitStatus y code, v.mark⟩), (d + 1, ⟨if good then BitVec.ofNat 64 y.contributors else 0, v.mark⟩)]
            [] true false).2
          ScalarGoesOn o (if good then e.acquire c scDomain else e) c t pc f.w)))

namespace Sys2Proof.Machine

/-! ### Events of queues, launches, work graphs and migration (chapters 11 and 12) -/

/-- An event goes on to a state of which `P` holds. -/
abbrev Gives (i : Instr) (s : State) (P : State → Prop) : Prop := ∃ s', exec i s = .next s' ∧ P s'

/-- A number of n bytes in memory. -/
def State.memN (s : State) (a n : Nat) : Nat := bytesN ((List.range n).map fun i => s.byteAt (a + i))

/-- No byte of memory differs but n bytes at a. -/
def SameMemoryBut (s s' : State) (a n : Nat) : Prop := ∀ x, (x < a ∨ a + n ≤ x) → s'.byteAt x = s.byteAt x

/-- The tables that an event walks are in canonical form: no key is listed twice. -/
def TablesWf (s : State) : Prop :=
  s.cores.wf Core.init = true ∧ s.sched.queues.wf QueueInt.init = true ∧ s.sched.launches.wf none = true ∧
  ∀ c, (s.core c).teams.wf none = true

/-- Each slot of a die has at most one queue. -/
def SlotsApart (d : Nat) (s : State) : Prop :=
  ∀ a b k, a % 4 = d → b % 4 = d → (s.queue a).slot = some k → (s.queue b).slot = some k → a = b

/-- A rejection is recorded in a queue's descriptor (R337). -/
def RecordsRejection (s s' : State) (q code : Nat) : Prop :=
  s'.memN (s.queuePa q + 0x28) 1 = code ∧ s'.memN (s.queuePa q + 0x29) 3 = (field (s.queueDesc q) 0x28 8 24 + 1) % 2 ^ 24 ∧
  s'.cores = s.cores

/-- HEAD has moved past the head launch; a record queue keeps its records. -/
def HeadMoves (s s' : State) (q : Nat) : Prop :=
  s'.memN (s.queuePa q + 8) 4 = (if qKind (s.queueDesc q) = 1 then (qHead (s.queueDesc q) + 1) % 2 ^ 32 else qHead (s.queueDesc q))

/-- A launch has been placed at an aligned place (R338, R339): each core of its rectangle holds its partition, empty and not yet set up; no other
core differs. -/
def PlacedAt (s s' : State) (o : Offer) (p : Nat × Nat) : Prop :=
  let l := s.sched.nextLaunch
  let at_ := fun r => coreAt (p.1 + r % 32) (p.2 + r / 32)
  (∀ r ∈ relCores o.desc, let k := s'.core (at_ r)
    k.part = some (partitionOf l o.desc o.map s.cycles r) ∧ k.store = [] ∧ k.unitMarks = [] ∧ k.sectorMarks = [] ∧ k.acc = [] ∧
      k.accMarks = [] ∧ k.teams = [] ∧ k.barriers = [] ∧ k.icache = [] ∧ k.lcache = []) ∧
  (∀ c, (∀ r ∈ relCores o.desc, c ≠ at_ r) → s'.core c = s.core c) ∧
  ∃ x, s'.launch l = some x ∧ x.desc = o.desc ∧ x.map = o.map ∧ x.counters = o.counters ∧ x.x0 = p.1 ∧ x.y0 = p.2 ∧
    x.queue = o.queue ∧ x.asid = o.asid ∧ x.live = o.map.length ∧ x.started = false ∧
    x.gen = o.gen.getD (s.sched.launchCount % 2 ^ 32) ∧ x.ctx = s.context o.asid ∧
    (qKind (s.queueDesc o.queue) ≠ 2 → ∀ r ∈ relCores o.desc, handOff o.scope o.producer (at_ r) ≤ x.scope)

/-- The team that a launch starts (R339). -/
def StartsAs (p : Partition) (x : Launch) (t : Nat) (m : Team) : Prop :=
  let d := x.desc
  m.regs = { spc := BitVec.ofNat 64 (ldEntry d), k := 1, kmark := 0, fpctl := 0, fpflags := 0, slongs := 0, klongs := 0, accBase := 0, accLimit := 0,
             pstat := 0, bkpt := [0, 0, 0, 0] } ∧
  m.ctl = Ctl.init (maskBelow (ldLanes d)) ∧ m.trap.regs = ⟨0, 0, 0, 0, 0⟩ ∧ m.trap.handler = false ∧ m.sched.state = .ready ∧
  m.lease.decl = ldLease d ∧ m.lease.auto = ldAuto d ∧ m.region = none ∧ m.seq = 0 ∧ m.pend = [] ∧
  m.id.index = t ∧ m.id.lanes = ldLanes d ∧ m.id.sregs = ldSregs d ∧ m.id.vregs = ldVregs d ∧ m.id.trapres = ldTrapres d ∧
  m.id.launch = p.launch ∧ m.id.gen = x.gen ∧ m.id.asid = x.asid ∧ m.id.cx = p.cx ∧ m.id.cy = p.cy ∧
  m.id.runtime = contextRT x.ctx ∧ m.id.strapvec = x.ctx.getD 1 0 ∧ m.id.saveBase = dw x.ctx 2

/-- Every team of a launch may issue. -/
def LaunchStarts (s s' : State) (l : Nat) (x : Launch) : Prop :=
  s'.launch l = some { x with started := true } ∧
  ∀ c t m p, (s.core c).part = some p → p.launch = l → s.team c t = some m → ∃ m', s'.team c t = some m' ∧ m'.sched.started = true ∧
    m'.regs = m.regs ∧ m'.ctl = m.ctl

/-- The team that is given a save record is to be saved in it (R391). -/
def AskedToSave (s s' : State) (c t k : Nat) : Prop :=
  ∃ m m', s.team c t = some m ∧ s'.team c t = some m' ∧ m'.trap.preempt = some k ∧ m'.ctl = m.ctl ∧ m'.regs.spc = m.regs.spc

end Sys2Proof.Machine

/-- R328 to R333, R337, R338, R404: the queue manager shows a queue's state and effective priority; at each multiple of 10 µs it maps waiting queues to free
slots of their class; it takes the head launch of the best queue, rejects it with its code, or places it. -/
def Obligations.QueuesTakeSlotsAndLaunches : Prop :=
  (∀ (q : Nat) (s : State),
    (2 ^ 17 ≤ q → Nothing (.queueTailSeen q) s) ∧
    (q < 2 ^ 17 → Gives (.queueTailSeen q) s fun s' =>
      let d := s.queueDesc q
      let i := s.queue q
      let e := s'.memN (s.queuePa q + 0x2C) 1
      let w := (s'.queue q).waitSince
      e % 8 = (if queueBroken d then 7 else if qKind d = 0 then 0 else if i.closed then 4 else if queueOverfull d then 7
        else if i.slot.isSome then 3 else if qCount d = 0 then 1 else 2) ∧
      w = (if e % 8 = 2 then some (i.waitSince.getD s.cycles) else none) ∧
      e / 8 = (match w with
        | some t => min (qPrio d + (s.cycles - t) / (100 * 850)) (if qPrio d ≤ 11 then 11 else 23)
        | none => qPrio d) ∧
      SameMemoryBut s s' (s.queuePa q + 0x2C) 1 ∧ s'.cores = s.cores ∧ ∀ p, p ≠ q → s'.queue p = s.queue p)) ∧
  (∀ (d : Nat) (s : State),
    let n := s.cycles / (10 * 850)
    let e := Instr.queueReevaluation d
    ((4 ≤ d ∨ n ≤ s.sched.timers.get 0 (16 * d)) → Nothing e s) ∧
    (d < 4 → s.sched.timers.get 0 (16 * d) < n → TablesWf s → s.sched.preqs = [] →
      Gives e s (fun s' => s'.sched.timers.get 0 (16 * d) = n ∧ (SlotsApart d s → SlotsApart d s')) ∧
      ∀ q, s.queuesOf d = [q] → s.queueState q = 2 →
        Gives e s fun s' => (s'.queue q).slot = some (if qPrio (s.queueDesc q) ≤ 11 then 0 else 16) ∧ (s'.queue q).waitSince = none ∧
          s'.memN (s.queuePa q + 0x2C) 1 = qPrio (s.queueDesc q) * 8 + 3)) ∧
  (∀ (q : Nat) (s : State), s.nextReplica q = none →
    let e := Instr.launchPlacement q
    let d := s.queueDesc q
    let va := if qKind d = 1 then qBase d + 64 * (qHead d % 2 ^ qLog d) else qNode d
    let read := s.queueRead (q % 4) (qAsid d) va 64
    let ahead := s.aheadOf (q % 4) (s.queueRank q)
    ((s.offersLaunch q = false ∨ ahead = true) → Nothing e s) ∧
    (s.offersLaunch q = true → ahead = false →
      ((s.queue q).offer = none →
        (read.1 = .wait → Nothing e s) ∧
        (read.1 = .fault → Gives e s fun s' => RecordsRejection read.2 s' q 8 ∧ HeadMoves read.2 s' q) ∧
        ∀ bs, read.1 = .ok bs →
          let checked := launchCheck read.2 (q % 4) (qAsid d) (dwordsOf bs)
          (checked.1 = .error none → Nothing e s) ∧
          (∀ code, checked.1 = .error (some code) → ldSignal (dwordsOf bs) = 0 →
            Gives e s fun s' => RecordsRejection checked.2 s' q code ∧ HeadMoves checked.2 s' q) ∧
          (∀ map cs, checked.1 = .ok (map, cs) → ldPkgs (dwordsOf bs) = 0 →
            Gives e s fun s' => s'.mem = checked.2.mem ∧ s'.cores = checked.2.cores ∧ ∃ o, (s'.queue q).offer = some o ∧ o.queue = q ∧
              o.desc = dwordsOf bs ∧ o.map = map ∧ o.counters = cs ∧ o.place = none ∧ o.shadow = none ∧ o.pkgCount = 1 ∧ o.gen = none ∧ o.asid = qAsid d ∧
              o.scope = qScope d)) ∧
      (∀ o, (s.queue q).offer = some o →
        (placeMove s o = .stuck → Gives e s fun s' => s'.mem = s.mem ∧ s'.cores = s.cores ∧ s'.queue q = s.queue q) ∧
        (∀ p x, placeMove s o = .fix p x →
          Gives e s fun s' => s'.mem = s.mem ∧ s'.cores = s.cores ∧ (s'.queue q).offer = some { o with place := p, shadow := x }) ∧
        (∀ p, placeMove s o = .put p none → o.queue = q → qStats d = 0 →
          Gives e s fun s' => PlacedAt s s' o p ∧ (s'.queue q).offer = none ∧ HeadMoves s s' q)))) ∧
  (∀ (q : Nat) (s : State) (o : Offer), s.nextReplica q = some o →
    let ahead := s.aheadOf (q % 4) (s.offerRank o)
    ((placeMove s o = .stuck ∨ ahead = true) → s.offersLaunch q = false → Nothing (.launchPlacement q) s) ∧
    (∀ p, placeMove s o = .put p none → ahead = false → qStats (s.queueDesc o.queue) = 0 →
      Gives (.launchPlacement q) s fun s' => PlacedAt s s' o p ∧ s'.sched.replicas = s.sched.replicas.filter (· != o)))

/-- R155, R339, R341, R343, R345: 128 cycles after its placement a core's teams are resident with the state that the manual gives a team's start; replicas are
checked, report, start together and are given up together; the work distributor hands out each item once. -/
def Obligations.LaunchesStartTheirTeams : Prop :=
  (∀ (c : Nat) (s : State),
    let e := Instr.partitionSetupComplete c
    ((s.core c).part = none → Nothing e s) ∧
    ∀ p, (s.core c).part = some p →
      ((p.setup = true ∨ s.cycles < p.setupAt + 128) → Nothing e s) ∧
      ∀ x, p.setup = false → p.setupAt + 128 ≤ s.cycles → s.launch p.launch = some x → (s.core c).teams = [] → s.cores.wf Core.init = true →
        let here := teamsOn x.map (p.cy * 32 + p.cx)
        let last := x.pkgCount = 1 ∧ x.pkgIndex = 0 ∧
          ∀ b y, b ≠ c → (s.core b).part = some y → y.launch = p.launch → y.setup = true
        Gives e s fun s' => (s'.core c).part = some { p with setup := true } ∧ s'.mem = s.mem ∧
          (∀ t ∈ here, ∃ m, s'.team c t = some m ∧ StartsAs p x t m ∧ s'.sreg c m 0 = ⟨ldArgs x.desc, false⟩ ∧
            (last → m.sched.started = true)) ∧
          (∀ t, t ∉ here → s'.team c t = none) ∧
          (∀ u, (∀ t m, s'.team c t = some m → u ≠ m.sUnit 0) → (s'.core c).dword u = (s.core c).dword u) ∧
          (last → ∃ y, s'.launch p.launch = some y ∧ y.started = true)) ∧
  (∀ (r : ReplicaMsg) (s : State),
    let q := r.queue % 2 ^ 17
    let desc := dwordsOf r.desc
    let checked := launchCheck s (q % 4) r.asid desc
    (checked.1 = .error none → Gives (.replicaDescriptorReceived r) s fun s' => s'.mem = s.mem ∧ s'.cores = s.cores ∧
      s'.sched.incoming = s.sched.incoming ++ [r]) ∧
    (∀ code, checked.1 = .error (some code) → ldSignal desc = 0 →
      Gives (.replicaDescriptorReceived r) s fun s' => RecordsRejection checked.2 s' q code) ∧
    (∀ map cs, checked.1 = .ok (map, cs) → Gives (.replicaDescriptorReceived r) s fun s' => s'.mem = checked.2.mem ∧
      s'.sched.replicas = checked.2.sched.replicas ++
        [{ queue := q, prio := r.prio, asid := r.asid, scope := r.scope, desc, gen := some (r.gen % 2 ^ 32), place := none, shadow := none,
           producer := none, map, counters := cs, pkgIndex := r.index, pkgCount := r.count, home := r.home, peers := [r.home], ready := [] }])) ∧
  (∀ (gen index : Nat) (s : State) (l : Nat) (x : Launch), s.findReplica gen true = some (l, x) →
    let ready := insertNat index x.ready
    let e := Instr.replicaReady gen index
    (x.pkgCount ≤ index → Nothing e s) ∧
    (index < x.pkgCount → ready.length < x.pkgCount →
      Gives e s fun s' => s'.launch l = some { x with ready } ∧ s'.cores = s.cores ∧ s'.out = s.out) ∧
    (index < x.pkgCount → x.pkgCount ≤ ready.length → TablesWf s →
      Gives e s fun s' => LaunchStarts s s' l { x with ready } ∧ s'.mem = s.mem ∧
        s'.out = s.out ++ (((List.range x.peers.length).zip x.peers).filter fun y => y.1 != 0).map fun y =>
          Message.launch y.2 2 x.gen y.1)) ∧
  (∀ (gen : Nat) (s : State),
    (s.findReplica gen false = none → Nothing (.replicaStart gen) s) ∧
    (∀ l x, s.findReplica gen false = some (l, x) → TablesWf s →
      Gives (.replicaStart gen) s fun s' => LaunchStarts s s' l x ∧ s'.mem = s.mem) ∧
    Gives (.replicaAbort gen) s fun s' =>
      (∀ o ∈ s'.sched.replicas, o.gen ≠ some gen) ∧
      ∀ l x, (s.findReplica gen true = some (l, x) ∨ s.findReplica gen true = none ∧ s.findReplica gen false = some (l, x)) →
        s'.launch l = none ∧ ∀ c p, (s'.core c).part = some p → p.launch ≠ l) ∧
  (∀ (l index : Nat) (s : State),
    ((∀ x, s.launch l = some x → x.requests[index]? = none) → Nothing (.wdqServe l index) s) ∧
    ∀ x rel t n ans aw, s.launch l = some x → x.requests[index]? = some (rel, t, n, ans, aw) → n < x.counters.length →
      s.sched.preqs = [] →
      let c := x.cores.get 0 rel
      let v := x.counters.getD n (0, 0, 0)
      let item := if v.1 < v.2.1 then v.1 else 0xFFFFFFFF
      let p := s.enginePlace c ans
      let a := s.enginePlace c aw
      (∀ u, ¬ deadUnit (s.core p.core) p.off 8 u) → (∀ u, ¬ deadUnit (s.core a.core) a.off 16 u) →
      Gives (.wdqServe l index) s fun s' =>
        (∃ y, s'.launch l = some y ∧ y.requests = x.requests.take index ++ x.requests.drop (index + 1) ∧
          y.counters.getD n (0, 0, 0) = (if v.1 < v.2.1 then min (v.1 + v.2.2) v.2.1 else v.1, v.2) ∧
          ∀ j, j ≠ n → y.counters.getD j (0, 0, 0) = x.counters.getD j (0, 0, 0)) ∧
        SameMemory s s' ∧ SameBytes s s' (fun q b => q = p.core ∧ p.off ≤ b ∧ b < p.off + 8 ∨ q = a.core ∧ a.off ≤ b ∧ b < a.off + 16) ∧
        (Apart p 8 a 16 → item < 2 ^ 64 → (s'.core p.core).readN p.off 8 = item ∧
          (s'.core a.core).readN (a.off + 8) 4 = ((s.core a.core).readN (a.off + 8) 4 +
            (if (s.core a.core).readN a.off 4 = 0 then 0
             else ((s.core a.core).readN (a.off + 4) 4 + 8) % 2 ^ 32 / (s.core a.core).readN a.off 4)) % 2 ^ 32))

/-- R364, R365, R391, R393, R394: the token of a work graph passes passive cores, and a white round over empty queues closes them; PREQ, PCANCEL and PKILL
answer in PSTAT and ask, withdraw or kill; a saved group resumes its teams in handler state. -/
def Obligations.GraphsEndAndGroupsAreSaved : Prop :=
  (∀ (g : Nat) (s : State),
    let put := fun (y : Graph) (s' : State) => s'.sched.graphs.get none g = some y ∧ s'.mem = s.mem ∧ s'.cores = s.cores
    let known := (s.sched.graphs.get none g).getD ⟨0, true, false, []⟩
    let e := Instr.terminationRound g
    ((known.running = true ∨ g = 0 ∨ ∀ q ∈ s.graphQueues g, (s.queue q).closed = true) → Nothing e s) ∧
    (known.running = false → g ≠ 0 → (∃ q ∈ s.graphQueues g, (s.queue q).closed = false) →
      Gives e s (put { known with at_ := 0, white := true, running := true })) ∧
    let f := Instr.terminationTokenPass g
    (s.sched.graphs.get none g = none → Nothing f s) ∧
    ∀ y, s.sched.graphs.get none g = some y →
      let c := tokenCore y.at_
      let white := y.white && !y.black.contains c
      let qs := s.graphQueues g
      let over_ := white = true ∧ (∀ q ∈ qs, qCount (s.queueDesc q) = 0 ∧ s.inPlacement q = false) ∧ s.beamNames qs = false
      ((y.running = false ∨ s.passive g c = false) → Nothing f s) ∧
      (y.running = true → s.passive g c = true →
        (y.at_ < 511 → Gives f s (put { y with white, black := y.black.filter (· != c), at_ := y.at_ + 1 })) ∧
        (y.at_ = 511 → ¬ over_ → Gives f s (put { y with white := true, black := y.black.filter (· != c), at_ := 0 })) ∧
        (y.at_ = 511 → over_ → Gives f s fun s' => s'.sched.graphs.get none g = none ∧
          ∀ q ∈ qs, (s'.queue q).closed = true ∧ (s'.queue q).slot = none))) ∧
  (∀ (c t : Nat) (v : Word) (s : State),
    let gen := v.toNat / 2 ^ 32
    let queue := v.toNat / 2 ^ 15 % 2 ^ 17
    let rect := groupRect (v.toNat % 2 ^ 15)
    let shows := fun (code : Nat) (s' : State) => ∃ m', s'.team c t = some m' ∧ m'.regs.pstat = BitVec.ofNat 64 (gen * 2 ^ 32 + code)
    (s.runtimeTeam c t = false → Nothing (.preq c t v) s ∧ Nothing (.pcancel c t v) s ∧ Nothing (.pkill c t v) s) ∧
    (s.runtimeTeam c t = true →
      (s.findLaunch gen queue = none → Gives (.preq c t v) s (shows 4) ∧ Gives (.pcancel c t v) s (shows 4) ∧ Nothing (.pkill c t v) s) ∧
      ∀ l x, s.findLaunch gen queue = some (l, x) →
        let cl := ldClusters x.desc
        let named := (rect.groups cl).filter fun g => !(s.groupTeams l g cl).isEmpty
        let new := named.filter fun g => !(s.pendingGroups gen queue).contains g
        let teams := new.flatMap fun g => s.groupTeams l g cl
        let recs := s.freeRecords x teams.length
        let same := fun (code : Nat) (s' : State) => shows code s' ∧ s'.sched = s.sched
        (rect.legal x.desc = false → Gives (.preq c t v) s (same 1)) ∧
        (rect.legal x.desc = true → recs.length < teams.length → Gives (.preq c t v) s (same 2)) ∧
        (rect.legal x.desc = true → teams.length ≤ recs.length → (∃ y ∈ teams, y.2.2.hasHandler = false) →
          Gives (.preq c t v) s (same 5)) ∧
        (rect.legal x.desc = true → teams.length ≤ recs.length → (∀ y ∈ teams, y.2.2.hasHandler = true) →
          (named = [] → Gives (.preq c t v) s (same 0)) ∧
          (named ≠ [] → TablesWf s → Gives (.preq c t v) s fun s' => shows 3 s' ∧ recs.Nodup ∧
            s'.sched.preqs = (s.sched.preqs.filter fun p => !(p.value == v && p.groups.isEmpty)) ++ [⟨c, t, v, named⟩] ∧
            ∀ y ∈ teams.zip recs, AskedToSave s s' y.1.1 y.1.2.1 y.2 ∧ (x.asid, y.2) ∈ s'.sched.records)) ∧
        ((∀ p ∈ s.sched.preqs, p.value ≠ v) → Gives (.pcancel c t v) s (same 4)) ∧
        (∀ p, (s.sched.preqs.filter fun y => y.value == v).getLast? = some p →
          let free := p.groups.filter fun g => s.undelivered l g cl
          let left := p.groups.filter fun g => !s.undelivered l g cl
          Gives (.pcancel c t v) s fun s' => shows (if free ≠ [] then 6 else if left = [] then 0 else 3) s' ∧
            ∀ y ∈ s'.sched.preqs, y.value = v → y.groups = left) ∧
        (s.killWaits l x = true → Gives (.pkill c t v) s fun s' => s'.mem = s.mem ∧ s'.cores = s.cores ∧
          s'.sched.kills = s.sched.kills ++ [v]) ∧
        (s.killWaits l x = false → Gives (.pkill c t v) s fun s' => s'.launch l = none ∧
          (∀ b p, (s'.core b).part = some p → p.launch ≠ l) ∧ (∀ y ∈ s'.sched.saved, y.launch ≠ l) ∧
          (qKind (s.queueDesc x.queue) ≠ 2 →
            s'.memN (s.queuePa x.queue + 8) 4 = (qHead (s.queueDesc x.queue) + 2 ^ 32 - 1) % 2 ^ 32)))) ∧
  (∀ (n place : Nat) (s : State),
    let e := Instr.groupResume n place
    (s.sched.saved[n]? = none → Nothing e s) ∧
    ∀ g x, s.sched.saved[n]? = some g → s.launch g.launch = some x →
      let needed := if g.clusters then coresOfCluster place else [place]
      let free := place < (if g.clusters then 64 else 512) ∧ (∀ c ∈ needed, s.coreFree c = true) ∧
        ∀ k ∈ g.cores, s.resumeWaits (dieOf (resumePlace g place k)) x k = false
      (¬ free → Nothing e s) ∧
      (free → Gives e s fun s' => s'.sched.saved = s.sched.saved.take n ++ s.sched.saved.drop (n + 1) ∧
        ∀ k, g.cores = [k] →
          let c := resumePlace g place k
          (s'.core c).part = some { k.part with launch := g.launch, setup := true, setupAt := s.cycles } ∧ (s'.core c).barriers = k.barriers ∧
          (s'.core c).streams = k.streams ∧
          ∀ y ∈ g.teams, y.id.cx = k.cx → y.id.cy = k.cy → (∀ z ∈ g.teams, z.id.index = y.id.index → z = y) →
            ∃ m, s'.team c y.id.index = some m ∧ m.id = y.id ∧ m.regs.spc = y.id.strapvec ∧ m.trap.handler = true ∧
              m.trap.regs.cause = causeWord .preempt none true false ∧ m.trap.record = some y.record ∧
              m.trap.regs.addr = y.id.recordVa y.record ∧ m.regs.accLimit = m.regs.accBase + y.image.window))

/-- R381, R382, R383: each millisecond every hotness counter of a die is halved; a hot page that may move is copied, with its marks, to a free frame of its
target, and its leaf names the new frame; a page that must stay is left as it is. -/
def Obligations.HotPagesMove : Prop :=
  (∀ (d : Nat) (s : State),
    let n := s.cycles / (1000 * 850)
    (n ≤ s.sched.timers.get 0 (1 + 16 * d) → Nothing (.hotnessDecay d) s) ∧
    (s.sched.timers.get 0 (1 + 16 * d) < n → Gives (.hotnessDecay d) s fun s' => s'.mem = s.mem ∧ s'.cores = s.cores ∧
      (∀ q, q ≠ d → s'.die q = s.die q) ∧ (s'.die d).free = (s.die d).free ∧
      ∀ f, (s'.die d).hot.get none f = ((s.die d).hot.get none f).map fun e => { e with h := e.h / 2, mixed := false, dies := [] })) ∧
  (∀ (d frame occupancy : Nat) (s : State),
    let n := s.cycles / (100 * 850)
    let e := Instr.migrationExamine d frame occupancy
    let due := s.sched.timers.get 0 (2 + 16 * frame) < n
    let q := min occupancy 1023
    let pa := frame * 65536
    let ctl := (s.die d).migctl
    let hth := ctl.toNat % 2 ^ 8
    let fres := ctl.toNat / 2 ^ 8 % 2 ^ 16
    let stays := fun (s' : State) => s'.mem = s.mem ∧ s'.cores = s.cores ∧ s'.dies = s.dies
    (¬ due → Nothing e s) ∧
    (due → (s.die d).hot.get none frame = none → Gives e s stays) ∧
    ∀ h, due → (s.die d).hot.get none frame = some h →
      let leaf := s.mem.dword h.leaf
      let target := if h.mixed then d else h.last
      let keeps := h.h < hth ∨ ctl.getLsbD 31 = true ∨ leaf.testBit 10 = true ∨ h.shared = true ∨ isNear target pa = true ∨
        h.h < hth + q / 32 ∨ (s.die target).free.length ≤ fres
      let busy := s.pageBusy pa = true ∨ leaf / 2 ^ 16 % 2 ^ 36 ≠ frame ∨ leaf.testBit 0 = false ∨ leaf.testBit 1 = false
      (keeps → Gives e s stays) ∧
      (¬ keeps → s.mem.sealed pa = false ∨ target = d →
        (busy → Gives e s stays) ∧
        ∀ new rest, ¬ busy → (s.die target).free = new :: rest → new % 65536 = 0 → new ≠ pa → new < 2 ^ 52 → s.lost h.leaf = false →
          (h.leaf + 8 ≤ pa ∨ pa + 65536 ≤ h.leaf) → (h.leaf + 8 ≤ new ∨ new + 65536 ≤ h.leaf) →
          Gives e s fun s' => (∀ i, i < 65536 → s'.byteAt (new + i) = s.byteAt (pa + i)) ∧
            (∀ i, i < 2048 → s'.mem.marks.get false (new / 32 + i) = s.mem.marks.get false (pa / 32 + i)) ∧
            s'.mem.dword h.leaf = leaf - pa + new ∧
            (∀ a, (a < new ∨ new + 65536 ≤ a) → (a < h.leaf ∨ h.leaf + 8 ≤ a) → s'.byteAt a = s.byteAt a) ∧
            SameStores s s' ∧ (∀ c, ∀ y ∈ (s'.core c).tlb, y.leafPa ≠ h.leaf) ∧ new ∉ (s'.die target).free) ∧
      (¬ keeps → s.mem.sealed pa = true → target ≠ d → ∀ new rest, (s.die target).free = new :: rest →
        leaf / 2 ^ 16 % 2 ^ 36 = frame → (∀ r ∈ (s.die target).replicas, r.page ≠ pa) → new % 65536 = 0 → new ≠ pa →
        Gives e s fun s' => (∀ i, i < 65536 → s'.byteAt (new + i) = s.byteAt (pa + i)) ∧ SameMemoryBut s s' new 65536 ∧
          (s'.die target).free = rest ∧ (s'.die target).replicas = (s.die target).replicas ++ [⟨pa, target, new⟩]))

namespace Sys2Proof.Machine

/-! ### Events of detection and recovery (chapter 14) -/

/-- The first record that an event writes to a die's log (R436, R437): detector, response, and the time and number it is stamped with. -/
def Logs (s s' : State) (d det resp : Nat) : Prop :=
  ∃ r, (s'.die d).ring.get none ((s.die d).seq % 16384) = some r ∧ r.det = det ∧ r.resp = resp ∧ r.seq = (s.die d).seq % 2 ^ 32 ∧
    r.time = BitVec.ofNat 64 s.cycles

/-- The error is about a team. -/
def aboutTeam : ErrSite → Nat → Nat → Prop
  | .scalar q u _, c, t | .scalarPred q u _, c, t | .lanes q u _ _, c, t | .preds q u _ _, c, t | .store q u _, c, t | .control q u, c, t =>
    q = c ∧ u = t
  | _, _, _ => False

/-- The region of a team stops for its recovery (R423: HALT). -/
def Halts (s' : State) (c t : Nat) (m : Team) (g : Region) : Prop :=
  ∃ m' g', s'.team c t = some m' ∧ m'.region = some g' ∧ g'.recovery = .halt ∧ g'.attempt = g.attempt ∧ g'.held = g.held ∧
    m'.regs = m.regs ∧ m'.ctl = m.ctl ∧ m'.id = m.id

/-- The team starts again from its region's record (R423: REPLAY): the stream at ENTRY, the live-ins, predicates and live lanes as recorded, nothing held
back, and the undo log written back. -/
def Replays (s' : State) (c t c' : Nat) (m : Team) (g : Region) : Prop :=
  let r := g.record
  (∃ m' g', s'.team c' t = some m' ∧ m'.region = some g' ∧ g'.recovery = .replay ∧ g'.held = [] ∧ g'.undo = [] ∧ g'.accLog = [] ∧
    m'.regs.spc = r.entry ∧ m'.regs.k = r.k ∧ m'.regs.kmark = r.kmark ∧ m'.regs.fpctl = r.fpctl ∧ m'.regs.fpflags = r.fpflags ∧
    m'.id = m.id ∧ m'.sched.hold = none ∧
    (r.snap = none → m'.ctl.live = r.live ∧ m'.ctl.preds = r.preds ∧ m'.ctl.splits = [] ∧ m'.ctl.joins = [] ∧ m'.ctl.queue = [] ∧
      m'.ctl.running = none)) ∧
  (r.snap = none → r.sregs.length = 64 → ∀ i, i < 64 → r.smask.getLsbD i = true → s'.sreg c' m i = r.sregs.getD i ⟨0, false⟩) ∧
  (c' = c → (∀ j, j < r.count → m.slotOf (r.first + j) < m.id.vregs) →
    (∀ sn, r.snap = some sn → ∀ x ∈ g.undo, x.core = c → x.off / 32 ∉ sn.reserve.map (·.1)) →
    (∀ x ∈ g.undo, x.off % 32 = 0 ∧ x.data.length = 4 ∧ (x.core = c → m.id.regwin + windowBytes m.id.lanes m.id.vregs ≤ x.off)) →
    (g.undo.map fun x => (x.core, x.off)).Nodup →
    ∀ x ∈ g.undo, (∀ j, j < 4 → (s'.core x.core).store.get 0 (x.off / 8 + j) = x.data.getD j 0) ∧
      (s'.core x.core).sectorMarks.get false (x.off / 32) = x.mark)

end Sys2Proof.Machine

/-- R414, R437, R442: a corrected error changes no value and is logged; an uncorrectable one about a team with an open region stops the region for its recovery;
otherwise it marks what it struck, ends the team, or ends the launch, as the detector's row says. -/
def Obligations.ErrorsGetTheirResponse : Prop :=
  ∀ (e : ErrorReport) (s : State),
    let i := Instr.errorDetection e
    (covers e.det e.site = false → Nothing i s) ∧
    (e.corrected = true → correctable e.det = false → Nothing i s) ∧
    (reportStands e = true ↔ e.corrected = false ∨ (e.det = .pathCheck ∧ ∃ pa, e.site = .memory pa)) ∧
    (reportStands e = false → Gives i s fun s' => SameMemory s s' ∧ (e.way = none → s'.mem = s.mem) ∧ SameStores s s' ∧
      ∀ c t, s'.team c t = s.team c t) ∧
    (reportStands e = false → covers e.det e.site = true → ∀ pa, e.site = .memory pa → paSlot pa = s.boot.podSlot →
      Gives i s fun s' => Logs s s' (homeDie (paOff pa)) (detCode e.det) 0) ∧
    (reportStands e = true → covers e.det e.site = true →
      (∀ c t m g, aboutTeam e.site c t → s.team c t = some m → m.replayable (s.core c) = true → m.region = some g →
        Gives i s fun s' => Halts s' c t m g ∧ s'.mem = s.mem ∧ SameStores s s') ∧
      (∀ c t m, s.team c t = some m → m.replayable (s.core c) = false →
        (e.site = .control c t → Gives i s fun s' => s'.team c t = none) ∧
        (∀ reg, e.site = .scalar c t reg → (∀ p ∈ m.pend, ∀ r ∈ p.sregs, r.1 ≠ reg) →
          Gives i s fun s' => s'.sreg c m reg = ⟨(s.sreg c m reg).val, true⟩ ∧ s'.mem = s.mem ∧ Logs s s' (dieOf c) (detCode e.det) 6 ∧
            ∃ m' r, s'.team c t = some m' ∧ m'.trap.mchecks = m.trap.mchecks ++ [(r, m.trap.handler)]) ∧
        (∀ k, e.site = .scalarPred c t k → 0 < k → k < 8 → (∀ p ∈ m.pend, ∀ r ∈ p.ks, r.1 ≠ k) →
          Gives i s fun s' => s'.mem = s.mem ∧ Logs s s' (dieOf c) (detCode e.det) 6 ∧
            ∃ m' r, s'.team c t = some m' ∧ m'.regs.predMark k = true ∧ m'.regs.pred k = m.regs.pred k ∧
              (∀ j, j < 8 → j ≠ k → m'.regs.predMark j = m.regs.predMark j ∧ m'.regs.pred j = m.regs.pred j) ∧
              m'.trap.mchecks = m.trap.mchecks ++ [(r, m.trap.handler)]) ∧
        (∀ j lanes, e.site = .preds c t j lanes → 0 < j → j < 8 → m.id.lanes ≤ 1024 → (∀ p ∈ m.pend, ∀ r ∈ p.preds, r.1 ≠ j) →
          Gives i s fun s' => s'.mem = s.mem ∧ Logs s s' (dieOf c) (detCode e.det) (if e.det = .fp64Residue then 6 else 5) ∧
            ∃ m', s'.team c t = some m' ∧ ∀ l, l < m.id.lanes → m'.ctl.pred j l = m.ctl.pred j l ∧
              m'.ctl.predMark j l = (m.ctl.predMark j l || lanes.getLsbD l)) ∧
        (∀ reg lanes, e.site = .lanes c t reg lanes → (∀ p ∈ m.pend, ∀ r ∈ p.vregs, r.1 ≠ reg) →
          Gives i s fun s' => s'.mem = s.mem ∧ Logs s s' (dieOf c) (detCode e.det) (if e.det = .fp64Residue then 6 else 5) ∧
            (∀ l, l < m.id.lanes → s'.vreg c m reg l = ⟨(s.vreg c m reg l).val, (s.vreg c m reg l).mark || lanes.getLsbD l⟩)) ∧
        (∀ pas, e.site = .store c t pas → Gives i s fun s' => s'.mem = s.mem ∧ Logs s s' (dieOf c) (detCode e.det) 5 ∧
          (s'.core c).inflight = (s.core c).inflight.map fun x =>
            if x.team = t ∧ x.pa ∈ pas then { x with mark := true } else x)) ∧
      (∀ c t m, e.site = .copies c t → s.team c t = some m →
        ((s.core c).mode ≠ modeDual → Nothing i s) ∧
        ((s.core c).mode = modeDual → m.region = none → Gives i s fun s' => s'.team c t = none) ∧
        (∀ g, (s.core c).mode = modeDual → m.region = some g → Gives i s fun s' => s'.team c t = some { m with mismatch := true })) ∧
      (∀ pa, e.site = .memory pa → paSlot pa = s.boot.podSlot → e.way = none →
        let whole := (e.det = .hbmEcc ∨ e.det = .lpddrEcc) ∧ s.mem.cmp.get false (pa / 65536) = true
        Gives i s fun s' => SameMemory s s' ∧ SameStores s s' ∧ Logs s s' (homeDie (paOff pa)) (detCode e.det) 5 ∧
          ∀ u, s'.mem.marks.get false u = true ↔ s.mem.marks.get false u = true ∨ (if whole then u / 4 = pa / 128 else u = pa / 32)) ∧
      (∀ c u, e.site = .acc c u → Gives i s fun s' => s'.mem = s.mem ∧ (s'.core c).acc = (s.core c).acc ∧ Logs s s' (dieOf c) 5 5 ∧
        ∀ n, (s'.core c).accMarks.get false n = ((s.core c).accMarks.get false n || n / 2 == u)) ∧
      (∀ c off p, e.site = .coreStore c off → (s.core c).part = some p → p.spBase ≤ off → off < p.l1Base →
        (s.core c).windowTeam off = none →
        Gives i s fun s' => (s'.core c).store = (s.core c).store ∧ s'.mem = s.mem ∧ Logs s s' (dieOf c) 4 5 ∧
          ∀ u, (s'.core c).sectorMarks.get false u = ((s.core c).sectorMarks.get false u || u == off / 32)) ∧
      (∀ d pa, e.site = .rdc d pa → e.det = .rdcEcc → e.way = none → Gives i s fun s' => s'.mem = s.mem ∧ Logs s s' d 8 1 ∧
        ∀ u, (s'.die d).rdc.get none u = if u / 4 = pa / 128 then none else (s.die d).rdc.get none u) ∧
      (∀ q ticket x, e.site = .copy q ticket → (s.cluster q).copies = [x] → x.ticket = ticket →
        Gives i s fun s' => (s'.cluster q).copies =
          [if e.det = .pathCheck then { x with entry := true } else { x with broken := true }] ∧ s'.mem = s.mem ∧
          Logs s s' (dieOf x.core) (detCode e.det) 5) ∧
      (∀ c n x, e.site = .stream c n → (s.core c).streams.get none n = some x →
        Gives i s fun s' => (s'.core c).streams.get none n =
          some (if e.det = .pathCheck then { x with entry := true } else { x with broken := true }) ∧ s'.mem = s.mem ∧
          Logs s s' (dieOf c) (detCode e.det) 5) ∧
      (∀ l x, e.site = .launch l → s.launch l = some x →
        (s.killWaits l x = false → Gives i s fun s' => s'.launch l = none ∧ ∀ c p, (s'.core c).part = some p → p.launch ≠ l) ∧
        (s.killWaits l x = true → Gives i s fun s' => s'.cores = s.cores ∧ s'.mem = s.mem ∧ s'.sched =
          { s.sched with kills := s.sched.kills ++ [BitVec.ofNat 64 (x.gen * 2 ^ 32 + x.queue * 2 ^ 15)] })))

/-- R421, R423, R424, R431: a halted region with a durable record is restored and runs again, at most twice on a core; a MOVABLE one then moves to a free core
of another cluster, and a snapshot gets one more attempt; a conflict or an attempt too many ends the team. An overflowing region commits and a new one
opens on a snapshot; the third core of DUAL decides which copy was wrong. -/
def Obligations.SpeedwellRestoresRegions : Prop :=
  ∀ (c t : Nat) (s : State),
    let v := Instr.regionRecordValid c t
    let d := Instr.speedwellDiscard c t
    let w := Instr.regionMoveTimeout c t
    let b := Instr.regionBufferOverflow c t
    (s.team c t = none → Nothing v s ∧ Nothing d s ∧ Nothing w s ∧ Nothing b s) ∧
    (∀ m, s.team c t = some m → m.region = none → Nothing d s ∧ Nothing w s ∧ Nothing b s ∧ Gives v s fun s' => s'.team c t = some m) ∧
    ∀ m g, s.team c t = some m → m.region = some g →
      let r := g.record
      (Gives v s fun s' => s'.team c t = some { m with region := some { g with valid := g.valid || !g.noRecord } } ∧ s'.mem = s.mem ∧
        SameStores s s') ∧
      ((g.recovery ≠ .halt ∨ g.valid = false) → Nothing d s) ∧
      (g.recovery = .halt → g.valid = true →
        ((g.conflict = true ∨ g.unreadable = true) → Gives d s fun s' => s'.team c t = none) ∧
        (g.conflict = false → g.unreadable = false →
          (g.attempt < 2 → Gives d s fun s' => Replays s' c t c m g ∧ s'.mem = s.mem ∧
            ∃ m' g', s'.team c t = some m' ∧ m'.region = some g' ∧ g'.attempt = g.attempt + 1 ∧ g'.moves = g.moves) ∧
          (2 ≤ g.attempt → g.movable = true → g.moves < 2 → g.extra = false →
            Gives d s fun s' => s'.mem = s.mem ∧ ∃ m' g', s'.team c t = some m' ∧ m'.region = some g' ∧ g'.recovery = .restore ∧
              g'.moveSince = s.cycles ∧ g'.attempt = g.attempt) ∧
          (2 ≤ g.attempt → g.movable = true → 2 ≤ g.moves → Gives d s fun s' => s'.team c t = none) ∧
          (2 ≤ g.attempt → g.movable = false → (r.snap = none ∨ g.extra = true) → Gives d s fun s' => s'.team c t = none) ∧
          (2 ≤ g.attempt → g.movable = false → r.snap ≠ none → g.extra = false → (s.core c).health.retiring = [] →
            (s.core c).health.waysPending = [] → Gives d s fun s' => Replays s' c t c m g ∧ s'.mem = s.mem ∧
              ∃ m' g', s'.team c t = some m' ∧ m'.region = some g' ∧ g'.extra = true))) ∧
      (∀ target,
        let e := Instr.regionMove c t target
        let may := g.recovery = .restore ∧ target < 512 ∧ clusterOf target ≠ clusterOf c ∧ s.coreFree target = true ∧ storesHome s c t = true
        (¬ may → Nothing e s) ∧
        (∀ p, may → m.home = none → (s.core c).part = some p → g.undo = [] →
          m.id.regwin + windowBytes m.id.lanes m.id.vregs ≤ p.spBase → (∀ j, j < r.count → m.slotOf (r.first + j) < m.id.vregs) →
          Gives e s fun s' =>
          Replays s' c t target m g ∧ s'.mem = s.mem ∧ s'.team c t = none ∧
            (s'.core target).part = some { p with setup := true, setupAt := s.cycles } ∧
            (∀ u, p.spBase ≤ 8 * u → 8 * u < p.spBase + p.spSize → (s'.core target).store.get 0 u = (s.core c).store.get 0 u) ∧
            ∃ m' g', s'.team target t = some m' ∧ m'.home = some c ∧ m'.region = some g' ∧ g'.moves = g.moves + 1 ∧ g'.attempt = 0)) ∧
      (let late := g.moveSince + 1000 * 850 ≤ s.cycles
       ((g.recovery ≠ .restore ∨ ¬ late) → Nothing w s) ∧
       (g.recovery = .restore → late → (g.errors ≠ [] ∨ g.check = none) → Gives w s fun s' => s'.team c t = none) ∧
       (∀ x, g.recovery = .restore → late → g.errors = [] → g.check = some x → ∃ s1 m1, exec w s = .next (raise s1 c t m1 x) ∧
         s1.team c t = some m1 ∧ m1.regs = m.regs ∧ m1.region = some { g with extra := true, recovery := .replay, causes := [], check := none })) ∧
      (let g1 := { g with overflow := false }
       let m1 := { m with region := some g1 }
       let s1 := s.setTeam c t (some m1)
       ((g.overflow = false ∨ g.recovery = .halt ∨ g.recovery = .restore) → Nothing b s) ∧
       (g.overflow = true → g.recovery ≠ .halt → g.recovery ≠ .restore →
         (commit s1 c t m1 g1 = .wait → Nothing b s) ∧
         (∀ s2 q n, commit s1 c t m1 g1 = .done s2 q → s2.team q t = some n → Gives b s fun s' => s'.mem = s2.mem ∧ SameStores s2 s' ∧
           ∃ m' g', s'.team q t = some m' ∧ m'.regs = n.regs ∧ m'.ctl = n.ctl ∧ m'.region = some g' ∧ g'.tag = g.tag ∧ g'.scope = g.scope ∧
             g'.movable = g.movable ∧ g'.attempt = 0 ∧ g'.moves = 0 ∧ g'.held = [] ∧ g'.overflow = false ∧
             g'.record.entry = n.regs.spc ∧ g'.record.snap.isSome = true))) ∧
      (∀ third verdict out,
        let e := Instr.dualArbitration c t third ⟨verdict, out⟩
        let here := third < 512 ∧ s.coreFree third = true
        ((m.mismatch = false ∨ g.valid = false) → Nothing e s) ∧
        (m.mismatch = true → g.valid = true → (g.conflict = true ∨ g.unreadable = true) → Gives e s fun s' => s'.team c t = none) ∧
        (m.mismatch = true → g.valid = true → g.conflict = false → g.unreadable = false →
          ((verdict = .agreesNeither ∨ g.peer = true) → Gives e s fun s' => Halts s' c t m g ∧ s'.mem = s.mem) ∧
          (verdict ≠ .agreesNeither → g.peer = false → ¬ here → Nothing e s) ∧
          (∀ q, verdict = .agreesPrimary → g.peer = false → here → s.shadowCore m = some q →
            Gives e s fun s' => s'.team c t = some { m with mismatch := false } ∧ s'.mem = s.mem ∧
            (s'.core q).health.lost = (s.core q).health.lost + 1 ∧ (s'.core q).health.status ≠ .inService ∧
            ((s.core q).health.status = .quarantined → (s'.core q).health.status = .retired)) ∧
          (verdict = .agreesShadow → g.peer = false → here → Gives e s fun s' => s'.mem = s.mem ∧
            (s'.core c).health.lost = (s.core c).health.lost + 1 ∧ (s'.core c).health.status ≠ .inService ∧
            (∃ m' g', s'.team c t = some m' ∧ m'.mismatch = false ∧ m'.regs = m.regs ∧ m'.ctl = m.ctl ∧ m'.id = m.id ∧
              m'.region = some g' ∧ g'.record = g.record ∧ g'.recovery = g.recovery ∧
              g'.held = out.stores.map fun (x : Nat × Word × List Byte × Bool × Bool) => ⟨x.1, x.2.2.1, x.2.2.2.1, x.2.1, x.2.2.2.2⟩) ∧
            (out.sectors = [] → ∀ (j u : Nat) (x : Word × Bool), m.units[j]? = some u → out.window[j]? = some x →
              (s'.core c).store.get 0 u = x.1 ∧ (s'.core c).unitMarks.get false u = x.2))))

/-- R432, R433, R435: a lane that must retire is remapped onto a spare at the safe point, or its core is quarantined; the pipeline pauses for 64 cycles; each
die logs its wear every hour, with REMAP rounded as the event says (the model's choice, log entry 119). -/
def Obligations.WornPartsRetire : Prop :=
  (∀ (c : Nat) (s : State),
    let e := Instr.laneRetirement c
    let k := s.core c
    let idle := ∀ x ∈ k.residents, x.2.laneIdle = true
    ((k.health.safePoint = false ∨ ¬ idle) → Nothing e s) ∧
    ∀ lane l, k.health.safePoint = true → idle → k.health.retiring = [lane] → k.health.waysPending = [] → k.health.logical lane = some l →
      (k.health.spares < 2 → Gives e s fun s' =>
        let h := (s'.core c).health
        h.remap = (l, 32 + k.health.spares) :: k.health.remap.filter (fun x => x.1 != l) ∧ h.spares = k.health.spares + 1 ∧
          h.pauseUntil = s.cycles + 64 ∧ h.retiring = [] ∧ h.safePoint = false ∧ h.status = k.health.status ∧ Logs s s' (dieOf c) 3 8 ∧
          s'.mem = s.mem ∧ SameStores s s') ∧
      (2 ≤ k.health.spares → k.health.status = .inService → Gives e s fun s' => (s'.core c).health.status = .quarantined ∧
        (s'.core c).health.remap = k.health.remap ∧ Logs s s' (dieOf c) 19 9)) ∧
  (∀ (c : Nat) (s : State),
    let e := Instr.laneRemapPauseEnd c
    let n := (s.core c).health.pauseUntil
    ((n = 0 ∨ s.cycles < n) → Nothing e s) ∧
    (0 < n → n ≤ s.cycles → Gives e s fun s' => s'.core c = { s.core c with health := { (s.core c).health with pauseUntil := 0 } } ∧ OnlyCore s s' c)) ∧
  (∀ (d margin months : Nat) (up : Bool) (s : State),
    let e := Instr.wear d margin months up
    let n := s.cycles / (3600000 * 1000 * 850)
    ((4 ≤ d ∨ n ≤ s.sched.timers.get 0 (3 + 16 * d)) → Nothing e s) ∧
    (d < 4 → s.sched.timers.get 0 (3 + 16 * d) < n → margin < 256 → Gives e s fun s' =>
      ∃ r, (s'.die d).ring.get none ((s.die d).seq % 16384) = some r ∧ r.det = 18 ∧ r.resp = 10 ∧
        r.data = BitVec.ofNat 64 (s.remapUse d up % 256 * 2 ^ 24 + margin * 2 ^ 16 + min months 0xFFFF) ∧ s'.mem = s.mem ∧ s'.cores = s.cores))

namespace Sys2Proof.Machine

/-! ### Events of the ports and the management controller (chapter 13) -/

/-- A package after a reset or a power-down (R408, R410): no team and no register is kept but the fused minimum of the security version (R411) and the
row remap entries in non-volatile store (R434); memory stays as it is until stage 3. -/
def Cleared (s s' : State) (powered tripped : Bool) : Prop :=
  s'.boot = { Boot.reset with powered, tripped, minimum := s.boot.minimum } ∧ s'.power = Power.reset ∧ s'.sched = Sched.reset ∧ s'.cycles = 0 ∧
  (∀ c, s'.core c = Core.init) ∧ (∀ d, s'.die d = { Die.init with rows := (s.die d).rows }) ∧ (∀ q, s'.cluster q = Cluster.init) ∧
  (∀ a, s'.byteAt a = s.byteAt a) ∧ s'.mem.seals = [] ∧ s'.mem.ranges = []

/-- An event message to each port whose management channel is open (R398). -/
def toOpenPorts (s : State) (code : Nat) : List Message :=
  ([0, 1].filter fun p => s.channelOpen p).map fun p => .event p code []

/-- An SPDM request of a port is answered once the connection has come as far as `need` (R413; the order of requests is log entry 19): the connection is
then at `step`. -/
def Spdm (i : Instr) (s : State) (port need step : Nat) (answer : Message → Prop) : Prop :=
  ((s.channelOpen port = false ∨ s.portUp port = false) → Nothing i s) ∧
  (s.channelOpen port = true → s.portUp port = true → s.spdmStep port < need →
    Gives i s fun s' => s'.out = s.out ++ [.spdm port .unexpected []] ∧ s'.spdmStep port = s.spdmStep port ∧ s'.mem = s.mem) ∧
  (s.channelOpen port = true → s.portUp port = true → need ≤ s.spdmStep port →
    Gives i s fun s' => s'.spdmStep port = step ∧ s'.mem = s.mem ∧ s'.cores = s.cores ∧ ∃ x, s'.out = s.out ++ [x] ∧ answer x)

/-- The registers that an event may reach are closed: stage 7 is not complete. -/
def NotReady (l : List Instr) (s : State) : Prop := s.ready = false → ∀ i ∈ l, Nothing i s

end Sys2Proof.Machine

/-- R399, R400, R401: a request whose line is in use, or that comes after one that waits, stays in its port's queue; the mailbox refuses a request with the
code of its fault, and has no other effect; a write merges its masked bytes and clears a sector's
mark only where the mask covers it; a read returns bytes, marks and check codes; in the management range exactly one register acts. -/
def Obligations.MailboxRequestsArePerformed : Prop :=
  ∀ (r : MailReq) (s : State),
    let i := if r.op = 1 then Instr.mailboxRead r else Instr.mailboxWrite r
    let n := if r.two then 64 else 32
    let write := r.op = 0
    let a := r.addr.toNat
    let own := isMgmt a = true ∧ paSlot a = s.boot.podSlot
    let reply := fun (s' : State) (code : Nat) (xs : List (List Byte × Bool × BitVec 16)) =>
      s'.out = s.out ++ [.response r.port r.tag code xs] ∧ s'.cores = s.cores
    let waits := exec i s = .next { s with ports := s.ports.modify r.port fun x => { x with waiting := x.waiting ++ [r] } }
    let refused := fun (code : Nat) => Gives i s fun s' => reply s' code [] ∧ s'.mem = s.mem ∧ s'.boot = s.boot
    let form := r.two = false ∧ a % 8 = 0 ∧ (write → r.slots.length = 1 ∧ ∀ x ∈ r.slots, x.mask = 0xFF)
    let aligned := a % n = 0 ∧ (write → r.slots.length = n / 32)
    (mailArrives s r = false → Nothing (.mailboxWrite r) s ∧ Nothing (.mailboxRead r) s) ∧
    (r.op = 1 → Nothing (.mailboxWrite r) s) ∧ (r.op ≠ 1 → Nothing (.mailboxRead r) s) ∧
    (∀ x r0, mailArrives s r = true → s.ports[r.port]? = some x → x.waiting.head? = some r0 → (∀ q y, q ≠ r.port → s.ports[q]? = some y → y.waiting = []) →
      (({ s with ports := s.ports.modify r.port fun x => { x with waiting := x.waiting.drop 1 ++ [r] } } : State).mailbox r0 = none) → waits) ∧
    (mailArrives s r = true → (∀ x ∈ s.ports, x.waiting = []) →
      ((r.res0 = true ∨ 2 ≤ r.op.toNat ∨ r.phys = true ∧ r.asid ≠ 0) → refused 1) ∧
      (r.res0 = false → r.op.toNat < 2 → (r.phys = true → r.asid = 0) →
        (s.ready = false → refused 5) ∧
        (s.ready = true →
          (r.phys = true → isMgmt a = true → ¬ own → refused 3) ∧
          (r.phys = true → own →
            (¬ form → refused 1) ∧
            (form → write → ∀ x, r.slots = [x] → Gives i s fun s' =>
              let s1 := mgmtWrite s (r.port + 1) (paOff a - mgmtBase) (BitVec.ofNat 64 (bytesN (x.data.take 8)))
              s' = s1.send (.response r.port r.tag 0 [])) ∧
            (form → ¬ write → Gives i s fun s' =>
              let v := mgmtRead s (r.port + 1) (paOff a - mgmtBase)
              let bs := natBytes 8 v.1.toNat ++ List.replicate 24 0
              s' = v.2.send (.response r.port r.tag 0 [(bs, false, BitVec.ofNat 16 (checkCode bs))]))) ∧
          (¬ (r.phys = true ∧ isMgmt a = true) → ¬ aligned → refused 1) ∧
          (r.phys = false → aligned → (mailXlate s r.asid.toNat r.addr).1 = .wait → waits) ∧
          (r.phys = false → aligned → (mailXlate s r.asid.toNat r.addr).1 = .none →
            Gives i s fun s' => s'.mem = s.mem ∧ s'.cores = s.cores ∧ ∃ l, s'.out = l ++ [.response r.port r.tag 2 []]) ∧
          (∀ pa, aligned → (r.phys = true ∧ ¬ own ∧ pa = a ∨ r.phys = false ∧ (mailXlate s r.asid.toNat r.addr).1 = .ok pa) →
            (isMgmt pa = true → paSlot pa = s.boot.podSlot → refused 1) ∧
            (isMgmt pa = true → paSlot pa ≠ s.boot.podSlot → refused 3) ∧
            (isMgmt pa = false → (s.present (paSlot pa) = false ∨ touchesReserved (paOff pa) n = true) → refused 3) ∧
            (isMgmt pa = false → s.present (paSlot pa) = true → touchesReserved (paOff pa) n = false →
              (write → s.mem.sealed pa = true → refused 4) ∧
              (¬ (write ∧ s.mem.sealed pa = true) → s.blocked pa none = true → waits) ∧
              (s.blocked pa none = false → pa % 32 = 0 →
                (write → s.mem.sealed pa = false → Gives i s fun s' => reply s' 0 [] ∧
                  (∀ k x j, r.slots[k]? = some x → j < 32 →
                    s'.byteAt (pa + 32 * k + j) = if x.mask.getLsbD j then x.data.getD j 0 else s.byteAt (pa + 32 * k + j)) ∧
                  SameMemoryBut s s' pa n ∧
                  (∀ k x, r.slots[k]? = some x → s'.mem.marks.get false (pa / 32 + k) =
                    if x.mask = BitVec.allOnes 32 then false else s.mem.marks.get false (pa / 32 + k))) ∧
                (¬ write → Gives i s fun s' => s'.mem = s.mem ∧
                  reply s' 0 ((List.range (n / 32)).map fun k =>
                    let bs := (List.range 32).map fun j => s.byteAt (pa + 32 * k + j)
                    (bs, s.mem.marks.get false (pa / 32 + k), BitVec.ofNat 16 (checkCode bs))))))))))

/-- R402, R403, R405, R407, R409, R450: a read of a free semaphore takes it and a write of 0 by its owner frees it; the table bases change only while no team is
resident; the free lists take and give frames, latest first; STATUS, FREECOUNT, PWRCAP and FABCTL write as their fields say. -/
def Obligations.ManagementRegistersAct : Prop :=
  (∀ (agent : Agent) (n d : Nat) (v : Word) (s : State),
    NotReady [.semRead agent n, .semWrite agent n v, .ctxbaseWrite v, .qtbaseWrite v, .freepush d v, .freepop agent d, .freecountWrite d v,
      .statusWrite v, .resetreq v, .pwrcapWrite v, .fabctlWrite v] s) ∧
  (∀ (agent : Agent) (code n : Nat) (v : Word) (s : State), agentCode s agent = some code →
    let o := s.boot.sems.getD n 0
    let owners := fun (s' : State) (w : Nat) => s'.boot.sems.getD n 0 = w ∧ ∀ j, j < 16 → j ≠ n → s'.boot.sems.getD j 0 = s.boot.sems.getD j 0
    (16 ≤ n → Nothing (.semRead agent n) s ∧ Nothing (.semWrite agent n v) s) ∧
    (n < 16 →
      (Gives (.semRead agent n) s fun s' => owners s' (if o = 0 then code else o) ∧ s'.out = s.out ++ [.value agent (BitVec.ofNat 64 o)] ∧
        s'.mem = s.mem) ∧
      ((v ≠ 0 ∨ o ≠ code) → Nothing (.semWrite agent n v) s) ∧
      (v = 0 → o = code → Gives (.semWrite agent n v) s fun s' => owners s' 0 ∧ s'.mem = s.mem))) ∧
  (∀ (v : Word) (s : State), s.ready = true →
    (s.anyResident = true → Nothing (.ctxbaseWrite v) s ∧ Nothing (.qtbaseWrite v) s) ∧
    (s.anyResident = false →
      (Gives (.ctxbaseWrite v) s fun s' => s' = { s with boot := { s.boot with ctxBase := v.toNat / 2 ^ 22 % 2 ^ 30 * 2 ^ 22 } }) ∧
      (Gives (.qtbaseWrite v) s fun s' => s' = { s with boot := { s.boot with qtBase := v.toNat / 2 ^ 23 % 2 ^ 29 * 2 ^ 23 } })) ∧
    (Gives (.statusWrite v) s fun s' => s' = { s with boot := { s.boot with
      pwrAlert := s.boot.pwrAlert && !v.getLsbD 6, semLost := s.boot.semLost && !v.getLsbD 5 } }) ∧
    (Gives (.pwrcapWrite v) s fun s' => s' = { s with power := { s.power with cap := max 1200 (min 2600 (v.toNat % 2 ^ 16)) } }) ∧
    (Gives (.fabctlWrite v) s fun s' => s' = { s with boot := { s.boot with hbto := max 50 (min 10000 (v.toNat % 2 ^ 16)) } })) ∧
  (∀ (agent : Agent) (d : Nat) (v : Word) (s : State),
    (4 ≤ d → Nothing (.freepush d v) s ∧ Nothing (.freepop agent d) s ∧ Nothing (.freecountWrite d v) s) ∧
    (s.ready = true → d < 4 →
      let f := v.toNat / 2 ^ 16 % 2 ^ 36 * 2 ^ 16
      let k := s.die d
      let bad := paSlot f ≠ s.boot.podSlot ∨ isNear d f = false ∨ isFirmware (paOff f) = true ∨ f ∈ k.free ∨ 65536 ≤ k.free.length
      let only := fun (s' : State) (k' : Die) => s'.die d = k' ∧ (∀ q, q ≠ d → s'.die q = s.die q) ∧ s'.mem = s.mem ∧ s'.cores = s.cores
      (bad → Gives (.freepush d v) s fun s' => only s' { k with freeErr := true }) ∧
      (¬ bad → Gives (.freepush d v) s fun s' => only s' { k with free := f :: k.free }) ∧
      (v.getLsbD 63 = true → Gives (.freecountWrite d v) s fun s' => only s' { k with freeErr := false }) ∧
      (v.getLsbD 63 = false → Nothing (.freecountWrite d v) s) ∧
      ((agentCode s agent).isSome = true →
        (∀ x rest, k.free = x :: rest → Gives (.freepop agent d) s fun s' => only s' { k with free := rest } ∧
          s'.out = s.out ++ [.value agent (BitVec.ofNat 64 x)]) ∧
        (k.free = [] → Gives (.freepop agent d) s fun s' => only s' k ∧ s'.out = s.out ++ [.value agent 0]))))

/-- R398, R402, R408: 0xA5 and the sideband reset the package; power good starts bring-up, whose stages complete in order, fail as the table says, and end in READY; a
lost port gives up its semaphores. -/
def Obligations.ResetAndBringUp : Prop :=
  (∀ (v : Word) (port : Nat) (s : State),
    (v ≠ 0xA5 → Nothing (.resetreq v) s) ∧
    (s.ready = true → v = 0xA5 → Gives (.resetreq v) s fun s' => Cleared s s' true s.boot.tripped ∧ s'.out = s.out) ∧
    ((2 ≤ port ∨ s.boot.powered = false) → Nothing (.sidebandReset port) s) ∧
    (port < 2 → s.boot.powered = true → Gives (.sidebandReset port) s fun s' => Cleared s s' true s.boot.tripped ∧ s'.out = s.out) ∧
    (s.boot.powered = true → Nothing .powerGood s) ∧
    (s.boot.powered = false → Gives .powerGood s fun s' => Cleared s s' true s.boot.tripped ∧ s'.out = s.out)) ∧
  (∀ (r : StageResult) (s : State),
    let i := Instr.bringupStageComplete r
    let n := s.boot.stage
    let goes := s.boot.powered = true ∧ s.boot.stopped = false ∧ n < 8
    (¬ goes → Nothing i s) ∧
    let good := fun (k : Nat) (x : BootImage) => r.images[k]? = some x ∧ x.trusted = true ∧ x.signed = true ∧ s.boot.minimum ≤ x.version
    (goes →
      (n = 1 → (∀ k x, k < 2 → ¬ good k x) → Gives i s fun s' => s' = { s with boot := { s.boot with fwFail := true, stopped := true } }) ∧
      (∀ k x, n = 1 → k < 2 → good k x → (k = 1 → r.images[0]? ≠ none ∧ ∀ y, ¬ good 0 y) → Gives i s fun s' =>
        s' = { s with boot := { s.boot with image := some (k, x), minimum := max s.boot.minimum x.minimum, stage := 2 } }) ∧
      (n ≠ 1 → Gives i s fun s' => s'.boot.stage = n + 1 ∧ s'.boot.stopped = false ∧ s'.boot.powered = true ∧
        (s'.ready = true ↔ n = 7) ∧ s'.cycles = (if n = 0 then 0 else s.cycles) ∧
        (n ≠ 3 → n ≠ 5 → s'.mem = s.mem) ∧
        ((n = 3 ∨ n = 5) → ∀ a, s'.byteAt a = if paSlot a = r.straps.toNat then 0 else s.byteAt a) ∧
        (n = 4 → ∀ c, c < 512 → (s'.core c).health.status =
          if c ∈ r.badCores ∧ (s.core c).health.status = .inService then .quarantined else (s.core c).health.status) ∧
        s'.boot.podSlot = (if n = 5 then r.straps.toNat else s.boot.podSlot) ∧
        (n = 6 → r.duplicate = true → s'.boot.slotDup = true ∧ s'.stations = s.stations ∧ s'.boot.podLive = BitVec.ofNat 64 (2 ^ s.boot.podSlot)) ∧
        (n = 6 → r.duplicate = false → s'.boot.slotDup = s.boot.slotDup ∧ (∀ k, k < 12 → (s'.station k).down = false) ∧
          s'.boot.podLive = (r.peers ||| BitVec.ofNat 64 (2 ^ s.boot.podSlot)))) ∧
      (∀ d st k, n = 2 → r.lanes = [] → r.ways = [] → r.badLanes = [] → r.badWays = [] → r.badRows = [] → r.rows = [(d, st, k)] →
        Gives i s fun s' => (∀ c, s'.core c = s.core c) ∧ s'.die d = { s.die d with rows := [(st, k)].filter fun e => e.2 != 0 } ∧
          ∀ q, q ≠ d → s'.die q = { s.die q with rows := [] }))) ∧
  (∀ (port : Nat) (s : State),
    let i := Instr.portLost port
    let freed := port + 1 ∈ s.boot.sems
    let gone := ∃ p t, s.ports[port]? = some p ∧ p.lost = false ∧ p.downSince = some t ∧ t + 10 * 1000 * 850 ≤ s.cycles
    let told := s.channelOpen (1 - port) = true
    (¬ gone → Nothing i s) ∧
    (gone → Gives i s fun s' => s'.portUp port = false ∧ s'.channelOpen port = false ∧
      (∀ q, q ≠ port → s'.ports[q]? = s.ports[q]?) ∧ (∀ p, s'.ports[port]? = some p → p.waiting = [] ∧ p.spdm = 0) ∧
      s'.boot.sems = s.boot.sems.map (fun o => if o = port + 1 then 0 else o) ∧ (s'.boot.semLost = true ↔ s.boot.semLost = true ∨ freed) ∧
      (port < 2 → ¬ told → s'.out = s.out) ∧
      (port < 2 → told → s'.out = s.out ++ [.event (1 - port) 5 []] ++ (if port + 1 ∈ s.boot.sems then [.event (1 - port) 3 []] else [])) ∧
      s'.mem = s.mem ∧ s'.cores = s.cores))

/-- R409, R410: every 10 µs the stretch rises by 4 while the mean power is above CAP or a sensor is hot, and falls by 1 well below it; 100 ms at the end of its
range raise PWRALERT; a sensor at 105 °C sets THERM, and 1 ms at 120 °C removes power. -/
def Obligations.PowerAndTemperatureAct : Prop :=
  (∀ (watts : Nat) (s : State),
    let i := Instr.powerSample watts
    let n := s.cycles / (10 * 850)
    let p := s.power
    let samples := (watts :: p.samples).take 100
    let sum := samples.foldl (· + ·) 0
    let high := p.cap * samples.length < sum ∨ p.therm = true
    let low := sum < (p.cap - 50) * samples.length
    ((s.boot.powered = false ∨ n ≤ s.sched.timers.get 0 4) → Nothing i s) ∧
    (s.boot.powered = true → s.sched.timers.get 0 4 < n → Gives i s fun s' =>
      s'.power.samples = samples ∧ s'.power.cap = p.cap ∧ s'.power.therm = p.therm ∧
      s'.power.stretch = (if high then min (p.stretch + 4) 96 else if low then p.stretch - 1 else p.stretch) ∧
      s'.power.highSince = (if s'.power.stretch = 96 ∧ p.cap * samples.length < sum then some (p.highSince.getD s.cycles) else none) ∧
      s'.mem = s.mem ∧ s'.cores = s.cores ∧ s'.boot = s.boot)) ∧
  (∀ (s : State),
    let late := ∃ t, s.power.highSince = some t ∧ t + 100 * 1000 * 850 ≤ s.cycles
    (¬ late → Nothing .pwralertRaise s) ∧
    (late → Gives .pwralertRaise s fun s' => s'.boot = { s.boot with pwrAlert := true } ∧
      s'.out = s.out ++ toOpenPorts s 1 ∧ s'.mem = s.mem ∧ s'.cores = s.cores)) ∧
  (∀ (sensor : Nat) (t : BitVec 16) (s : State),
    let i := Instr.temperatureSample sensor t
    ((12 ≤ sensor ∨ s.boot.powered = false) → Nothing i s) ∧
    (sensor < 12 → s.boot.powered = true → Gives i s fun s' =>
      s'.power.temps.get none sensor = some t ∧ (∀ j, j ≠ sensor → s'.power.temps.get none j = s.power.temps.get none j) ∧
      (s'.power.therm = true ↔ ∃ e ∈ s'.power.temps, ∃ x, e.2 = some x ∧ 105 * 16 ≤ x.toInt) ∧
      s'.power.hotSince.get none sensor = (if 120 * 16 ≤ t.toInt then some ((s.power.hotSince.get none sensor).getD s.cycles) else none) ∧
      s'.mem = s.mem ∧ s'.cores = s.cores ∧ s'.boot = s.boot)) ∧
  (∀ (sensor : Nat) (s : State),
    let i := Instr.thermalTrip sensor
    let late := ∃ t, s.power.hotSince.get none sensor = some t ∧ t + 1000 * 850 ≤ s.cycles
    (¬ late → Nothing i s) ∧
    (late → Gives i s fun s' => Cleared s s' false true ∧ s'.out = s.out ++ toOpenPorts s 2))

/-- R398, R412, R413: the management controller answers the seven requests of SPDM 1.3 on each port, GET_VERSION with 1.3, certificates from slot 0 alone, five
measurement blocks; any other request gets ERROR UnsupportedRequest. That a request before its turn gets ERROR is the model's choice, log entry 19. -/
def Obligations.SpdmAnswersRequests : Prop :=
  ∀ (port slot offset length nonce index code : Nat) (signed : Bool) (s : State),
    let exactly := fun (k : SpdmKind) (p : List Byte) (x : Message) => x = .spdm port k p
    let kind := fun (k : SpdmKind) (n : Nat) (x : Message) => ∃ p, x = .spdm port k p ∧ p.length = n
    Spdm (.getVersion port) s port 0 1 (exactly .version [0x13]) ∧
    Spdm (.getCapabilities port) s port 1 2 (exactly .capabilities [0x16, 0, 0, 0]) ∧
    Spdm (.negotiateAlgorithms port) s port 2 3 (exactly .algorithms [0x40, 0, 0, 0, 0x04, 0, 0, 0]) ∧
    (s.spdmStep port ≤ 3 →
      Spdm (.getDigests port) s port 3 3 (kind .digests 64) ∧
      Spdm (.getCertificate port slot offset length) s port 3 3
        (if slot = 0 ∧ offset < chainLength then kind .certificate (min length (chainLength - offset)) else exactly .invalid []) ∧
      Spdm (.challenge port slot nonce) s port 3 3 (if slot = 0 then kind .challengeAuth (32 + 64 + 512) else exactly .invalid []) ∧
      Spdm (.getMeasurements port index nonce signed) s port 3 3 (match s.measurement index with
        | none => exactly .invalid []
        | some (bs, _) => if signed then kind .measurements (bs.length + 32 + 512) else exactly .measurements bs) ∧
      (s.measurement index = none ↔ index = 0 ∨ 6 ≤ index) ∧
      (∀ slot x, s.boot.image = some (slot, x) → s.measurement 2 = some (x.hash ++ [BitVec.ofNat 8 slot], s) ∧
        s.measurement 3 = some (natBytes 8 x.version ++ natBytes 8 s.boot.minimum, s))) ∧
    Spdm (.spdmUnsupportedRequest port code) s port 0 (s.spdmStep port) (exactly .unsupported [])

namespace Sys2Proof.Machine

/-! ### Events of the pod fabric (chapter 15) -/

/-- A running collective ends with a code: its slot keeps the outcome for `s.cwait`, or is freed if its issuer has ended (R457, R460, R461). -/
def Ends (s' : State) (h : Nat) (y : Collective) (code : Nat) (poisoned : Bool) : Prop :=
  s'.sched.collectives.get none h = (if y.orphan then none else some { y with code := some code, poisoned }) ∧
  ∀ r ∈ s'.mem.ranges, r.ticket ≠ y.order

/-- What has become of a running collective when a slot has left its contributors (R457). -/
def Excluded (s s' : State) (h : Nat) (y : Collective) (slot : Nat) : Prop :=
  if slot = s.boot.podSlot then Ends s' h y 7 false
  else
    let y' := { y with contributors := y.contributors - 2 ^ slot, restarts := y.restarts + 1 }
    if (coKind y.desc = 1 ∨ coKind y.desc = 2) ∧ coRoot y.desc = slot then Ends s' h y' 9 false
    else s'.sched.collectives.get none h = some y'

/-- The inputs of an attempt: one of each other member of C, of the size that the descriptor gives. -/
def InputsFit (s : State) (y : Collective) (inputs : List MemberInput) : Prop :=
  let others := (slotsOf y.contributors).filter (· != s.boot.podSlot)
  sortNats (inputs.map (·.slot)) = others ∧ inputs.length = others.length ∧
  ∀ x ∈ inputs, x.fault = true ∨ x.agrees = false ∨ x.data.length = if coReads y.desc x.slot then coInput y.desc else 0

/-- The contributions in ascending slot, this member's among them. -/
def contributions (mine : Part) (inputs : List MemberInput) : List Part :=
  sortBy (fun (a b : Part) => decide (a.slot < b.slot)) (mine :: inputs.map fun x => ⟨x.slot, x.data, x.marks⟩)

end Sys2Proof.Machine

/-- R447, R448, R451: a station delivers the flit it expects, drops any other and asks for a replay; three failed retrains within 1 ms take it down; a request of a
present peer to memory of this package is performed at its home and answered, and one of a lost package is discarded. -/
def Sys2Proof.Machine.LinksDeliverRequests : Prop :=
  (∀ (n number : Nat) (crcOk : Bool) (request : Option LinkReq) (s : State),
    let i := Instr.flitReceive n number crcOk ⟨request, none⟩
    let x := s.station n
    let next := s.modStation n fun y => { y with expected := y.expected + 1 }
    let good := crcOk = true ∧ number = x.expected ∧ ∀ r, request = some r → LinkReq.whole r = true
    ((12 ≤ n ∨ x.down = true) → Nothing i s) ∧
    (n < 12 → x.down = false →
      (good → request = none → exec i s = .next next) ∧
      (∀ r, good → request = some r → (s.blocked (LinkReq.at_ r) none = true → Nothing i s) ∧
        (s.blocked (LinkReq.at_ r) none = false → exec i s = exec (.ualinkRequestArrival r) next)) ∧
      (¬ good → Gives i s fun s' => s'.station n = x ∧ s'.mem = s.mem ∧ s'.cores = s.cores ∧
        (crcOk = true → s'.out = s.out ++ [.replay n x.expected]) ∧
        (crcOk = false → Logs s s' 0 11 0 ∧ ∃ l, s'.out = s.out ++ l ++ [.replay n x.expected])) ∧
      (∀ k, exec (.flitReceive n number false ⟨request, some k⟩) s = exec (.flitReceive n number false ⟨request, none⟩) s ∧
        exec (.flitReceive n number true ⟨request, some k⟩) s = exec (.flitReceive n number true ⟨request, none⟩) (s.replayFrom n k)))) ∧
  (∀ (n k : Nat) (s : State),
    let x := s.station n
    let s' := s.replayFrom n k
    s'.out = s.out ++ (x.buffer.filter fun e => decide (k ≤ e.1)).map (·.2) ∧ s'.mem = s.mem ∧ s'.cores = s.cores ∧
      s'.station n = { x with replayed := (k, if x.replayed.1 = k then x.replayed.2 + 1 else 1) } ∧
      ∀ q, q ≠ n → s'.station q = s.station q) ∧
  (∀ (n : Nat) (m : Message) (s : State),
    let x := s.station n
    let s' := s.sendOn n m
    s'.out = s.out ++ [m] ∧ (s'.station n).sent = x.sent + 1 ∧ (s'.station n).buffer.getLast? = some (x.sent, m) ∧
      (x.buffer.length ≤ 512 → (s'.station n).buffer.length ≤ 512) ∧ (x.buffer.length < 512 → (s'.station n).buffer = x.buffer ++ [(x.sent, m)])) ∧
  (∀ (n : Nat) (ok : Bool) (s : State),
    let x := s.station n
    let times := x.retrains.filter fun t => decide (s.cycles ≤ t + 1000 * 850)
    let up := n < 12 ∧ x.down = false
    (¬ up → Nothing (.linkRetrain n ok) s ∧ Nothing (.stationDown n) s) ∧
    (x.replayed.2 < 16 → Nothing (.linkRetrain n ok) s) ∧
    (up → (16 ≤ x.replayed.2 → Gives (.linkRetrain n ok) s (fun s' => s'.station n =
          (if ok then { x with retrains := [], replayed := (0, 0) } else { x with retrains := times ++ [s.cycles] }) ∧
        s'.mem = s.mem ∧ ∀ k, k ≠ n → s'.station k = s.station k)) ∧
      (times.length < 3 → Nothing (.stationDown n) s) ∧
      (3 ≤ times.length → Gives (.stationDown n) s fun s' => s'.station n = { x with down := true, retrains := [], buffer := [], replayed := (0, 0) } ∧
        (∀ k, k ≠ n → (s'.station k).down = (s.station k).down ∧ (s'.station k).expected = (s.station k).expected ∧
          (x.queued = [] → s'.station k = s.station k)) ∧
        (∃ l, s'.out = s.out ++ l ++ x.queued) ∧ s'.mem = s.mem ∧
        (∃ r, (s'.die 0).ring.get none ((s.die 0).seq % 16384) = some r ∧ r.det = 11) ∧
        ((∃ k, k < 12 ∧ k ≠ n ∧ (s.station k).down = false) → s'.boot = s.boot) ∧
        ((∀ k, k < 12 → k ≠ n → (s.station k).down = true) →
          ∀ p ∈ s.peers, s'.boot.linkDown.get none p = some s.cycles)))) ∧
  (∀ (r : LinkReq) (src pa : Nat) (s : State),
    let i := Instr.ualinkRequestArrival r
    let answers := fun (s' : State) (xs : List (List Byte × Bool × BitVec 16)) => s'.out = s.out ++ [.answer src xs] ∧ SameStores s s'
    let sector := fun (bs : List Byte) (mark : Bool) => (bs, mark, BitVec.ofNat 16 (checkCode bs))
    let reaches := fun (n : Nat) => linkReaches s src pa n = true ∧ s.blocked pa none = false
    (∀ k, r = .read src pa k →
      let ok := reaches (32 * k) ∧ pa % 32 = 0 ∧ 0 < k ∧ pa % 128 + 32 * k ≤ 128
      (¬ ok → Nothing i s) ∧
      (ok → Gives i s fun s' => s'.mem = s.mem ∧ answers s' ((List.range k).map fun j =>
        sector ((List.range 32).map fun b => s.byteAt (pa + 32 * j + b)) (s.mem.marks.get false (pa / 32 + j))))) ∧
    (∀ slots, r = .write src pa slots →
      let k := slots.length
      let ok := reaches (32 * k) ∧ pa % 32 = 0 ∧ 0 < k ∧ pa % 128 + 32 * k ≤ 128 ∧ s.mem.sealed pa = false ∧ LinkReq.whole r = true
      (¬ ok → Nothing i s) ∧
      (ok → Gives i s fun s' => answers s' [] ∧ SameMemoryBut s s' pa (32 * k) ∧ ∀ j x, slots[j]? = some x →
        (∀ b, b < 32 → s'.byteAt (pa + 32 * j + b) = if x.1.mask.getLsbD b then x.1.data.getD b 0 else s.byteAt (pa + 32 * j + b)) ∧
        s'.mem.marks.get false (pa / 32 + j) =
          (x.2 || (s.mem.marks.get false (pa / 32 + j) && x.1.mask != BitVec.allOnes 32)))) ∧
    (∀ code n v mark, r = .atomic src pa code n v mark →
      let ok := reaches n ∧ (n = 4 ∨ n = 8) ∧ pa % n = 0 ∧ s.mem.sealed pa = false
      let old := s.memN pa n
      (¬ ok → Nothing i s) ∧
      (ok → Gives i s fun s' => answers s' [sector ((List.range n).map fun b => s.byteAt (pa + b)) (s.mem.marks.get false (pa / 32))] ∧
        s'.memN pa n = (if code = 10 then combHalves old v.toNat else comb code n old v.toNat) % 2 ^ (8 * n) ∧
        SameMemoryBut s s' pa n)) ∧
    (∀ n e v mark, r = .cas src pa n e v mark →
      let ok := reaches n ∧ (n = 4 ∨ n = 8 ∨ n = 16) ∧ pa % n = 0 ∧ s.mem.sealed pa = false
      let old := s.memN pa n
      (¬ ok → Nothing i s) ∧
      (ok → Gives i s fun s' => answers s' [sector ((List.range n).map fun b => s.byteAt (pa + b)) (s.mem.marks.get false (pa / 32))] ∧
        s'.memN pa n = (if old = e.toNat % 2 ^ (8 * n) then v.toNat % 2 ^ (8 * n) else old) ∧ SameMemoryBut s s' pa n)))

/-- R343, R408, R450: heartbeats go to every present peer on every live station each HBTO / 8; a silent slot is declared lost, leaves PODLIVE and every running
collective, and its unstarted launches are given up; a package that passes stage 6 is present again. -/
def Sys2Proof.Machine.LostPackagesAreDeclared : Prop :=
  (∀ (s : State),
    let last := s.sched.timers.get 0 5
    let due := 7 ≤ s.boot.stage ∧ s.boot.hbto * 850 ≤ 8 * (s.cycles - last)
    (¬ due → Nothing .heartbeatSend s) ∧
    (due → Gives .heartbeatSend s fun s' => s'.sched.timers.get 0 5 = s.cycles ∧ s'.mem = s.mem ∧ s'.cores = s.cores ∧
      s'.out = s.out ++ s.liveStations.flatMap fun n => s.peers.map fun p => Message.heartbeat n p)) ∧
  (∀ (slot : Nat) (s : State),
    let up := slot ≠ s.boot.podSlot ∧ s.boot.podLive.getLsbD slot = true
    let silent := (∃ t, s.boot.linkDown.get none slot = some t ∧ t + 1000 * 850 ≤ s.cycles) ∨
      s.boot.heard.get 0 slot + s.boot.hbto * 850 ≤ s.cycles
    let r := Instr.heartbeatReceive slot
    let d := Instr.packageLostDeclaration slot
    let j := Instr.podMembershipExchange slot
    (¬ up → Nothing r s) ∧
    (up → Gives r s fun s' => s'.boot.heard.get 0 slot = s.cycles ∧ s'.boot.linkDown.get none slot = none ∧ s'.boot.podLive = s.boot.podLive ∧
      s'.mem = s.mem ∧ s'.cores = s.cores) ∧
    (¬ (up ∧ silent) → Nothing d s) ∧
    (up → silent → slot < 64 → Gives d s fun s' => s'.present slot = false ∧
      (∀ p, p ≠ slot → s'.boot.podLive.getLsbD p = s.boot.podLive.getLsbD p) ∧
      (∀ p, p < 2 → s.channelOpen p = true → ∃ x : LogRecord, Message.event p 4 x.bytes ∈ s'.out ∧ x.det = 11 ∧ x.resp = 10) ∧
      (∀ o ∈ s'.sched.replicas, o.gen ≠ none → slot ∉ o.peers) ∧
      ∀ h y, h < 32 → s'.sched.collectives.get none h = some y → y.code = none → y.contributors.testBit slot = false) ∧
    ((s.boot.stage < 7 ∨ 64 ≤ slot ∨ s.boot.slotDup = true) → Nothing j s) ∧
    (7 ≤ s.boot.stage → slot < 64 → s.boot.slotDup = false →
      (slot = s.boot.podSlot → Gives j s fun s' => s' = { s with boot := { s.boot with slotDup := true } }) ∧
      (slot ≠ s.boot.podSlot → Gives j s fun s' => s'.present slot = true ∧ s'.boot.heard.get 0 slot = s.cycles ∧
        s'.boot.linkDown.get none slot = none ∧ (∀ p, p ≠ slot → s'.boot.podLive.getLsbD p = s.boot.podLive.getLsbD p) ∧
        s'.mem = s.mem ∧ s'.cores = s.cores)))

/-- R343, R408, R447, R448, R450, R451: the fabric's events. -/
def Obligations.LinksDeliverAndLostPackagesAreDeclared : Prop := LinksDeliverRequests ∧ LostPackagesAreDeclared

/-- R452, R454, R455, R457: an EXCLUDE notice takes a slot from every running collective of its GEN, once; an attempt ends a collective with the code that the
contributors' inputs give, and writes DST only then; the folds of TREE and RING combine the contributors in the order stated. -/
def Obligations.CollectivesFoldTheirContributors : Prop :=
  (∀ (slot gen : Nat) (s : State), s.holdsGen gen = false → Gives (.exclude slot gen) s fun s' =>
    s' = { s with sched := { s.sched with excluded :=
      if (slot, gen) ∈ s.sched.excluded then s.sched.excluded else s.sched.excluded ++ [(slot, gen)] } }) ∧
  (∀ (slot gen h : Nat) (s : State), h < 32 → Gives (.exclude slot gen) s fun s' =>
    match s.sched.collectives.get none h with
    | none => s'.sched.collectives.get none h = none
    | some y =>
      (y.gen = gen → y.code = none → y.contributors.testBit slot = true → Excluded s s' h y slot) ∧
      ((y.gen ≠ gen ∨ y.code ≠ none ∨ y.contributors.testBit slot = false) → s'.sched.collectives.get none h = some y)) ∧
  (∀ (h : Nat) (inputs : List MemberInput) (s : State),
    let i := Instr.collectiveAttempt h inputs
    (s.sched.collectives.get none h = none → Nothing i s) ∧
    ∀ y, s.sched.collectives.get none h = some y →
      let d := y.desc
      let own := s.boot.podSlot
      let agreed := ∀ x ∈ inputs, x.agrees = true
      ((y.code ≠ none ∨ s.performed y = false ∨ ¬ InputsFit s y inputs) → Nothing i s) ∧
      (y.code = none → s.performed y = true → InputsFit s y inputs →
        (¬ agreed → Gives i s fun s' => Ends s' h y 4 false ∧ SameMemory s s') ∧
        (∀ s1, agreed → s.ownPart y = (none, s1) → Nothing i s) ∧
        (∀ s1, agreed → s.ownPart y = (some none, s1) → Gives i s fun s' => Ends s' h y 5 false) ∧
        (∀ mine s1, agreed → s.ownPart y = (some (some mine), s1) →
          ((∃ x ∈ inputs, x.fault = true) → Gives i s fun s' => Ends s' h y 5 false) ∧
          ((∀ x ∈ inputs, x.fault = false) →
            let parts := contributions mine inputs
            let poisoned := parts.any fun p => coReads d p.slot && !p.marks.isEmpty
            let code := if y.contributors = coMembers d then 0 else 6
            (coWrites d own = false → Gives i s fun s' => Ends s' h y code poisoned ∧ SameMemory s1 s') ∧
            (coWrites d own = true → writeOut y (coOutput d) (coDst d) (coOutBytes d parts) s1 = none → Nothing i s) ∧
            (∀ s2, coWrites d own = true → writeOut y (coOutput d) (coDst d) (coOutBytes d parts) s1 = some (false, s2) →
              Gives i s fun s' => Ends s' h y 5 false ∧ SameMemory s2 s') ∧
            (∀ s2, coWrites d own = true → writeOut y (coOutput d) (coDst d) (coOutBytes d parts) s1 = some (true, s2) →
              Gives i s fun s' => Ends s' h y code poisoned ∧ SameMemory s2 s'))))) ∧
  (∀ (y : Collective) (va pa n : Nat) (bytes : List (Byte × Bool)) (s s1 : State), 0 < n → bytes ≠ [] → bytes.length ≤ 32 →
    s.engineTarget 0 y.asid y.runtime (some y.order) va = (.ok pa, s1) → s1.lost pa = false →
    ∃ s2, writeOut y n va (bytes.map some) s = some (true, s2) ∧
      (∀ j x, bytes[j]? = some x → s2.byteAt (pa + j) = x.1) ∧ SameMemoryBut s1 s2 pa bytes.length ∧
      s2.mem.marks.get false (pa / 32) =
        markAfter 32 pa bytes.length (pa / 32) (bytes.any fun x => x.2) (s1.mem.marks.get false (pa / 32))) ∧
  (∀ (f : Nat → Nat → Nat) (a b : Nat) (xs : List Nat) (r : Nat),
    foldTree f 64 [a] = a ∧ (2 ≤ xs.length → xs.length ≤ 64 →
      foldTree f 64 xs = f (foldTree f 64 (xs.take ((xs.length + 1) / 2))) (foldTree f 64 (xs.drop ((xs.length + 1) / 2)))) ∧
    foldRing f 0 (a :: xs) = xs.foldl f a ∧ (r ≤ xs.length → foldRing f r (xs ++ [b]) = foldRing f 0 ((xs ++ [b]).rotateLeft r))) ∧
  (∀ (a b w : Nat) (signed : Bool), w = 32 ∨ w = 64 → a < 2 ^ w → b < 2 ^ w →
    let ty := (if w = 64 then 2 else 4) + (if signed then 0 else 1)
    let v := fun (x : Nat) => if signed then (BitVec.ofNat w x).toInt else (x : Int)
    combine 0 ty a b = (a + b) % 2 ^ w ∧ combine 3 ty a b = a &&& b ∧ combine 4 ty a b = a ||| b ∧ combine 5 ty a b = a ^^^ b ∧
    combine 1 ty a b = (if v b < v a then b else a) ∧ combine 2 ty a b = (if v a < v b then b else a))
namespace Sys2Proof.Machine

/-! ### The machine as a whole -/

/-- The scalar words with two sources and a guard (R94). -/
def twoSourceWords : List (SA → Instr) :=
  [.sAdd, .sSub, .sAnd, .sOr, .sXor, .sAndn, .sShl, .sShr, .sSra, .sRot, .sMin, .sMinN, .sMax, .sMaxN, .sMul, .sMulh, .sMulhN]

/-- The lane words that compute on two registers lane by lane (R107). -/
def twoSourceLaneWords : List (Lane → Instr) := [.vAdd, .vSub, .vAnd, .vOr, .vXor, .vMin, .vMax]

/-- A latch entry that a word may read: it holds a value of age 1 or 2 for that word (R307). -/
def latchReadable (p : Split) (n : Nat) : Prop := ∃ e, p.latches.getD n none = some e ∧ e.age + 1 ≤ 2

/-- R41, R43, R426, R428: a scalar word whose guard may be k1 to k7 is checked before it acts, whatever its guard reads: a register that the team
may not name, then one that awaits a long result, then a guard that does, then a marked source where the policy traps consumption; if it passes and its guard
reads false, only its place changes. -/
def ScalarWordsAreChecked : Prop :=
  ∀ i ∈ twoSourceWords, ∀ (f : SA) (s : State) (c t : Nat) (m : Team) (x : Option Nat), s.focus = some ⟨c, t, x⟩ → s.team c t = some m →
    let named := [f.a.toNat, f.b.toNat, f.d.toNat]
    let idle := ∀ j ∈ named, m.regs.slongs.getLsbD j = false
    let may := ∀ j ∈ named, m.scalarOk j = true
    (¬ may → Raises (exec (i f) s) s c t m ⟨.illegalOperand, 0, 0⟩) ∧
    (may → ¬ idle → ∃ j ∈ named, m.regs.slongs.getLsbD j = true ∧ Raises (exec (i f) s) s c t m ⟨.hazard, BitVec.ofNat 64 j, 0⟩) ∧
    (may → idle → m.regs.klongs.getLsbD f.g.toNat = true → ∃ a, Raises (exec (i f) s) s c t m ⟨.hazard, a, 0⟩) ∧
    (may → idle → m.regs.klongs.getLsbD f.g.toNat = false → m.ctl.policy.getLsbD 0 = true → m.regs.predMark f.g.toNat = false → m.regs.pred f.g.toNat = true →
      ∀ j, [f.a.toNat, f.b.toNat].find? (fun n => (s.sreg c m n).mark) = some j →
        Raises (exec (i f) s) s c t m ⟨.poisonConsumed, BitVec.ofNat 64 j, 0⟩) ∧
    (may → idle → m.regs.klongs.getLsbD f.g.toNat = false → m.ctl.policy.getLsbD 0 = true → m.regs.predMark f.g.toNat = true →
      ∃ a, Raises (exec (i f) s) s c t m ⟨.poisonConsumed, a, 0⟩) ∧
    (may → idle → m.regs.klongs.getLsbD f.g.toNat = false → m.regs.predMark f.g.toNat = false → m.regs.pred f.g.toNat = false →
      ScalarCompletes (exec (i f) s) s c t m f.w { m.regs with spc := m.regs.spc + 4 } [])

/-- R36, R37: the registers that a team may name: with the trap reserve those below S (or below N − 8), and s56 to s63 (v232 to v239) in handler
state or runtime mode only; without it, those below S (N). -/
def TeamsNameTheirRegisters : Prop :=
  ∀ (m : Team) (j : Nat),
    let special := m.trap.handler = true ∨ m.id.runtime = true
    (m.scalarOk j = true ↔ j < m.id.sregs ∨ (m.id.trapres = true ∧ 56 ≤ j ∧ j < 64 ∧ special)) ∧
    (m.laneOk j = true ↔ if m.id.trapres then j + 8 < m.id.vregs ∨ (232 ≤ j ∧ j < 240 ∧ special) else j < m.id.vregs)

/-- R35, R36, R37, R43, R304, R307: what a lane word's operand fields name, and the order of the checks on them, for the words that compute on two
registers: an operand that may not be named, an expired latch, a register that awaits a long result. TRAP_MASK is the split's active lanes. -/
def LaneWordsAreChecked : Prop :=
  (∀ (s : State) (c : Nat) (m : Team) (p : Split) (f : Lane) (y : Src) (l : Nat), latchOf f y = false →
    laneSource s c m p f y l =
      if codeOf f y < 0xF0 then s.vreg c m (codeOf f y) l
      else if codeOf f y ≤ 0xF7 then (m.blockOf p).uniforms.getD (codeOf f y - 0xF0) ⟨0, false⟩
      else if codeOf f y = 0xF9 then ⟨BitVec.ofNat 64 l, false⟩
      else if codeOf f y = 0xFA then ⟨BitVec.ofNat 64 m.id.lanes, false⟩
      else ⟨0, false⟩) ∧
  (∀ (m : Team) (f : Lane) (y : Src), srcOk m f false y = true ↔
    if latchOf f y then codeOf f y % 4 ≠ 3 else (codeOf f y < 0xF0 ∧ m.laneOk (codeOf f y) = true) ∨ (0xF0 ≤ codeOf f y ∧ codeOf f y ≤ 0xFA)) ∧
  (∀ (m : Team) (f : Lane), dstOk m f.vd.toNat false = true ↔ (f.vd.toNat < 0xF0 ∧ m.laneOk f.vd.toNat = true) ∨ f.vd.toNat = 0xF8) ∧
  (∀ i ∈ twoSourceLaneWords, ∀ (f : Lane) (s : State) (c t : Nat) (m : Team) (k : Nat) (p : Split),
    s.focus = some ⟨c, t, some k⟩ → s.team c t = some m → m.ctl.split k = some p → (i f).wellFormed = true →
    let lanes := m.active p
    let may := dstOk m f.vd.toNat false = true ∧ ∀ y ∈ sourcesAB f, srcOk m f false y = true
    let fresh := ∀ y ∈ sourcesAB f, latchOf f y = true → latchReadable p (codeOf f y % 4)
    (¬ may → LaneRaises (exec (i f) s) s c t m k p ⟨.illegalOperand, 0, lanes⟩) ∧
    (may → ¬ fresh → ∃ a, LaneRaises (exec (i f) s) s c t m k p ⟨.latchExpired, a, lanes⟩) ∧
    (may → fresh → ∀ j, (j = f.vd.toNat ∨ ∃ y ∈ sourcesAB f, latchOf f y = false ∧ j = codeOf f y) → j < 0xF0 → p.longs.getLsbD j = true →
      ∃ q, p.longs.getLsbD q = true ∧ LaneRaises (exec (i f) s) s c t m k p ⟨.hazard, BitVec.ofNat 64 q, lanes⟩) ∧
    (may → fresh → (∀ j, (j = f.vd.toNat ∨ ∃ y ∈ sourcesAB f, latchOf f y = false ∧ j = codeOf f y) → j < 0xF0 → p.longs.getLsbD j = false) →
      ∀ n, (n = f.pg.toNat ∨ n = f.pd.toNat) → n ≠ 0 → p.longs.getLsbD (240 + n) = true →
        ∃ a, LaneRaises (exec (i f) s) s c t m k p ⟨.hazard, a, lanes⟩))

/-- The state in which what a step names happens: the cycle has passed, what waited has been tried again, and the rest of the agenda stands. -/
def stepping (s : State) (rest : List Act) : State :=
  { ({ s with cycles := s.cycles + 1, free := s.free + 1 } : State).serve with agenda := rest }

/-- The state in which a stream of a core fetches its next word: the word is in focus. -/
def fetching (s1 : State) (c t : Nat) (split : Option Nat) : State :=
  { (s1.modCore c fun k => if split.isSome then { k with lastLane := t } else { k with lastScalar := t }) with focus := some ⟨c, t, split⟩ }

end Sys2Proof.Machine

/-- R35, R36, R37, R43, R304, R307, R428: the checks before a word acts. The number in TRAP_ADDR of a HAZARD where several registers await a result, and
what TRAP_ADDR holds for a marked guard, the manual leaves open. -/
def Obligations.WordsAreCheckedBeforeTheyAct : Prop := TeamsNameTheirRegisters ∧ ScalarWordsAreChecked ∧ LaneWordsAreChecked

/-- R407, R409, R410, R450: right after reset no team is resident, no bring-up stage is complete, and the management registers read what the
tables give for reset; memory lists nothing (stage 3 of R408 writes zeros) and is in its canonical form. -/
def Obligations.ResetLeavesTheTablesValues : Prop :=
  let r := State.reset
  r.MemoryWf ∧ (∀ a, r.mem.bytes.get 0 a = 0 ∧ r.mem.marks.get false a = false) ∧ (∀ c t, r.team c t = none) ∧ r.ready = false ∧ r.cycles = 0 ∧
  (∀ code, mgmtRead r code 0x0008 = (0, r) ∧ mgmtRead r code 0x0400 = (2600, r) ∧ mgmtRead r code 0x0408 = (0, r) ∧
    mgmtRead r code 0x0600 = (200, r) ∧ ∀ i, i < 12 → mgmtRead r code (0x0500 + 8 * i) = (0, r))

/-- R28, R43, R352, R401: in a step a cycle passes and what waits is tried again; then the step runs what the head of the agenda names: an event, or the
word that a stream of a core fetches at its place, of the team whose turn it is or whose word waits. A word that no stream may contain raises
ILLEGAL_INSTRUCTION. What a fetch returns: the parcel that the stream's code cache holds, else the four bytes of memory. -/
def Obligations.StepRunsTheDecodedWord : Prop :=
  (∀ (s : State) (rest : List Act), (∀ p ∈ s.ports, p.waiting = []) → s.sched.kills = [] → s.sched.incoming = [] →
    stepping s rest = { s with cycles := s.cycles + 1, free := s.free + 1, agenda := rest }) ∧
  (∀ (s : State) (i : Instr) (rest : List Act), s.agenda = .event i :: rest → step s = exec i (stepping s rest)) ∧
  (∀ (s s1 : State) (c t : Nat) (m : Team) (rest : List Act) (n : Nat), s.agenda = .scalar c t :: rest → (stepping s rest).team c t = some m →
    m.mayIssue = true → m.sched.holdUntil = 0 → (m.sched.hold ≠ none ∨ (stepping s rest).turnOf c t false = true) → m.trapsFirst = false →
    m.breaks false m.trap.skipDebug m.regs.spc = false →
    (fetching (stepping s rest) c t none).fetchParcel c m false m.regs.spc = (.ok n, s1) →
    (∀ i, decodeBytes (leBytes 4 n) = .word i → step s = exec i s1) ∧
    (∀ r, decodeBytes (leBytes 4 n) = .reject r → step s = .next (raise s1 c t m ⟨⟨.illegalInstruction, 0, 0⟩, none, some m.regs.spc⟩))) ∧
  (∀ (s s1 : State) (c t k : Nat) (m : Team) (p : Split) (rest : List Act) (n : Nat), s.agenda = .lane c t k :: rest →
    (stepping s rest).team c t = some m → m.mayIssue = true → m.laneWaits = false →
    ((stepping s rest).core c).health.pauseUntil ≤ (stepping s rest).cycles → m.turnSplit = some k → (stepping s rest).turnOf c t true = true →
    m.trapsFirst = false → m.ctl.split k = some p → m.breaks true p.skipDebug p.lpc = false →
    (fetching (stepping s rest) c t (some k)).fetchLane c m p.lpc = (.ok n, s1) →
    (∀ i, decodeBytes (leBytes 12 n) = .word i → step s = exec i s1) ∧
    (∀ r, decodeBytes (leBytes 12 n) = .reject r →
      step s = .next (raise s1 c t m ⟨⟨.illegalInstruction, 0, m.active p⟩, some (k, p.lpc), none⟩))) ∧
  (∀ (s s1 : State) (c : Nat) (m : Team) (lane : Bool) (va : Word) (pa : Nat),
    xlate s (some c) (dieOf c) m.id.asid m.id.runtime Need.fetch va = (.ok pa, s1) → isMgmt pa = false → pa % 4 = 0 →
    let cached := fun (x : State) => if lane then (x.core c).lcache.get none (pa / 4) else (x.core c).icache.get none (pa / 4)
    (∀ v, cached s1 = some v → s.fetchParcel c m lane va = (.ok v.toNat, s1)) ∧
    (cached s1 = none → s1.blocked pa none = false → s1.lost pa = false →
      ((s1.die (dieOf c)).rdc.get none (pa / 32) = none ∨ (paSlot pa = s1.boot.podSlot ∧ homeDie (paOff pa) = dieOf c)) →
      ∃ s2, s.fetchParcel c m lane va = (.ok (leNat (s1.mem.read pa 4)), s2) ∧ s2.mem = s1.mem ∧ (∀ q u, s2.team q u = s1.team q u) ∧
        cached s2 = some (BitVec.ofNat 32 (leNat (s1.mem.read pa 4))) ∧
        (if lane then (s2.core c).icache = (s1.core c).icache else (s2.core c).lcache = (s1.core c).lcache))) ∧
  (∀ (s s1 s2 s3 : State) (c : Nat) (m : Team) (va : Word) (x y z : Nat), s.fetchParcel c m true va = (.ok x, s1) →
    s1.fetchParcel c m true (va + 4) = (.ok y, s2) → s2.fetchParcel c m true (va + 8) = (.ok z, s3) →
    s.fetchLane c m va = (.ok (x + 2 ^ 32 * y + 2 ^ 64 * z), s3))

/-- R30, R34, R44 to R49: words of the manual, bit by bit, with the instructions that they stand for. -/
def Obligations.SampleWordsDecode : Prop :=
  decodeTableWord 32 0x8220A303 = some (.sAdd ⟨true, 4, 5, 6, 3⟩) ∧
  decodeTableWord 32 0x02596500 = some (.sAdd ⟨false, 11, 11, 10, 0⟩) ∧
  decodeTableWord 32 0x14597210 = some (.sAddImm ⟨false, 11, 11, 0x1210⟩) ∧
  decodeTableWord 32 0x225BB2A2 = some (.sLui ⟨false, 11, 0x3B2A2⟩) ∧
  decodeTableWord 32 0x1C514004 = some (.sShlImm ⟨false, 10, 10, 0, 4⟩) ∧
  decodeTableWord 32 0x04502160 = some (.sIleave3 ⟨false, 10, 1, 2, 0⟩) ∧
  decodeTableWord 32 0xC0202181 = some (.sMma true ⟨true, 4, 1, 3⟩) ∧
  decodeTableWord 32 0xC2204000 = some (.sBeam ⟨true, 4, 2, 0⟩) ∧
  decodeTableWord 96 (0x2B800601 * 2 ^ 64 + 0x07000000 * 2 ^ 32 + 0x00000006) =
    some (.vPack ⟨false, 0, false, 0, 6, 1, 7, 0, 0, 0, 0, 0, 0, false, false, 6⟩) ∧
  decodeTableWord 96 (0x21A80701 * 2 ^ 64 + 0x02F30600 * 2 ^ 32) =
    some (.vFfma ⟨false, 2, true, 0, 7, 1, 2, 0xF3, 0, 1, 2, 0, 0, false, false, 0⟩) ∧
  decodeTableWord 32 0 = none ∧ decodeTableWord 96 0 = none

/-- R28, R30, R34: for every well-formed instruction that has a word, decoding its word gives it back, operand for operand; and every word that
decodes is the word of what it decodes to, so that no bit of a word goes unread. -/
def Obligations.DecodeInvertsEncode : Prop :=
  (∀ (i : Instr) (bs : List Byte), i.wellFormed = true → encodeBytes i = some bs → decodeBytes bs = .word i) ∧
  (∀ (i : Instr) (bs : List Byte), decodeBytes bs = .word i → encodeBytes i = some bs ∧ i.wellFormed = true)

/-- Every step keeps the canonical form of memory: listed bytes and marks in rising order, none that an unlisted place reads as. -/
def Obligations.EveryStepKeepsMemoryCanonical : Prop :=
  ∀ s s' : State, s.MemoryWf → step s = .next s' → s'.MemoryWf
end

