-- ==== Sys2Proof/Laws/SMap.lean ====
section
/-!
SUPPORT. Laws of sparse maps: a read after a write, and that every operation keeps the canonical form.
-/
namespace Sys2Proof.Machine

variable {α : Type}

theorem SMap.get_erase_self (d : α) (m : SMap α) (k : Nat) : (m.erase k).get d k = d := by
  induction m with
  | nil => rfl
  | cons e m ih =>
    obtain ⟨k', v⟩ := e
    by_cases h : k = k' <;> simp [SMap.erase, SMap.get, h, ih]
    subst h; exact ih

theorem SMap.get_erase_other (d : α) (m : SMap α) {k j : Nat} (h : j ≠ k) : (m.erase k).get d j = m.get d j := by
  induction m with
  | nil => rfl
  | cons e m ih =>
    obtain ⟨k', v⟩ := e
    by_cases hk : k = k'
    · subst hk; simp [SMap.erase, SMap.get, h, ih]
    · simp only [SMap.erase, hk, if_false, SMap.get, ih]

theorem SMap.get_insert_self (d : α) (m : SMap α) (k : Nat) (v : α) (h : ∀ e ∈ m, e.1 ≠ k) : (m.insert k v).get d k = v := by
  induction m with
  | nil => simp [SMap.insert, SMap.get]
  | cons e m ih =>
    obtain ⟨k', v'⟩ := e
    have hk : k ≠ k' := fun x => h (k', v') (by simp) x.symm
    have ih := ih fun e he => h e (by simp [he])
    by_cases hl : k < k' <;> simp [SMap.insert, SMap.get, hl, hk, ih]

theorem SMap.get_insert_other (d : α) (m : SMap α) {k j : Nat} (v : α) (h : j ≠ k) : (m.insert k v).get d j = m.get d j := by
  induction m with
  | nil => simp [SMap.insert, SMap.get, h]
  | cons e m ih =>
    obtain ⟨k', v'⟩ := e
    by_cases hl : k < k'
    · simp [SMap.insert, SMap.get, hl, h]
    · simp only [SMap.insert, hl, if_false, SMap.get, ih]

theorem SMap.mem_erase {m : SMap α} {k : Nat} {e : Nat × α} (h : e ∈ m.erase k) : e ∈ m ∧ e.1 ≠ k := by
  induction m with
  | nil => cases h
  | cons x m ih =>
    obtain ⟨k', v⟩ := x
    by_cases hk : k = k'
    · rw [SMap.erase, if_pos hk] at h
      exact ⟨by simp [(ih h).1], (ih h).2⟩
    · rw [SMap.erase, if_neg hk] at h
      rcases List.mem_cons.mp h with h | h
      · subst h; exact ⟨by simp, fun x => hk x.symm⟩
      · exact ⟨by simp [(ih h).1], (ih h).2⟩

/-- A read at the key just written gives the value written. -/
@[simp] theorem SMap.get_set_self [DecidableEq α] (d : α) (m : SMap α) (k : Nat) (v : α) : (m.set d k v).get d k = v := by
  unfold SMap.set
  split
  · rename_i h; rw [h]; exact SMap.get_erase_self d m k
  · exact SMap.get_insert_self d _ k v fun e he => (SMap.mem_erase he).2

/-- A write leaves every other key alone. -/
@[simp] theorem SMap.get_set_other [DecidableEq α] (d : α) (m : SMap α) {k j : Nat} (v : α) (h : j ≠ k) :
    (m.set d k v).get d j = m.get d j := by
  unfold SMap.set
  split
  · exact SMap.get_erase_other d m h
  · rw [SMap.get_insert_other d _ v h, SMap.get_erase_other d m h]

theorem SMap.get_set [DecidableEq α] (d : α) (m : SMap α) (k j : Nat) (v : α) :
    (m.set d k v).get d j = if j = k then v else m.get d j := by
  by_cases h : j = k
  · subst h; simp
  · simp [h]

/-! ### The canonical form -/

/-- Every key lies above a bound. -/
def SMap.above (lo : Option Nat) (k : Nat) : Prop := match lo with | none => True | some b => b < k

theorem SMap.rising_cons {lo : Option Nat} {k : Nat} {v : α} {m : SMap α} :
    SMap.rising lo ((k, v) :: m) = true ↔ SMap.above lo k ∧ SMap.rising (some k) m = true := by
  cases lo <;> simp [SMap.rising, SMap.above]

theorem SMap.rising_weaken {m : SMap α} {lo hi : Nat} (h : lo ≤ hi) (hm : SMap.rising (some hi) m = true) :
    SMap.rising (some lo) m = true := by
  cases m with
  | nil => rfl
  | cons e m =>
    rw [SMap.rising_cons] at hm ⊢
    exact ⟨Nat.lt_of_le_of_lt h hm.1, hm.2⟩

theorem SMap.rising_drop {m : SMap α} {lo : Option Nat} {k : Nat} (ha : SMap.above lo k) (hm : SMap.rising (some k) m = true) :
    SMap.rising lo m = true := by
  cases lo with
  | none =>
    cases m with
    | nil => rfl
    | cons e m => rw [SMap.rising_cons] at hm ⊢; exact ⟨trivial, hm.2⟩
  | some b => exact SMap.rising_weaken (Nat.le_of_lt ha) hm

theorem SMap.rising_filter (p : Nat × α → Bool) {m : SMap α} {lo : Option Nat} (h : SMap.rising lo m = true) :
    SMap.rising lo (m.filter p) = true := by
  induction m generalizing lo with
  | nil => exact h
  | cons e m ih =>
    obtain ⟨k, v⟩ := e
    rw [SMap.rising_cons] at h
    by_cases hp : p (k, v)
    · rw [List.filter_cons_of_pos hp, SMap.rising_cons]; exact ⟨h.1, ih h.2⟩
    · rw [List.filter_cons_of_neg hp]; exact SMap.rising_drop h.1 (ih h.2)

theorem SMap.erase_eq_filter (m : SMap α) (k : Nat) : m.erase k = m.filter fun e => decide (e.1 ≠ k) := by
  induction m with
  | nil => rfl
  | cons e m ih =>
    obtain ⟨k', v⟩ := e
    by_cases h : k = k'
    · subst h; simp [SMap.erase, ih]
    · have h' : k' ≠ k := fun x => h x.symm
      simp [SMap.erase, h, h', ih]

theorem SMap.rising_insert {m : SMap α} {lo : Option Nat} {k : Nat} (v : α) (ha : SMap.above lo k) (hm : SMap.rising lo m = true)
    (hk : ∀ e ∈ m, e.1 ≠ k) : SMap.rising lo (m.insert k v) = true := by
  induction m generalizing lo with
  | nil => rw [SMap.insert, SMap.rising_cons]; exact ⟨ha, rfl⟩
  | cons e m ih =>
    obtain ⟨k', v'⟩ := e
    rw [SMap.rising_cons] at hm
    have hne : k' ≠ k := hk (k', v') (by simp)
    by_cases hl : k < k'
    · rw [SMap.insert, if_pos hl, SMap.rising_cons, SMap.rising_cons]; exact ⟨ha, hl, hm.2⟩
    · rw [SMap.insert, if_neg hl, SMap.rising_cons]
      refine ⟨hm.1, ih ?_ hm.2 fun e he => hk e (by simp [he])⟩
      show k' < k
      omega

theorem SMap.mem_insert {m : SMap α} {k : Nat} {v : α} {e : Nat × α} (h : e ∈ m.insert k v) : e = (k, v) ∨ e ∈ m := by
  induction m with
  | nil => exact Or.inl (by simpa [SMap.insert] using h)
  | cons x m ih =>
    obtain ⟨k', v'⟩ := x
    by_cases hl : k < k'
    · rw [SMap.insert, if_pos hl] at h; exact List.mem_cons.mp h
    · rw [SMap.insert, if_neg hl] at h
      rcases List.mem_cons.mp h with h | h
      · exact Or.inr (by simp [h])
      · exact (ih h).imp id fun h => List.mem_cons_of_mem _ h

theorem SMap.wf_iff [DecidableEq α] {d : α} {m : SMap α} :
    SMap.wf d m = true ↔ SMap.rising none m = true ∧ ∀ e ∈ m, e.2 ≠ d := by
  simp [SMap.wf]

@[simp] theorem SMap.wf_nil [DecidableEq α] (d : α) : SMap.wf d ([] : SMap α) = true := rfl

/-- A write keeps the canonical form. -/
theorem SMap.wf_set [DecidableEq α] {d : α} {m : SMap α} (k : Nat) (v : α) (h : SMap.wf d m = true) :
    SMap.wf d (m.set d k v) = true := by
  rw [SMap.wf_iff] at h ⊢
  have he : SMap.rising none (m.erase k) = true := by rw [SMap.erase_eq_filter]; exact SMap.rising_filter _ h.1
  unfold SMap.set
  split
  · exact ⟨he, fun e hm => h.2 e (SMap.mem_erase hm).1⟩
  · rename_i hv
    refine ⟨SMap.rising_insert v trivial he fun e hm => (SMap.mem_erase hm).2, fun e hm => ?_⟩
    rcases SMap.mem_insert hm with h1 | h1
    · subst h1; exact hv
    · exact h.2 e (SMap.mem_erase h1).1

/-- Dropping entries keeps the canonical form. -/
theorem SMap.wf_keep [DecidableEq α] {d : α} {m : SMap α} (p : Nat → α → Bool) (h : SMap.wf d m = true) :
    SMap.wf d (m.keep p) = true := by
  rw [SMap.wf_iff] at h ⊢
  exact ⟨SMap.rising_filter _ h.1, fun e hm => h.2 e (List.mem_filter.mp hm).1⟩

/-- What a key reads as once every listed entry's value has changed. -/
theorem SMap.get_mapEntries [DecidableEq α] (d : α) (m : SMap α) (f : Nat → α → α) (hf : ∀ k, f k d = d) (k : Nat) :
    (m.mapEntries d f).get d k = f k (m.get d k) := by
  induction m with
  | nil => exact (hf k).symm
  | cons e m ih =>
    obtain ⟨k', v⟩ := e
    simp only [SMap.mapEntries, SMap.get]
    by_cases h : k = k'
    · subst h
      split
      · rename_i hv; rw [SMap.get_erase_self]; simp [hv]
      · simp [SMap.get]
    · simp only [h, if_false]
      split
      · rw [SMap.get_erase_other d _ h, ih]
      · simp [SMap.get, h, SMap.get_erase_other d _ h, ih]

@[simp] theorem SMap.get_mapVals [DecidableEq α] (d : α) (m : SMap α) (f : α → α) (hf : f d = d) (k : Nat) :
    (m.mapVals d f).get d k = f (m.get d k) := SMap.get_mapEntries d m (fun _ => f) (fun _ => hf) k

theorem SMap.rising_erase {m : SMap α} {lo : Option Nat} (k : Nat) (h : SMap.rising lo m = true) : SMap.rising lo (m.erase k) = true := by
  rw [SMap.erase_eq_filter]; exact SMap.rising_filter _ h

/-- Changing listed entries keeps the canonical form. -/
theorem SMap.wf_mapEntries [DecidableEq α] {d : α} {m : SMap α} (f : Nat → α → α) (h : SMap.wf d m = true) :
    SMap.wf d (m.mapEntries d f) = true := by
  rw [SMap.wf_iff] at h ⊢
  have key : ∀ (m : SMap α) (lo : Option Nat), SMap.rising lo m = true →
      SMap.rising lo (m.mapEntries d f) = true ∧ ∀ e ∈ m.mapEntries d f, e.2 ≠ d := by
    intro m
    induction m with
    | nil => intro lo _; exact ⟨rfl, fun e he => absurd he (by simp [SMap.mapEntries])⟩
    | cons e m ih =>
      intro lo h
      obtain ⟨k, v⟩ := e
      rw [SMap.rising_cons] at h
      obtain ⟨h1, h2⟩ := ih (some k) h.2
      simp only [SMap.mapEntries]
      split
      · exact ⟨SMap.rising_drop h.1 (SMap.rising_erase k h1), fun e he => h2 e (SMap.mem_erase he).1⟩
      · rename_i hv
        refine ⟨SMap.rising_cons.mpr ⟨h.1, SMap.rising_erase k h1⟩, fun e he => ?_⟩
        rcases List.mem_cons.mp he with rfl | he
        · exact hv
        · exact h2 e (SMap.mem_erase he).1
  exact key m none h.1

/-- Changing listed values keeps the canonical form. -/
theorem SMap.wf_mapVals [DecidableEq α] {d : α} {m : SMap α} (f : α → α) (h : SMap.wf d m = true) :
    SMap.wf d (m.mapVals d f) = true := SMap.wf_mapEntries _ h

end Sys2Proof.Machine
end

