-- ==== Sys2Proof/Laws/State.lean ====
section
/-!
SUPPORT. Laws of the state's parts: what each update of a part gives, field by field, and what it leaves alone.
-/
namespace Sys2Proof.Machine

/-! ### Cores -/

section
variable (s : State) (c q t : Nat) (k : Core) (f : Core → Core)

@[simp] theorem State.core_setCore_self : (s.setCore c k).core c = k := by simp [State.core, State.setCore]
@[simp] theorem State.core_setCore_other (h : q ≠ c) : (s.setCore c k).core q = s.core q := by simp [State.core, State.setCore, h]
@[simp] theorem State.setCore_mem : (s.setCore c k).mem = s.mem := rfl
@[simp] theorem State.setCore_cycles : (s.setCore c k).cycles = s.cycles := rfl
@[simp] theorem State.setCore_clusters : (s.setCore c k).clusters = s.clusters := rfl
@[simp] theorem State.setCore_dies : (s.setCore c k).dies = s.dies := rfl
@[simp] theorem State.setCore_stations : (s.setCore c k).stations = s.stations := rfl
@[simp] theorem State.setCore_ports : (s.setCore c k).ports = s.ports := rfl
@[simp] theorem State.setCore_boot : (s.setCore c k).boot = s.boot := rfl
@[simp] theorem State.setCore_power : (s.setCore c k).power = s.power := rfl
@[simp] theorem State.setCore_sched : (s.setCore c k).sched = s.sched := rfl
@[simp] theorem State.setCore_out : (s.setCore c k).out = s.out := rfl
@[simp] theorem State.setCore_ticket : (s.setCore c k).ticket = s.ticket := rfl
@[simp] theorem State.setCore_free : (s.setCore c k).free = s.free := rfl
@[simp] theorem State.setCore_focus : (s.setCore c k).focus = s.focus := rfl
@[simp] theorem State.setCore_gather : (s.setCore c k).gather = s.gather := rfl
@[simp] theorem State.setCore_agenda : (s.setCore c k).agenda = s.agenda := rfl

@[simp] theorem State.core_modCore_self : (s.modCore c f).core c = f (s.core c) := by simp [State.modCore]
@[simp] theorem State.core_modCore_other (h : q ≠ c) : (s.modCore c f).core q = s.core q := by simp [State.modCore, h]
@[simp] theorem State.modCore_mem : (s.modCore c f).mem = s.mem := rfl
@[simp] theorem State.modCore_cycles : (s.modCore c f).cycles = s.cycles := rfl
@[simp] theorem State.modCore_clusters : (s.modCore c f).clusters = s.clusters := rfl
@[simp] theorem State.modCore_dies : (s.modCore c f).dies = s.dies := rfl
@[simp] theorem State.modCore_stations : (s.modCore c f).stations = s.stations := rfl
@[simp] theorem State.modCore_ports : (s.modCore c f).ports = s.ports := rfl
@[simp] theorem State.modCore_boot : (s.modCore c f).boot = s.boot := rfl
@[simp] theorem State.modCore_power : (s.modCore c f).power = s.power := rfl
@[simp] theorem State.modCore_sched : (s.modCore c f).sched = s.sched := rfl
@[simp] theorem State.modCore_out : (s.modCore c f).out = s.out := rfl
@[simp] theorem State.modCore_ticket : (s.modCore c f).ticket = s.ticket := rfl
@[simp] theorem State.modCore_free : (s.modCore c f).free = s.free := rfl
@[simp] theorem State.modCore_focus : (s.modCore c f).focus = s.focus := rfl
@[simp] theorem State.modCore_gather : (s.modCore c f).gather = s.gather := rfl
@[simp] theorem State.modCore_agenda : (s.modCore c f).agenda = s.agenda := rfl

theorem State.onlyCore_refl : OnlyCore s s c := ⟨rfl, fun _ _ => rfl, rfl, rfl, rfl, rfl, rfl, rfl, rfl, rfl⟩

/-- A change of a core changes nothing else. -/
theorem State.onlyCore_modCore : OnlyCore s (s.modCore c f) c :=
  ⟨rfl, fun _ h => s.core_modCore_other c _ f h, rfl, rfl, rfl, rfl, rfl, rfl, rfl, rfl⟩

end

theorem OnlyCore.trans {s s' s'' : State} {c : Nat} (h : OnlyCore s s' c) (g : OnlyCore s' s'' c) : OnlyCore s s'' c :=
  ⟨g.mem.trans h.mem, fun q hq => (g.cores q hq).trans (h.cores q hq), g.clusters.trans h.clusters, g.dies.trans h.dies,
   g.stations.trans h.stations, g.ports.trans h.ports, g.boot.trans h.boot, g.power.trans h.power, g.sched.trans h.sched,
   g.out.trans h.out⟩

/-! ### Clusters, dies, memory -/

section
variable (s : State) (d q c : Nat)

@[simp] theorem State.die_setDie_self (k : Die) : (s.setDie d k).die d = k := by simp [State.die, State.setDie]
@[simp] theorem State.die_setDie_other (k : Die) (h : q ≠ d) : (s.setDie d k).die q = s.die q := by simp [State.die, State.setDie, h]
@[simp] theorem State.setDie_mem (k : Die) : (s.setDie d k).mem = s.mem := rfl
@[simp] theorem State.setDie_core (k : Die) : (s.setDie d k).core c = s.core c := rfl
@[simp] theorem State.setDie_boot (k : Die) : (s.setDie d k).boot = s.boot := rfl
@[simp] theorem State.setDie_sched (k : Die) : (s.setDie d k).sched = s.sched := rfl
@[simp] theorem State.cluster_setCluster_self (k : Cluster) : (s.setCluster d k).cluster d = k := by
  simp [State.cluster, State.setCluster]
@[simp] theorem State.cluster_setCluster_other (k : Cluster) (h : q ≠ d) : (s.setCluster d k).cluster q = s.cluster q := by
  simp [State.cluster, State.setCluster, h]
@[simp] theorem State.setCluster_mem (k : Cluster) : (s.setCluster d k).mem = s.mem := rfl
@[simp] theorem State.setCluster_core (k : Cluster) : (s.setCluster d k).core c = s.core c := rfl
@[simp] theorem State.modMem_mem (f : Memory → Memory) : (s.modMem f).mem = f s.mem := rfl
@[simp] theorem State.modMem_core (f : Memory → Memory) : (s.modMem f).core c = s.core c := rfl
@[simp] theorem State.modMem_die (f : Memory → Memory) : (s.modMem f).die d = s.die d := rfl
@[simp] theorem State.modMem_boot (f : Memory → Memory) : (s.modMem f).boot = s.boot := rfl
@[simp] theorem State.modBoot_mem (f : Boot → Boot) : (s.modBoot f).mem = s.mem := rfl
@[simp] theorem State.modBoot_boot (f : Boot → Boot) : (s.modBoot f).boot = f s.boot := rfl
@[simp] theorem State.modBoot_core (f : Boot → Boot) : (s.modBoot f).core c = s.core c := rfl
@[simp] theorem State.modSched_mem (f : Sched → Sched) : (s.modSched f).mem = s.mem := rfl
@[simp] theorem State.modSched_sched (f : Sched → Sched) : (s.modSched f).sched = f s.sched := rfl
@[simp] theorem State.modSched_core (f : Sched → Sched) : (s.modSched f).core c = s.core c := rfl
@[simp] theorem State.send_out (m : Message) : (s.send m).out = s.out ++ [m] := rfl
@[simp] theorem State.send_mem (m : Message) : (s.send m).mem = s.mem := rfl
@[simp] theorem State.send_core (m : Message) : (s.send m).core c = s.core c := rfl
@[simp] theorem State.fresh_fst : s.fresh.1 = s.ticket := rfl
@[simp] theorem State.fresh_snd : s.fresh.2 = { s with ticket := s.ticket + 1 } := rfl
@[simp] theorem State.freeWord_fst : s.freeWord.1 = Config.freeWord s.free := rfl
@[simp] theorem State.freeWord_snd : s.freeWord.2 = { s with free := s.free + 1 } := rfl

end

/-! ### Every other field under an update -/

section
variable (s : State) (d q : Nat)

@[simp] theorem State.die_modDie_self (f : Die → Die) : (s.modDie d f).die d = f (s.die d) := by simp [State.modDie]
@[simp] theorem State.die_modDie_other (f : Die → Die) (h : q ≠ d) : (s.modDie d f).die q = s.die q := by simp [State.modDie, h]
@[simp] theorem State.cluster_modCluster_self (f : Cluster → Cluster) : (s.modCluster d f).cluster d = f (s.cluster d) := by simp [State.modCluster]
@[simp] theorem State.cluster_modCluster_other (f : Cluster → Cluster) (h : q ≠ d) : (s.modCluster d f).cluster q = s.cluster q := by
  simp [State.modCluster, h]
@[simp] theorem State.station_modStation_self (f : Station → Station) : (s.modStation d f).station d = f (s.station d) := by
  simp [State.station, State.modStation]
@[simp] theorem State.station_modStation_other (f : Station → Station) (h : q ≠ d) : (s.modStation d f).station q = s.station q := by
  simp [State.station, State.modStation, h]
@[simp] theorem State.setDie_cores (k : Die) : (s.setDie d k).cores = s.cores := rfl
@[simp] theorem State.setDie_clusters (k : Die) : (s.setDie d k).clusters = s.clusters := rfl
@[simp] theorem State.setDie_stations (k : Die) : (s.setDie d k).stations = s.stations := rfl
@[simp] theorem State.setDie_ports (k : Die) : (s.setDie d k).ports = s.ports := rfl
@[simp] theorem State.setDie_power (k : Die) : (s.setDie d k).power = s.power := rfl
@[simp] theorem State.setDie_out (k : Die) : (s.setDie d k).out = s.out := rfl
@[simp] theorem State.setDie_cycles (k : Die) : (s.setDie d k).cycles = s.cycles := rfl
@[simp] theorem State.setDie_ticket (k : Die) : (s.setDie d k).ticket = s.ticket := rfl
@[simp] theorem State.setDie_free (k : Die) : (s.setDie d k).free = s.free := rfl
@[simp] theorem State.setDie_focus (k : Die) : (s.setDie d k).focus = s.focus := rfl
@[simp] theorem State.setDie_gather (k : Die) : (s.setDie d k).gather = s.gather := rfl
@[simp] theorem State.setDie_agenda (k : Die) : (s.setDie d k).agenda = s.agenda := rfl
@[simp] theorem State.modDie_mem (f : Die → Die) : (s.modDie d f).mem = s.mem := rfl
@[simp] theorem State.modDie_cores (f : Die → Die) : (s.modDie d f).cores = s.cores := rfl
@[simp] theorem State.modDie_clusters (f : Die → Die) : (s.modDie d f).clusters = s.clusters := rfl
@[simp] theorem State.modDie_stations (f : Die → Die) : (s.modDie d f).stations = s.stations := rfl
@[simp] theorem State.modDie_ports (f : Die → Die) : (s.modDie d f).ports = s.ports := rfl
@[simp] theorem State.modDie_boot (f : Die → Die) : (s.modDie d f).boot = s.boot := rfl
@[simp] theorem State.modDie_power (f : Die → Die) : (s.modDie d f).power = s.power := rfl
@[simp] theorem State.modDie_sched (f : Die → Die) : (s.modDie d f).sched = s.sched := rfl
@[simp] theorem State.modDie_out (f : Die → Die) : (s.modDie d f).out = s.out := rfl
@[simp] theorem State.modDie_cycles (f : Die → Die) : (s.modDie d f).cycles = s.cycles := rfl
@[simp] theorem State.modDie_ticket (f : Die → Die) : (s.modDie d f).ticket = s.ticket := rfl
@[simp] theorem State.modDie_free (f : Die → Die) : (s.modDie d f).free = s.free := rfl
@[simp] theorem State.modDie_focus (f : Die → Die) : (s.modDie d f).focus = s.focus := rfl
@[simp] theorem State.modDie_gather (f : Die → Die) : (s.modDie d f).gather = s.gather := rfl
@[simp] theorem State.modDie_agenda (f : Die → Die) : (s.modDie d f).agenda = s.agenda := rfl
@[simp] theorem State.setCluster_cores (k : Cluster) : (s.setCluster d k).cores = s.cores := rfl
@[simp] theorem State.setCluster_dies (k : Cluster) : (s.setCluster d k).dies = s.dies := rfl
@[simp] theorem State.setCluster_stations (k : Cluster) : (s.setCluster d k).stations = s.stations := rfl
@[simp] theorem State.setCluster_ports (k : Cluster) : (s.setCluster d k).ports = s.ports := rfl
@[simp] theorem State.setCluster_boot (k : Cluster) : (s.setCluster d k).boot = s.boot := rfl
@[simp] theorem State.setCluster_power (k : Cluster) : (s.setCluster d k).power = s.power := rfl
@[simp] theorem State.setCluster_sched (k : Cluster) : (s.setCluster d k).sched = s.sched := rfl
@[simp] theorem State.setCluster_out (k : Cluster) : (s.setCluster d k).out = s.out := rfl
@[simp] theorem State.setCluster_cycles (k : Cluster) : (s.setCluster d k).cycles = s.cycles := rfl
@[simp] theorem State.setCluster_ticket (k : Cluster) : (s.setCluster d k).ticket = s.ticket := rfl
@[simp] theorem State.setCluster_free (k : Cluster) : (s.setCluster d k).free = s.free := rfl
@[simp] theorem State.setCluster_focus (k : Cluster) : (s.setCluster d k).focus = s.focus := rfl
@[simp] theorem State.setCluster_gather (k : Cluster) : (s.setCluster d k).gather = s.gather := rfl
@[simp] theorem State.setCluster_agenda (k : Cluster) : (s.setCluster d k).agenda = s.agenda := rfl
@[simp] theorem State.modCluster_mem (f : Cluster → Cluster) : (s.modCluster d f).mem = s.mem := rfl
@[simp] theorem State.modCluster_cores (f : Cluster → Cluster) : (s.modCluster d f).cores = s.cores := rfl
@[simp] theorem State.modCluster_dies (f : Cluster → Cluster) : (s.modCluster d f).dies = s.dies := rfl
@[simp] theorem State.modCluster_stations (f : Cluster → Cluster) : (s.modCluster d f).stations = s.stations := rfl
@[simp] theorem State.modCluster_ports (f : Cluster → Cluster) : (s.modCluster d f).ports = s.ports := rfl
@[simp] theorem State.modCluster_boot (f : Cluster → Cluster) : (s.modCluster d f).boot = s.boot := rfl
@[simp] theorem State.modCluster_power (f : Cluster → Cluster) : (s.modCluster d f).power = s.power := rfl
@[simp] theorem State.modCluster_sched (f : Cluster → Cluster) : (s.modCluster d f).sched = s.sched := rfl
@[simp] theorem State.modCluster_out (f : Cluster → Cluster) : (s.modCluster d f).out = s.out := rfl
@[simp] theorem State.modCluster_cycles (f : Cluster → Cluster) : (s.modCluster d f).cycles = s.cycles := rfl
@[simp] theorem State.modCluster_ticket (f : Cluster → Cluster) : (s.modCluster d f).ticket = s.ticket := rfl
@[simp] theorem State.modCluster_free (f : Cluster → Cluster) : (s.modCluster d f).free = s.free := rfl
@[simp] theorem State.modCluster_focus (f : Cluster → Cluster) : (s.modCluster d f).focus = s.focus := rfl
@[simp] theorem State.modCluster_gather (f : Cluster → Cluster) : (s.modCluster d f).gather = s.gather := rfl
@[simp] theorem State.modCluster_agenda (f : Cluster → Cluster) : (s.modCluster d f).agenda = s.agenda := rfl
@[simp] theorem State.modStation_mem (f : Station → Station) : (s.modStation d f).mem = s.mem := rfl
@[simp] theorem State.modStation_cores (f : Station → Station) : (s.modStation d f).cores = s.cores := rfl
@[simp] theorem State.modStation_clusters (f : Station → Station) : (s.modStation d f).clusters = s.clusters := rfl
@[simp] theorem State.modStation_dies (f : Station → Station) : (s.modStation d f).dies = s.dies := rfl
@[simp] theorem State.modStation_ports (f : Station → Station) : (s.modStation d f).ports = s.ports := rfl
@[simp] theorem State.modStation_boot (f : Station → Station) : (s.modStation d f).boot = s.boot := rfl
@[simp] theorem State.modStation_power (f : Station → Station) : (s.modStation d f).power = s.power := rfl
@[simp] theorem State.modStation_sched (f : Station → Station) : (s.modStation d f).sched = s.sched := rfl
@[simp] theorem State.modStation_out (f : Station → Station) : (s.modStation d f).out = s.out := rfl
@[simp] theorem State.modStation_cycles (f : Station → Station) : (s.modStation d f).cycles = s.cycles := rfl
@[simp] theorem State.modStation_ticket (f : Station → Station) : (s.modStation d f).ticket = s.ticket := rfl
@[simp] theorem State.modStation_free (f : Station → Station) : (s.modStation d f).free = s.free := rfl
@[simp] theorem State.modStation_focus (f : Station → Station) : (s.modStation d f).focus = s.focus := rfl
@[simp] theorem State.modStation_gather (f : Station → Station) : (s.modStation d f).gather = s.gather := rfl
@[simp] theorem State.modStation_agenda (f : Station → Station) : (s.modStation d f).agenda = s.agenda := rfl
@[simp] theorem State.modPort_mem (f : Port → Port) : (s.modPort d f).mem = s.mem := rfl
@[simp] theorem State.modPort_cores (f : Port → Port) : (s.modPort d f).cores = s.cores := rfl
@[simp] theorem State.modPort_clusters (f : Port → Port) : (s.modPort d f).clusters = s.clusters := rfl
@[simp] theorem State.modPort_dies (f : Port → Port) : (s.modPort d f).dies = s.dies := rfl
@[simp] theorem State.modPort_stations (f : Port → Port) : (s.modPort d f).stations = s.stations := rfl
@[simp] theorem State.modPort_boot (f : Port → Port) : (s.modPort d f).boot = s.boot := rfl
@[simp] theorem State.modPort_power (f : Port → Port) : (s.modPort d f).power = s.power := rfl
@[simp] theorem State.modPort_sched (f : Port → Port) : (s.modPort d f).sched = s.sched := rfl
@[simp] theorem State.modPort_out (f : Port → Port) : (s.modPort d f).out = s.out := rfl
@[simp] theorem State.modPort_cycles (f : Port → Port) : (s.modPort d f).cycles = s.cycles := rfl
@[simp] theorem State.modPort_ticket (f : Port → Port) : (s.modPort d f).ticket = s.ticket := rfl
@[simp] theorem State.modPort_free (f : Port → Port) : (s.modPort d f).free = s.free := rfl
@[simp] theorem State.modPort_focus (f : Port → Port) : (s.modPort d f).focus = s.focus := rfl
@[simp] theorem State.modPort_gather (f : Port → Port) : (s.modPort d f).gather = s.gather := rfl
@[simp] theorem State.modPort_agenda (f : Port → Port) : (s.modPort d f).agenda = s.agenda := rfl
@[simp] theorem State.modMem_cores (f : Memory → Memory) : (s.modMem f).cores = s.cores := rfl
@[simp] theorem State.modMem_clusters (f : Memory → Memory) : (s.modMem f).clusters = s.clusters := rfl
@[simp] theorem State.modMem_dies (f : Memory → Memory) : (s.modMem f).dies = s.dies := rfl
@[simp] theorem State.modMem_stations (f : Memory → Memory) : (s.modMem f).stations = s.stations := rfl
@[simp] theorem State.modMem_ports (f : Memory → Memory) : (s.modMem f).ports = s.ports := rfl
@[simp] theorem State.modMem_power (f : Memory → Memory) : (s.modMem f).power = s.power := rfl
@[simp] theorem State.modMem_sched (f : Memory → Memory) : (s.modMem f).sched = s.sched := rfl
@[simp] theorem State.modMem_out (f : Memory → Memory) : (s.modMem f).out = s.out := rfl
@[simp] theorem State.modMem_cycles (f : Memory → Memory) : (s.modMem f).cycles = s.cycles := rfl
@[simp] theorem State.modMem_ticket (f : Memory → Memory) : (s.modMem f).ticket = s.ticket := rfl
@[simp] theorem State.modMem_free (f : Memory → Memory) : (s.modMem f).free = s.free := rfl
@[simp] theorem State.modMem_focus (f : Memory → Memory) : (s.modMem f).focus = s.focus := rfl
@[simp] theorem State.modMem_gather (f : Memory → Memory) : (s.modMem f).gather = s.gather := rfl
@[simp] theorem State.modMem_agenda (f : Memory → Memory) : (s.modMem f).agenda = s.agenda := rfl
@[simp] theorem State.modBoot_cores (f : Boot → Boot) : (s.modBoot f).cores = s.cores := rfl
@[simp] theorem State.modBoot_clusters (f : Boot → Boot) : (s.modBoot f).clusters = s.clusters := rfl
@[simp] theorem State.modBoot_dies (f : Boot → Boot) : (s.modBoot f).dies = s.dies := rfl
@[simp] theorem State.modBoot_stations (f : Boot → Boot) : (s.modBoot f).stations = s.stations := rfl
@[simp] theorem State.modBoot_ports (f : Boot → Boot) : (s.modBoot f).ports = s.ports := rfl
@[simp] theorem State.modBoot_power (f : Boot → Boot) : (s.modBoot f).power = s.power := rfl
@[simp] theorem State.modBoot_sched (f : Boot → Boot) : (s.modBoot f).sched = s.sched := rfl
@[simp] theorem State.modBoot_out (f : Boot → Boot) : (s.modBoot f).out = s.out := rfl
@[simp] theorem State.modBoot_cycles (f : Boot → Boot) : (s.modBoot f).cycles = s.cycles := rfl
@[simp] theorem State.modBoot_ticket (f : Boot → Boot) : (s.modBoot f).ticket = s.ticket := rfl
@[simp] theorem State.modBoot_free (f : Boot → Boot) : (s.modBoot f).free = s.free := rfl
@[simp] theorem State.modBoot_focus (f : Boot → Boot) : (s.modBoot f).focus = s.focus := rfl
@[simp] theorem State.modBoot_gather (f : Boot → Boot) : (s.modBoot f).gather = s.gather := rfl
@[simp] theorem State.modBoot_agenda (f : Boot → Boot) : (s.modBoot f).agenda = s.agenda := rfl
@[simp] theorem State.modSched_cores (f : Sched → Sched) : (s.modSched f).cores = s.cores := rfl
@[simp] theorem State.modSched_clusters (f : Sched → Sched) : (s.modSched f).clusters = s.clusters := rfl
@[simp] theorem State.modSched_dies (f : Sched → Sched) : (s.modSched f).dies = s.dies := rfl
@[simp] theorem State.modSched_stations (f : Sched → Sched) : (s.modSched f).stations = s.stations := rfl
@[simp] theorem State.modSched_ports (f : Sched → Sched) : (s.modSched f).ports = s.ports := rfl
@[simp] theorem State.modSched_boot (f : Sched → Sched) : (s.modSched f).boot = s.boot := rfl
@[simp] theorem State.modSched_power (f : Sched → Sched) : (s.modSched f).power = s.power := rfl
@[simp] theorem State.modSched_out (f : Sched → Sched) : (s.modSched f).out = s.out := rfl
@[simp] theorem State.modSched_cycles (f : Sched → Sched) : (s.modSched f).cycles = s.cycles := rfl
@[simp] theorem State.modSched_ticket (f : Sched → Sched) : (s.modSched f).ticket = s.ticket := rfl
@[simp] theorem State.modSched_free (f : Sched → Sched) : (s.modSched f).free = s.free := rfl
@[simp] theorem State.modSched_focus (f : Sched → Sched) : (s.modSched f).focus = s.focus := rfl
@[simp] theorem State.modSched_gather (f : Sched → Sched) : (s.modSched f).gather = s.gather := rfl
@[simp] theorem State.modSched_agenda (f : Sched → Sched) : (s.modSched f).agenda = s.agenda := rfl
@[simp] theorem State.send_cores (m : Message) : (s.send m).cores = s.cores := rfl
@[simp] theorem State.send_clusters (m : Message) : (s.send m).clusters = s.clusters := rfl
@[simp] theorem State.send_dies (m : Message) : (s.send m).dies = s.dies := rfl
@[simp] theorem State.send_stations (m : Message) : (s.send m).stations = s.stations := rfl
@[simp] theorem State.send_ports (m : Message) : (s.send m).ports = s.ports := rfl
@[simp] theorem State.send_boot (m : Message) : (s.send m).boot = s.boot := rfl
@[simp] theorem State.send_power (m : Message) : (s.send m).power = s.power := rfl
@[simp] theorem State.send_sched (m : Message) : (s.send m).sched = s.sched := rfl
@[simp] theorem State.send_cycles (m : Message) : (s.send m).cycles = s.cycles := rfl
@[simp] theorem State.send_ticket (m : Message) : (s.send m).ticket = s.ticket := rfl
@[simp] theorem State.send_free (m : Message) : (s.send m).free = s.free := rfl
@[simp] theorem State.send_focus (m : Message) : (s.send m).focus = s.focus := rfl
@[simp] theorem State.send_gather (m : Message) : (s.send m).gather = s.gather := rfl
@[simp] theorem State.send_agenda (m : Message) : (s.send m).agenda = s.agenda := rfl

end

/-! ### Teams -/

section
variable (s : State) (c q t u : Nat) (v : Option Team) (f : Team → Team)

@[simp] theorem State.team_setTeam_self : (s.setTeam c t v).team c t = v := by simp [State.team, State.setTeam]
@[simp] theorem State.team_setTeam_other (h : u ≠ t) : (s.setTeam c t v).team c u = s.team c u := by
  simp [State.team, State.setTeam, h]
theorem State.core_setTeam : (s.setTeam c t v).core c = { s.core c with teams := (s.core c).teams.set none t v } := by
  simp [State.setTeam]
@[simp] theorem State.core_setTeam_other (h : q ≠ c) : (s.setTeam c t v).core q = s.core q := by simp [State.setTeam, h]

theorem State.modTeam_of_some {s : State} {c t : Nat} {m : Team} (f : Team → Team) (h : s.team c t = some m) :
    s.modTeam c t f = s.setTeam c t (some (f m)) := by simp [State.modTeam, h]
theorem State.team_modTeam_self {s : State} {c t : Nat} {m : Team} (f : Team → Team) (h : s.team c t = some m) :
    (s.modTeam c t f).team c t = some (f m) := by simp [State.modTeam, h]
@[simp] theorem State.team_modTeam_other (h : u ≠ t) : (s.modTeam c t f).team c u = s.team c u := by
  unfold State.modTeam; split <;> simp [h]

/-- A change of a team changes nothing but its core. -/
theorem State.onlyCore_setTeam : OnlyCore s (s.setTeam c t v) c := State.onlyCore_modCore s c _
theorem State.onlyCore_modTeam : OnlyCore s (s.modTeam c t f) c := by
  unfold State.modTeam; split
  · exact State.onlyCore_setTeam s c t _
  · exact State.onlyCore_refl s c

end

/-! ### Every field of a team under an update of a part -/

section
variable (m : Team)

@[simp] theorem Team.modRegs_id (f : TeamRegs → TeamRegs) : (m.modRegs f).id = m.id := rfl
@[simp] theorem Team.modRegs_regs (f : TeamRegs → TeamRegs) : (m.modRegs f).regs = f m.regs := rfl
@[simp] theorem Team.modRegs_ctl (f : TeamRegs → TeamRegs) : (m.modRegs f).ctl = m.ctl := rfl
@[simp] theorem Team.modRegs_trap (f : TeamRegs → TeamRegs) : (m.modRegs f).trap = m.trap := rfl
@[simp] theorem Team.modRegs_lease (f : TeamRegs → TeamRegs) : (m.modRegs f).lease = m.lease := rfl
@[simp] theorem Team.modRegs_sched (f : TeamRegs → TeamRegs) : (m.modRegs f).sched = m.sched := rfl
@[simp] theorem Team.modRegs_seq (f : TeamRegs → TeamRegs) : (m.modRegs f).seq = m.seq := rfl
@[simp] theorem Team.modRegs_region (f : TeamRegs → TeamRegs) : (m.modRegs f).region = m.region := rfl
@[simp] theorem Team.modRegs_pend (f : TeamRegs → TeamRegs) : (m.modRegs f).pend = m.pend := rfl
@[simp] theorem Team.modRegs_rings (f : TeamRegs → TeamRegs) : (m.modRegs f).rings = m.rings := rfl
@[simp] theorem Team.modRegs_wdq (f : TeamRegs → TeamRegs) : (m.modRegs f).wdq = m.wdq := rfl
@[simp] theorem Team.modRegs_tally (f : TeamRegs → TeamRegs) : (m.modRegs f).tally = m.tally := rfl
@[simp] theorem Team.modRegs_mismatch (f : TeamRegs → TeamRegs) : (m.modRegs f).mismatch = m.mismatch := rfl
@[simp] theorem Team.modRegs_home (f : TeamRegs → TeamRegs) : (m.modRegs f).home = m.home := rfl
@[simp] theorem Team.modCtl_id (f : Ctl → Ctl) : (m.modCtl f).id = m.id := rfl
@[simp] theorem Team.modCtl_regs (f : Ctl → Ctl) : (m.modCtl f).regs = m.regs := rfl
@[simp] theorem Team.modCtl_ctl (f : Ctl → Ctl) : (m.modCtl f).ctl = f m.ctl := rfl
@[simp] theorem Team.modCtl_trap (f : Ctl → Ctl) : (m.modCtl f).trap = m.trap := rfl
@[simp] theorem Team.modCtl_lease (f : Ctl → Ctl) : (m.modCtl f).lease = m.lease := rfl
@[simp] theorem Team.modCtl_sched (f : Ctl → Ctl) : (m.modCtl f).sched = m.sched := rfl
@[simp] theorem Team.modCtl_seq (f : Ctl → Ctl) : (m.modCtl f).seq = m.seq := rfl
@[simp] theorem Team.modCtl_region (f : Ctl → Ctl) : (m.modCtl f).region = m.region := rfl
@[simp] theorem Team.modCtl_pend (f : Ctl → Ctl) : (m.modCtl f).pend = m.pend := rfl
@[simp] theorem Team.modCtl_rings (f : Ctl → Ctl) : (m.modCtl f).rings = m.rings := rfl
@[simp] theorem Team.modCtl_wdq (f : Ctl → Ctl) : (m.modCtl f).wdq = m.wdq := rfl
@[simp] theorem Team.modCtl_tally (f : Ctl → Ctl) : (m.modCtl f).tally = m.tally := rfl
@[simp] theorem Team.modCtl_mismatch (f : Ctl → Ctl) : (m.modCtl f).mismatch = m.mismatch := rfl
@[simp] theorem Team.modCtl_home (f : Ctl → Ctl) : (m.modCtl f).home = m.home := rfl
@[simp] theorem Team.modTrap_id (f : TeamTrap → TeamTrap) : (m.modTrap f).id = m.id := rfl
@[simp] theorem Team.modTrap_regs (f : TeamTrap → TeamTrap) : (m.modTrap f).regs = m.regs := rfl
@[simp] theorem Team.modTrap_ctl (f : TeamTrap → TeamTrap) : (m.modTrap f).ctl = m.ctl := rfl
@[simp] theorem Team.modTrap_trap (f : TeamTrap → TeamTrap) : (m.modTrap f).trap = f m.trap := rfl
@[simp] theorem Team.modTrap_lease (f : TeamTrap → TeamTrap) : (m.modTrap f).lease = m.lease := rfl
@[simp] theorem Team.modTrap_sched (f : TeamTrap → TeamTrap) : (m.modTrap f).sched = m.sched := rfl
@[simp] theorem Team.modTrap_seq (f : TeamTrap → TeamTrap) : (m.modTrap f).seq = m.seq := rfl
@[simp] theorem Team.modTrap_region (f : TeamTrap → TeamTrap) : (m.modTrap f).region = m.region := rfl
@[simp] theorem Team.modTrap_pend (f : TeamTrap → TeamTrap) : (m.modTrap f).pend = m.pend := rfl
@[simp] theorem Team.modTrap_rings (f : TeamTrap → TeamTrap) : (m.modTrap f).rings = m.rings := rfl
@[simp] theorem Team.modTrap_wdq (f : TeamTrap → TeamTrap) : (m.modTrap f).wdq = m.wdq := rfl
@[simp] theorem Team.modTrap_tally (f : TeamTrap → TeamTrap) : (m.modTrap f).tally = m.tally := rfl
@[simp] theorem Team.modTrap_mismatch (f : TeamTrap → TeamTrap) : (m.modTrap f).mismatch = m.mismatch := rfl
@[simp] theorem Team.modTrap_home (f : TeamTrap → TeamTrap) : (m.modTrap f).home = m.home := rfl
@[simp] theorem Team.modSched_id (f : TeamSched → TeamSched) : (m.modSched f).id = m.id := rfl
@[simp] theorem Team.modSched_regs (f : TeamSched → TeamSched) : (m.modSched f).regs = m.regs := rfl
@[simp] theorem Team.modSched_ctl (f : TeamSched → TeamSched) : (m.modSched f).ctl = m.ctl := rfl
@[simp] theorem Team.modSched_trap (f : TeamSched → TeamSched) : (m.modSched f).trap = m.trap := rfl
@[simp] theorem Team.modSched_lease (f : TeamSched → TeamSched) : (m.modSched f).lease = m.lease := rfl
@[simp] theorem Team.modSched_sched (f : TeamSched → TeamSched) : (m.modSched f).sched = f m.sched := rfl
@[simp] theorem Team.modSched_seq (f : TeamSched → TeamSched) : (m.modSched f).seq = m.seq := rfl
@[simp] theorem Team.modSched_region (f : TeamSched → TeamSched) : (m.modSched f).region = m.region := rfl
@[simp] theorem Team.modSched_pend (f : TeamSched → TeamSched) : (m.modSched f).pend = m.pend := rfl
@[simp] theorem Team.modSched_rings (f : TeamSched → TeamSched) : (m.modSched f).rings = m.rings := rfl
@[simp] theorem Team.modSched_wdq (f : TeamSched → TeamSched) : (m.modSched f).wdq = m.wdq := rfl
@[simp] theorem Team.modSched_tally (f : TeamSched → TeamSched) : (m.modSched f).tally = m.tally := rfl
@[simp] theorem Team.modSched_mismatch (f : TeamSched → TeamSched) : (m.modSched f).mismatch = m.mismatch := rfl
@[simp] theorem Team.modSched_home (f : TeamSched → TeamSched) : (m.modSched f).home = m.home := rfl

end

/-! ### What is left of a core -/

theorem OnlyTeam.refl (k : Core) (t : Nat) (slots : List Nat) : OnlyTeam k k t slots :=
  ⟨fun _ _ => ⟨rfl, rfl⟩, rfl, ⟨rfl, rfl⟩, rfl, fun _ _ => rfl, rfl, ⟨rfl, rfl, rfl⟩, rfl, ⟨rfl, rfl, rfl, rfl, rfl⟩, rfl⟩

theorem OnlyTeam.trans {k k' k'' : Core} {t : Nat} {slots : List Nat} (h : OnlyTeam k k' t slots) (g : OnlyTeam k' k'' t slots) :
    OnlyTeam k k'' t slots :=
  ⟨fun u hu => ⟨(g.store u hu).1.trans (h.store u hu).1, (g.store u hu).2.trans (h.store u hu).2⟩, g.sectors.trans h.sectors,
   ⟨g.acc.1.trans h.acc.1, g.acc.2.trans h.acc.2⟩, g.part.trans h.part, fun u hu => (g.teams u hu).trans (h.teams u hu),
   g.barriers.trans h.barriers,
   ⟨g.engines.1.trans h.engines.1, g.engines.2.1.trans h.engines.2.1, g.engines.2.2.trans h.engines.2.2⟩,
   g.inflight.trans h.inflight,
   ⟨g.caches.1.trans h.caches.1, g.caches.2.1.trans h.caches.2.1, g.caches.2.2.1.trans h.caches.2.2.1,
    g.caches.2.2.2.1.trans h.caches.2.2.2.1, g.caches.2.2.2.2.trans h.caches.2.2.2.2⟩, g.health.trans h.health⟩

theorem OnlyTeam.setTeam (s : State) (c t : Nat) (v : Option Team) (slots : List Nat) :
    OnlyTeam (s.core c) ((s.setTeam c t v).core c) t slots := by
  rw [State.core_setTeam]
  exact ⟨fun _ _ => ⟨rfl, rfl⟩, rfl, ⟨rfl, rfl⟩, rfl, fun u hu => by simp [hu], rfl, ⟨rfl, rfl, rfl⟩, rfl, ⟨rfl, rfl, rfl, rfl, rfl⟩, rfl⟩

theorem OnlyTeam.modTeam (s : State) (c t : Nat) (f : Team → Team) (slots : List Nat) :
    OnlyTeam (s.core c) ((s.modTeam c t f).core c) t slots := by
  unfold State.modTeam; split
  · exact OnlyTeam.setTeam s c t _ slots
  · exact OnlyTeam.refl _ t slots

theorem OnlyTeam.setSreg (k : Core) (m : Team) (i : Nat) (v : Marked) (t : Nat) (slots : List Nat) (h : m.sUnit i ∈ slots) :
    OnlyTeam k (k.setSreg m i v) t slots :=
  ⟨fun u hu => by
      have hne : u ≠ m.sUnit i := fun e => hu (e ▸ h)
      simp [Core.setSreg, Core.setUnit, hne],
   rfl, ⟨rfl, rfl⟩, rfl, fun _ _ => rfl, rfl, ⟨rfl, rfl, rfl⟩, rfl, ⟨rfl, rfl, rfl, rfl, rfl⟩, rfl⟩

/-! ### Registers -/

section
variable (s : State) (c t : Nat) (m : Team)

/-- A scalar register reads as it was last written. -/
@[simp] theorem State.sreg_setSreg_self (i : Nat) (v : Marked) : (s.setSreg c m i v).sreg c m i = v := by
  simp [State.sreg, State.setSreg, Core.sreg, Core.setSreg, Core.setUnit]

theorem Team.sUnit_inj {i j : Nat} (h : m.sUnit i = m.sUnit j) : i = j := by unfold Team.sUnit at h; omega

/-- A write of a scalar register leaves the others alone. -/
@[simp] theorem State.sreg_setSreg_other {i j : Nat} (v : Marked) (h : j ≠ i) : (s.setSreg c m i v).sreg c m j = s.sreg c m j := by
  have hu : m.sUnit j ≠ m.sUnit i := fun e => h (m.sUnit_inj e)
  simp [State.sreg, State.setSreg, Core.sreg, Core.setSreg, Core.setUnit, hu]

@[simp] theorem State.team_setSreg (i u : Nat) (v : Marked) : (s.setSreg c m i v).team c u = s.team c u := by
  simp [State.team, State.setSreg, Core.setSreg, Core.setUnit]

@[simp] theorem State.sreg_setTeam (u i : Nat) (v : Option Team) : (s.setTeam c u v).sreg c m i = s.sreg c m i := by
  simp [State.sreg, State.setTeam, Core.sreg]

@[simp] theorem State.sreg_modTeam (u i : Nat) (f : Team → Team) : (s.modTeam c u f).sreg c m i = s.sreg c m i := by
  unfold State.modTeam; split <;> simp

@[simp] theorem State.vreg_setTeam (u j l : Nat) (v : Option Team) : (s.setTeam c u v).vreg c m j l = s.vreg c m j l := by
  simp [State.vreg, State.setTeam, Core.vreg]

@[simp] theorem State.vreg_modTeam (u j l : Nat) (f : Team → Team) : (s.modTeam c u f).vreg c m j l = s.vreg c m j l := by
  unfold State.modTeam; split <;> simp

end

end Sys2Proof.Machine
end

