-- ==== Sys2Proof/Laws/LaneWord.lean ====
section
/-!
SUPPORT. What a lane word does once it may take effect: the checks let it pass, its body runs over the lanes in which it runs, and the split
goes on.
-/
namespace Sys2Proof.Machine

theorem setReg_getD {α : Type} (d : α) (n : Nat) (r : List α) (i : Nat) (v : α) (j : Nat) (h : j < n) :
    (setReg d n r i v).getD j d = if j = i then v else r.getD j d := by
  simp [setReg, List.getD, h]

theorem setBit_getLsbD {w : Nat} (v : BitVec w) (i j : Nat) (b : Bool) (hj : j < w) :
    (setBit v i b).getLsbD j = if j = i then b else v.getLsbD j := by
  have hp : (BitVec.ofNat w (2 ^ i)).getLsbD j = decide (j = i) := by
    rw [BitVec.getLsbD_ofNat, Nat.testBit_two_pow]
    simp [hj, eq_comm]
  unfold setBit
  cases b
  · simp only [Bool.false_eq_true, if_false, BitVec.getLsbD_and, BitVec.getLsbD_not, hp, hj, decide_true, Bool.true_and]
    by_cases h : j = i <;> simp [h]
  · simp only [if_true, BitVec.getLsbD_or, hp]
    by_cases h : j = i <;> simp [h]

theorem Ctl.pred_setPred (x : Ctl) (n k l L : Nat) (v mk : Bool) (hn : n ≤ 7) (hk : k ≤ 7) (hl : l < 1024) :
    ((x.setPred k L v mk).pred n l, (x.setPred k L v mk).predMark n l) =
      if n = k ∧ n ≠ 0 ∧ l = L then (v, mk) else (x.pred n l, x.predMark n l) := by
  unfold Ctl.setPred
  by_cases hk0 : k = 0
  · by_cases hn0 : n = 0
    · simp [hk0, hn0]
    · have : ¬ n = k := by omega
      simp [hk0, hn0]
  · rw [if_neg hk0]
    by_cases hn0 : n = 0
    · subst hn0; simp [Ctl.pred, Ctl.predMark]
    · have h7 : n - 1 < 7 := by omega
      by_cases hnk : n = k
      · subst hnk
        simp only [Ctl.pred, Ctl.predMark, setReg_getD _ _ _ _ _ _ h7, if_true, setBit_getLsbD _ _ _ _ hl]
        by_cases hL : l = L <;> simp [hL, hn0]
      · have hne : ¬ n - 1 = k - 1 := by omega
        simp only [Ctl.pred, Ctl.predMark, setReg_getD _ _ _ _ _ _ h7, if_neg hne, if_neg (fun h : n = k ∧ _ => hnk h.1)]

/-- A write of a predicate leaves the rest of the control store alone. -/
theorem Ctl.setPred_rest (x : Ctl) (n l : Nat) (v m : Bool) :
    { x.setPred n l v m with preds := x.preds, predMarks := x.predMarks } = x := by
  unfold Ctl.setPred; split <;> rfl

theorem Core.vreg_setUnit (k : Core) (m : Team) (u : Nat) (v : Marked) (j l : Nat) :
    (k.setUnit u v).vreg m j l = if m.vUnit j l = u then v else k.vreg m j l := by
  by_cases h : m.vUnit j l = u <;> simp [Core.vreg, Core.setUnit, h]

theorem OnlyTeam.setUnit (k : Core) (u : Nat) (v : Marked) (t : Nat) (slots : List Nat) (h : u ∈ slots) :
    OnlyTeam k (k.setUnit u v) t slots :=
  ⟨fun w hw => by
      have hne : w ≠ u := fun e => hw (e ▸ h)
      simp [Core.setUnit, hne],
   rfl, ⟨rfl, rfl⟩, rfl, fun _ _ => rfl, rfl, ⟨rfl, rfl, rfl⟩, rfl, ⟨rfl, rfl, rfl, rfl, rfl⟩, rfl⟩

theorem Team.vUnit_inj (m : Team) {j l l' : Nat} (h : m.vUnit j l = m.vUnit j l') : l = l' := by
  unfold Team.vUnit at h; omega

/-- What writing lane by lane gives for one register and no second one. -/
theorem writeLanes_spec (k : Core) (m : Team) (f : Lane) (ls : List Nat) (fn : Nat → LaneOut) (t : Nat) (slots : List Nat)
    (hd2 : ∀ l, (fn l).d2 = none) (hs : f.vd.toNat < 240 → ∀ l ∈ ls, m.vUnit f.vd.toNat l ∈ slots) :
    let r := writeLanes k m f (ls.map fun l => (l, fn l))
    OnlyTeam k r.1 t slots ∧ r.1.teams = k.teams ∧
    (f.vd.toNat < 240 → ∀ l, r.1.vreg m f.vd.toNat l =
      if l ∈ ls then ((fn l).d).getD (k.vreg m f.vd.toNat l) else k.vreg m f.vd.toNat l) := by
  intro r
  show OnlyTeam k (writeLanes k m f (ls.map fun l => (l, fn l))).1 t slots ∧ _ ∧ _
  induction ls generalizing k with
  | nil => exact ⟨OnlyTeam.refl k t slots, rfl, fun _ l => by simp [r, writeLanes]⟩
  | cons a ls ih =>
    simp only [r] at ih ⊢
    let k1 : Core := match (fn a).d with | some v => if f.vd.toNat < 240 then k.setVreg m f.vd.toNat a v else k | none => k
    have hstep : (writeLanes k m f ((a :: ls).map fun l => (l, fn l))).1 = (writeLanes k1 m f (ls.map fun l => (l, fn l))).1 := by
      simp only [writeLanes, List.map_cons, List.foldl_cons, hd2, ite_self]
      rfl
    have h1 : OnlyTeam k k1 t slots ∧ k1.teams = k.teams ∧ (f.vd.toNat < 240 → ∀ l, k1.vreg m f.vd.toNat l =
        if l = a then ((fn a).d).getD (k.vreg m f.vd.toNat l) else k.vreg m f.vd.toNat l) := by
      simp only [k1]
      cases hv : (fn a).d with
      | none => exact ⟨OnlyTeam.refl k t slots, rfl, fun _ l => by simp⟩
      | some v =>
        by_cases hvd : f.vd.toNat < 240
        · simp only [hvd, if_true]
          refine ⟨OnlyTeam.setUnit k _ v t slots (hs hvd a (by simp)), rfl, fun _ l => ?_⟩
          rw [Core.setVreg, Core.vreg_setUnit]
          by_cases hl : l = a
          · subst hl; simp
          · have : ¬ m.vUnit f.vd.toNat l = m.vUnit f.vd.toNat a := fun e => hl (m.vUnit_inj e)
            simp [this, hl]
        · simp only [hvd, if_false]
          exact ⟨OnlyTeam.refl k t slots, trivial, fun h => absurd h (by simp)⟩
    obtain ⟨ho, ht, hr⟩ := ih k1 (fun h l hl => hs h l (by simp [hl]))
    rw [hstep]
    refine ⟨h1.1.trans ho, ht.trans h1.2.1, fun hvd l => ?_⟩
    rw [hr hvd l, h1.2.2 hvd l]
    by_cases hla : l = a <;> by_cases hll : l ∈ ls <;> simp [hla, hll]
    all_goals (cases hv : (fn a).d <;> simp_all)

/-- What writing lane by lane gives for the predicates. -/
theorem writeLanes_preds (k : Core) (m : Team) (f : Lane) (ls : List Nat) (fn : Nat → LaneOut) (hl : ∀ l ∈ ls, l < 1024) :
    let x := (writeLanes k m f (ls.map fun l => (l, fn l))).2
    (∀ n l, n ≤ 7 → (x.pred n l, x.predMark n l) =
      if n = f.pd.toNat ∧ n ≠ 0 ∧ l ∈ ls then ((fn l).p).getD (m.ctl.pred n l, m.ctl.predMark n l)
      else (m.ctl.pred n l, m.ctl.predMark n l)) ∧ { x with preds := m.ctl.preds, predMarks := m.ctl.predMarks } = m.ctl := by
  intro x
  have key : ∀ (ls : List Nat) (y : Ctl), (∀ l ∈ ls, l < 1024) →
      let z := (ls.map fun l => (l, fn l)).foldl (fun (y : Ctl) e => match e.2.p with | some (v, mk) => y.setPred f.pd.toNat e.1 v mk | none => y) y
      (∀ n l, n ≤ 7 → (z.pred n l, z.predMark n l) =
        if n = f.pd.toNat ∧ n ≠ 0 ∧ l ∈ ls then ((fn l).p).getD (y.pred n l, y.predMark n l) else (y.pred n l, y.predMark n l)) ∧
      { z with preds := y.preds, predMarks := y.predMarks } = y := by
    intro ls
    induction ls with
    | nil => intro y _; simp
    | cons a ls ih =>
      intro y hls
      simp only [List.map_cons, List.foldl_cons]
      have ih := ih (match (fn a).p with | some (v, mk) => y.setPred f.pd.toNat a v mk | none => y) (fun l h => hls l (by simp [h]))
      have ha : a < 1024 := hls a (by simp)
      constructor
      · intro n l hn
        rw [ih.1 n l hn]
        by_cases hlt : l < 1024
        · cases hp : (fn a).p with
          | none =>
            by_cases hla : l = a
            · subst hla; by_cases hll : l ∈ ls <;> simp [hll, hp]
            · by_cases hll : l ∈ ls <;> simp [hll, hla]
          | some b =>
            simp only
            rw [Ctl.pred_setPred y n f.pd.toNat l a b.1 b.2 hn (by have := f.pd.isLt; omega) hlt]
            by_cases hla : l = a
            · subst hla
              by_cases hn' : n = f.pd.toNat ∧ n ≠ 0 <;> by_cases hll : l ∈ ls <;> simp_all
            · by_cases hn' : n = f.pd.toNat ∧ n ≠ 0 <;> by_cases hll : l ∈ ls <;> simp_all
        · have hla : l ≠ a := fun e => hlt (e ▸ ha)
          have hll : l ∉ ls := fun h => hlt (hls l (by simp [h]))
          have hb : ∀ z : Mask, z.getLsbD l = false := fun z => BitVec.getLsbD_of_ge z l (by omega)
          simp only [hll, hla, and_false, if_false, List.mem_cons, or_self]
          simp [Ctl.pred, Ctl.predMark, hb]
      · have h2 := ih.2
        revert h2
        cases hp : (fn a).p with
        | none => exact id
        | some b =>
          intro h2
          exact (congrArg (fun z : Ctl => { z with preds := y.preds, predMarks := y.predMarks }) h2).trans
            (Ctl.setPred_rest y f.pd.toNat a b.1 b.2)
  exact key ls m.ctl hl

/-! ### The checks -/

theorem mem_runningLanes {m : Team} {p : Split} {f : Lane} {l : Nat} (h : l ∈ runningLanes m p f) :
    l ∈ lanesOf (m.active p) m.id.lanes ∧ laneGuard m f l = true := List.mem_filter.mp h

theorem lt_of_mem_runningLanes {m : Team} {p : Split} {f : Lane} {l : Nat} (h : l ∈ runningLanes m p f) :
    l < m.id.lanes ∧ l < 1024 := by
  have h1 := List.mem_filter.mp (mem_runningLanes h).1
  refine ⟨List.mem_range.mp h1.1, ?_⟩
  rcases Nat.lt_or_ge l 1024 with hlt | hge
  · exact hlt
  · rw [BitVec.getLsbD_of_ge _ l hge] at h1
    exact absurd h1.2 (by simp)

/-- The checks of R43 let a ready lane word pass. -/
theorem laneCheck_ready {s : State} {c t i : Nat} {m : Team} {p : Split} {f : Lane} {u : LaneUse} {sp : LaneSpec}
    (h : LaneReady s c t m i p f (sourcesOf u) sp.eat (u.vd == .op) sp.preds) (hd : sp.pairD = false) (hb : sp.pairB = false)
    (hsd : sp.scalarD = none) (hi : sp.illegal = false) :
    laneCheck s ⟨c, t, m, i, p, f, runningLanes m p f, laneSource s c m p f⟩ u sp (lanesOf (m.active p) m.id.lanes) = none := by
  have h1 : (u.vd == .op && !dstOk m f.vd.toNat false) = false := by
    cases hv : (u.vd == FieldUse.op)
    · rfl
    · simp [h.dest hv]
  have h2 : ((sourcesOf u).any fun y => !srcOk m f false y) = false := by
    rw [List.any_eq_false]; intro y hy; simp [h.sources y hy]
  have h3 : expiredLatch p f u = none := by
    unfold expiredLatch
    rw [List.find?_eq_none]
    intro j hj
    obtain ⟨y, hy, rfl⟩ := List.mem_map.mp hj
    obtain ⟨hy, hl⟩ := List.mem_filter.mp hy
    obtain ⟨e, he, ha⟩ := h.latched y hy hl
    rw [he]
    have hle : ¬ (e.age + 1 > 2) := by omega
    simp only [decide_eq_true_eq]
    exact hle
  have h4 : ((((sourcesOf u).filter fun y => !latchOf f y).flatMap fun y => namedRegs (codeOf f y) false) ++
      (if u.vd == .op && true then namedRegs f.vd.toNat false else [])).find? (fun j => p.longs.getLsbD j) = none := by
    rw [List.find?_eq_none]
    intro j hj
    rcases List.mem_append.mp hj with hj | hj
    · obtain ⟨y, hy, hj⟩ := List.mem_flatMap.mp hj
      obtain ⟨hy, hl⟩ := List.mem_filter.mp hy
      simp only [namedRegs, Bool.false_eq_true, if_false] at hj
      split at hj
      · rename_i hlt
        simp only [List.mem_singleton] at hj
        subst hj; simp [h.idle y hy (by simpa using hl) hlt]
      · cases hj
    · split at hj
      · rename_i hv
        rw [Bool.and_true] at hv
        simp only [namedRegs, Bool.false_eq_true, if_false] at hj
        split at hj
        · rename_i hlt
          simp only [List.mem_singleton] at hj
          subst hj; simp [h.idleDest (by simpa using hv) hlt]
        · cases hj
      · cases hj
  have h5 : m.ctl.policy.getLsbD 0 = true →
      (consumed ⟨c, t, m, i, p, f, runningLanes m p f, laneSource s c m p f⟩ sp (lanesOf (m.active p) m.id.lanes)).1 = [] := by
    intro hp
    unfold consumed
    rw [List.filter_eq_nil_iff]
    intro l hl
    have hg : m.ctl.predMark f.pg.toNat l = false := h.unmarked l hl
    simp only [hg, Bool.and_false, Bool.false_or]
    by_cases hr : (runningLanes m p f).contains l = true
    · have hr' : l ∈ runningLanes m p f := by simpa using hr
      obtain ⟨he, hk⟩ := h.clean hp l hr'
      have e1 : (sp.preds.any fun n => m.ctl.predMark n l) = false := by
        rw [List.any_eq_false]; intro n hn; simp [hk n hn]
      have e2 : (sp.eat.any fun y => (laneSource s c m p f y l).mark) = false := by
        rw [List.any_eq_false]; intro y hy; simp [he y hy]
      simp [e1, e2]
    · rw [Bool.not_eq_true] at hr
      rw [hr]; simp
  have h6 : (((f.pg.toNat :: f.pd.toNat :: sp.preds).filter (· != 0)).map (240 + ·)).find? (fun j => p.longs.getLsbD j) = none := by
    rw [List.find?_eq_none]; intro j hj
    obtain ⟨n, hn, rfl⟩ := List.mem_map.mp hj
    obtain ⟨hn, h0⟩ := List.mem_filter.mp hn
    simp [h.pidle n hn (by simpa using h0)]
  unfold laneCheck
  simp only [hsd, hd, hb, hi, Bool.false_and, Option.isNone_none, h1, h2, h3, Bool.or_self, Bool.false_eq_true, if_false, List.find?_append, h4,
    h6, Option.or_none]
  by_cases hp : m.ctl.policy.getLsbD 0 = true
  · simp only [hp, if_true]
    have := h5 hp
    cases hc : consumed ⟨c, t, m, i, p, f, runningLanes m p f, laneSource s c m p f⟩ sp (lanesOf (m.active p) m.id.lanes) with
    | mk a b => rw [hc] at this; simp only at this; subst this; rfl
  · simp only [hp, if_false, Bool.false_eq_true]

/-! ### The word -/

/-- A ready word runs its body. -/
theorem laneWord_ready {s : State} {c t i : Nat} {m : Team} {p : Split} {f : Lane} {u : LaneUse} {sp : LaneSpec}
    (body : LaneCtx → State → LaneEff)
    (h : LaneReady s c t m i p f (sourcesOf u) sp.eat (u.vd == .op) sp.preds) (hd : sp.pairD = false) (hb : sp.pairB = false)
    (hsd : sp.scalarD = none) (hi : sp.illegal = false) (hg : sp.guarded = true) :
    laneWord f u sp body s =
      match body (heldCtx s c t m i p f (longRegs f u sp) true sp.noisy) (heldState s c t m i p f (longRegs f u sp) true sp.noisy) with
      | .trap r => .next (raise s c t m ⟨r, some (i, p.lpc), none⟩)
      | .wait => .next (s.laneServed c t)
      | .overflow => .next (s.overflow c t)
      | .commit => .next (commitLane (s.laneServed c t) c t m)
      | .next s' => .next (placeSplit s' c t i (p.lpc + 12))
      | .goto s' pc => .next (placeSplit s' c t i pc)
      | .gone s' => .next (s'.settle c t) := by
  have hc := laneCheck_ready h hd hb hsd hi
  have hm : ((lanesOf (m.active p) m.id.lanes).any fun l => m.ctl.predMark f.pg.toNat l) = false := by
    rw [List.any_eq_false]; intro l hl; simp [h.unmarked l hl]
  have hc' : laneCheck s ⟨c, t, m, i, p, f, (lanesOf (m.active p) m.id.lanes).filter (laneGuard m f), laneSource s c m p f⟩ u sp
      (lanesOf (m.active p) m.id.lanes) = none := hc
  unfold laneWord
  simp only [h.focus, h.team, h.split, hg, if_true, hc', hm, Bool.true_and, noteControl, Bool.not_false]
  rw [← h.focus]
  rfl

/-- A word that issues runs its body. -/
theorem laneWord_issues {s : State} {c t i : Nat} {m : Team} {p : Split} {f : Lane} {u : LaneUse} {sp : LaneSpec}
    (body : LaneCtx → State → LaneEff) (h : LaneIssues s c t m i p f u sp) :
    laneWord f u sp body s =
      match body (heldCtx s c t m i p f (longRegs f u sp) sp.guarded sp.noisy) (heldState s c t m i p f (longRegs f u sp) sp.guarded sp.noisy) with
      | .trap r => .next (raise s c t m ⟨r, some (i, p.lpc), none⟩)
      | .wait => .next (s.laneServed c t)
      | .overflow => .next (s.overflow c t)
      | .commit => .next (commitLane (s.laneServed c t) c t m)
      | .next s' => .next (placeSplit s' c t i (p.lpc + 12))
      | .goto s' pc => .next (placeSplit s' c t i pc)
      | .gone s' => .next (s'.settle c t) := by
  have hm : (sp.guarded && (lanesOf (m.active p) m.id.lanes).any fun l => m.ctl.predMark f.pg.toNat l) = false := by
    by_cases hg : sp.guarded = true
    · rw [hg, Bool.true_and, List.any_eq_false]; intro l hl; simp [h.unmarked hg l hl]
    · simp [hg]
  have hc : laneCheck s ⟨c, t, m, i, p, f, (if sp.guarded then (lanesOf (m.active p) m.id.lanes).filter (laneGuard m f) else
      lanesOf (m.active p) m.id.lanes), laneSource s c m p f⟩ u sp (lanesOf (m.active p) m.id.lanes) = none := h.passes
  unfold laneWord
  simp only [h.focus, h.team, h.split, hc, hm, noteControl, Bool.not_false, if_true]
  rw [← h.focus]
  rfl

/-- A word whose body ends in `s1` goes on from there at `pc`. -/
theorem laneGoesOn_placeSplit {s1 : State} {c t i : Nat} {m1 : Team} {p1 : Split} {pc : Word} (ht : s1.team c t = some m1)
    (hp : m1.ctl.split i = some p1) : LaneGoesOn (.next (placeSplit s1 c t i pc)) s1 c t i pc := by
  refine ⟨_, m1, p1, rfl, ht, hp, ?_, OnlyTeam.modTeam _ c t _ _, State.onlyCore_modTeam _ c t _⟩
  unfold placeSplit
  rw [State.team_modTeam_self _ ht]
  simp only [Team.modCtl, hp]

/-- The team as the body of a word finds it. -/
def heldTeam (s : State) (c : Nat) (m : Team) (i : Nat) (p : Split) (f : Lane) (longs : List Nat) : Team :=
  { m with
    ctl := { m.ctl.setSplit i (some (heldSplit s c m p f longs)) with turn := if f.w then (i + 1) % 16 else i }
    sched := { m.sched with lastLane := s.cycles, parked := m.sched.parked || f.w } }

theorem heldState_spec {s : State} {c t i : Nat} {m : Team} {p : Split} {f : Lane} {longs : List Nat} (h : s.team c t = some m) :
    (heldState s c t m i p f longs).team c t = some (heldTeam s c m i p f longs) ∧
    OnlyTeam (s.core c) ((heldState s c t m i p f longs).core c) t [] ∧ OnlyCore s (heldState s c t m i p f longs) c ∧
    (∀ j l, (heldState s c t m i p f longs).vreg c m j l = s.vreg c m j l) ∧
    (heldState s c t m i p f longs).team c t = some (heldTeam s c m i p f longs) := by
  unfold heldState
  by_cases hf : f.lr = 0
  · simp only [hf, if_true]
    have ht := State.team_modTeam_self (fun n => { n with
      ctl := { n.ctl.setSplit i (some (heldSplit s c m p f longs)) with turn := if f.w then (i + 1) % 16 else i }
      sched := { n.sched with lastLane := s.cycles, parked := n.sched.parked || f.w } }) h
    exact ⟨ht, OnlyTeam.modTeam _ _ _ _ _, State.onlyCore_modTeam _ _ _ _, fun j l => by simp, ht⟩
  · simp only [hf, if_false]
    have h1 : ({ s with free := s.free + 1024 } : State).team c t = some m := h
    have ht := State.team_modTeam_self (fun n => { n with
      ctl := { n.ctl.setSplit i (some (heldSplit s c m p f longs)) with turn := if f.w then (i + 1) % 16 else i }
      sched := { n.sched with lastLane := s.cycles, parked := n.sched.parked || f.w } }) h1
    refine ⟨ht, OnlyTeam.modTeam { s with free := s.free + 1024 } c t _ _,
      OnlyCore.trans (s' := { s with free := s.free + 1024 }) ⟨rfl, fun _ _ => rfl, rfl, rfl, rfl, rfl, rfl, rfl, rfl, rfl⟩
        (State.onlyCore_modTeam _ c t _), fun j l => ?_, ht⟩
    rw [State.vreg_modTeam]; rfl

theorem OnlyTeam.mono {k k' : Core} {t : Nat} {a b : List Nat} (h : OnlyTeam k k' t a) (hab : ∀ u ∈ a, u ∈ b) : OnlyTeam k k' t b :=
  ⟨fun u hu => h.store u fun hx => hu (hab u hx), h.sectors, h.acc, h.part, h.teams, h.barriers, h.engines, h.inflight, h.caches, h.health⟩

theorem State.addFlags_team {s : State} {c t : Nat} {m : Team} (fl : Flags) (h : s.team c t = some m) :
    (s.addFlags c t fl).team c t = some { m with regs := { m.regs with fpflags := m.regs.fpflags ||| fl.setWidth 64 } } := by
  unfold State.addFlags
  by_cases hf : fl = 0
  · subst hf; simp [h]
  · rw [if_neg hf]; exact State.team_modTeam_self _ h

theorem State.addFlags_only (s : State) (c t : Nat) (fl : Flags) :
    OnlyTeam (s.core c) ((s.addFlags c t fl).core c) t [] ∧ OnlyCore s (s.addFlags c t fl) c ∧
    ∀ m j l, (s.addFlags c t fl).vreg c m j l = s.vreg c m j l := by
  unfold State.addFlags
  split
  · exact ⟨OnlyTeam.refl _ _ _, State.onlyCore_refl _ _, fun _ _ _ => rfl⟩
  · exact ⟨OnlyTeam.modTeam _ _ _ _ _, State.onlyCore_modTeam _ _ _ _, fun _ _ _ => by simp⟩

/-- A change of a team's split that keeps all but its place and its spin detector. -/
theorem State.modSplit_spec {s : State} {c t i : Nat} {m : Team} {q : Split} (g : Split → Split) (h : s.team c t = some m)
    (hq : m.ctl.split i = some q) :
    let s' := s.modTeam c t fun m => m.modCtl fun y => match y.split i with | some q => y.setSplit i (some (g q)) | none => y
    s'.team c t = some { m with ctl := m.ctl.setSplit i (some (g q)) } ∧ OnlyTeam (s.core c) (s'.core c) t [] ∧ OnlyCore s s' c ∧
    ∀ n j l, s'.vreg c n j l = s.vreg c n j l := by
  intro s'
  refine ⟨?_, OnlyTeam.modTeam _ _ _ _ _, State.onlyCore_modTeam _ _ _ _, fun _ _ _ => by simp [s']⟩
  rw [State.team_modTeam_self _ h]; simp [Team.modCtl, hq]

/-- A word that computes lane by lane and writes at once completes, unless it would raise an enabled flag. -/
theorem laneAlu_completes {s : State} {c t i : Nat} {m : Team} {p : Split} {f : Lane} {u : LaneUse} {sp : LaneSpec}
    {fn : LaneCtx → State → Nat → LaneOut}
    (h : LaneReady s c t m i p f (sourcesOf u) sp.eat (u.vd == .op) sp.preds) (hd : sp.pairD = false) (hb : sp.pairB = false)
    (hsd : sp.scalarD = none) (hi : sp.illegal = false) (hg : sp.guarded = true) (hl : sp.long = false)
    (hn : sp.noisy = false)
    (h2 : ∀ l, (fn (heldCtx s c t m i p f []) (heldState s c t m i p f []) l).d2 = none)
    (ht : fpTrap (m.blockOf (heldSplit s c m p f [])).fpctl
      ((runningLanes m p f).map fun l => (l, fn (heldCtx s c t m i p f []) (heldState s c t m i p f []) l)) = none) :
    LaneCompletes (laneAlu f u sp fn s) s c t m i p f
      (fun l => (fn (heldCtx s c t m i p f []) (heldState s c t m i p f []) l).d)
      (fun l => (fn (heldCtx s c t m i p f []) (heldState s c t m i p f []) l).p)
      (allFlags ((runningLanes m p f).map fun l => (l, fn (heldCtx s c t m i p f []) (heldState s c t m i p f []) l))) := by
  obtain ⟨hteam, hot, hoc, hvr, -⟩ := heldState_spec (i := i) (p := p) (f := f) (longs := []) h.team
  unfold laneAlu
  rw [laneWord_ready _ h hd hb hsd hi hg]
  simp only [longRegs, hl, hn, Bool.false_eq_true, if_false]
  change LaneCompletes (match (match fpTrap (m.blockOf (heldSplit s c m p f [])).fpctl
      ((runningLanes m p f).map fun l => (l, fn (heldCtx s c t m i p f []) (heldState s c t m i p f []) l)) with
    | some r => LaneEff.trap r
    | none => _) with
    | .trap r => _ | .wait => _ | .overflow => _ | .commit => _ | .next s' => _ | .goto s' pc => _ | .gone s' => _) _ _ _ _ _ _ _ _ _ _
  rw [ht]
  simp only [show (heldCtx s c t m i p f []).c = c from rfl, show (heldCtx s c t m i p f []).t = t from rfl, hteam]
  change LaneCompletes (Host.Outcome.next (placeSplit (laneSpin (heldState s c t m i p f [])
      ((((heldState s c t m i p f []).setCore c (writeLanes ((heldState s c t m i p f []).core c) (heldTeam s c m i p f []) f
          ((runningLanes m p f).map fun l => (l, fn (heldCtx s c t m i p f []) (heldState s c t m i p f []) l))).1).setTeam c t
        (some { heldTeam s c m i p f [] with
          ctl := (writeLanes ((heldState s c t m i p f []).core c) (heldTeam s c m i p f []) f
            ((runningLanes m p f).map fun l => (l, fn (heldCtx s c t m i p f []) (heldState s c t m i p f []) l))).2 })).addFlags c t
        (allFlags ((runningLanes m p f).map fun l => (l, fn (heldCtx s c t m i p f []) (heldState s c t m i p f []) l))))
      (heldCtx s c t m i p f [])) c t i (p.lpc + 12))) _ _ _ _ _ _ _ _ _ _
  generalize hfn : fn (heldCtx s c t m i p f []) (heldState s c t m i p f []) = g at h2 ⊢
  generalize hs1 : heldState s c t m i p f [] = s1 at hteam hot hoc hvr ⊢
  have hw := writeLanes_spec (s1.core c) (heldTeam s c m i p f []) f (runningLanes m p f) g t (destSlots m p f) h2 (by
    intro hv l hl'
    simp only [destSlots, hv, if_true]
    exact List.mem_map_of_mem hl')
  have hp := writeLanes_preds (s1.core c) (heldTeam s c m i p f []) f (runningLanes m p f) g
    (fun l hl' => (lt_of_mem_runningLanes hl').2)
  generalize hr : writeLanes (s1.core c) (heldTeam s c m i p f []) f ((runningLanes m p f).map fun l => (l, g l)) = r at hw hp ⊢
  obtain ⟨hwo, hwt, hwv⟩ := hw
  obtain ⟨hpv, hpr⟩ := hp
  have hsplits := congrArg Ctl.splits hpr
  change r.2.splits = (m.ctl.setSplit i (some (heldSplit s c m p f []))).splits at hsplits
  have hlive' := congrArg Ctl.live hpr
  change r.2.live = m.ctl.live at hlive'
  have hjoins' := congrArg Ctl.joins hpr
  change r.2.joins = m.ctl.joins at hjoins'
  have hspills' := congrArg Ctl.spills hpr
  change r.2.spills = m.ctl.spills at hspills'
  have hqueue' := congrArg Ctl.queue hpr
  change r.2.queue = m.ctl.queue at hqueue'
  have hrunning' := congrArg Ctl.running hpr
  change r.2.running = m.ctl.running at hrunning'
  have hhqueue' := congrArg Ctl.hqueue hpr
  change r.2.hqueue = m.ctl.hqueue at hhqueue'
  have hhrunning' := congrArg Ctl.hrunning hpr
  change r.2.hrunning = m.ctl.hrunning at hhrunning'
  have hpolicy' := congrArg Ctl.policy hpr
  change r.2.policy = m.ctl.policy at hpolicy'
  have hcpois' := congrArg Ctl.cpois hpr
  change r.2.cpois = m.ctl.cpois at hcpois'
  have hsubst' := congrArg Ctl.subst hpr
  change r.2.subst = m.ctl.subst at hsubst'
  have hq : r.2.split i = some (heldSplit s c m p f []) := by
    simp only [Ctl.split, hsplits, Ctl.setSplit, SMap.get_set_self]
  -- the state once the registers and predicates are written
  have hA : ((s1.setCore c r.1).setTeam c t (some { heldTeam s c m i p f [] with ctl := r.2 })).team c t =
      some { heldTeam s c m i p f [] with ctl := r.2 } := State.team_setTeam_self _ _ _ _
  generalize hsA : (s1.setCore c r.1).setTeam c t (some { heldTeam s c m i p f [] with ctl := r.2 }) = sA at hA ⊢
  have hAo : OnlyTeam (s1.core c) (sA.core c) t (destSlots m p f) ∧ OnlyCore s1 sA c ∧ ∀ n j l, sA.vreg c n j l = r.1.vreg n j l := by
    rw [← hsA]
    refine ⟨?_, (State.onlyCore_modCore s1 c fun _ => r.1).trans (State.onlyCore_setTeam _ _ _ _), fun n j l => ?_⟩
    · have h2' := OnlyTeam.setTeam (s1.setCore c r.1) c t (some { heldTeam s c m i p f [] with ctl := r.2 }) (destSlots m p f)
      rw [State.core_setCore_self] at h2'
      exact hwo.trans h2'
    · rw [State.vreg_setTeam]; simp [State.vreg]
  generalize hfl : allFlags ((runningLanes m p f).map fun l => (l, g l)) = fl
  -- FPFLAGS
  have hB := State.addFlags_team fl hA
  obtain ⟨hBo, hBc, hBv⟩ := State.addFlags_only sA c t fl
  change LaneCompletes (Host.Outcome.next (placeSplit (laneSpin s1 (sA.addFlags c t fl) (heldCtx s c t m i p f [])) c t i (p.lpc + 12)))
    _ _ _ _ _ _ _ _ _ _
  generalize sA.addFlags c t fl = sB at hB hBo hBc hBv ⊢
  -- the spin detector, then the place
  obtain ⟨gs, hgs, hlpc, hmask, hjoin, hhandler, hlongs⟩ : ∃ gs : Split → Split, laneSpin s1 sB (heldCtx s c t m i p f []) =
      (sB.modTeam c t fun m => m.modCtl fun y => match y.split i with | some q => y.setSplit i (some (gs q)) | none => y) ∧
      (∀ q, (gs q).lpc = q.lpc) ∧ (∀ q, (gs q).mask = q.mask) ∧ (∀ q, (gs q).join = q.join) ∧ (∀ q, (gs q).handler = q.handler) ∧
      (∀ q, (gs q).longs = q.longs) := by
    by_cases hpreds : r.2.preds != m.ctl.preds
    · refine ⟨fun q => { q with spin := Spin.init }, ?_, fun _ => rfl, fun _ => rfl, fun _ => rfl, fun _ => rfl, fun _ => rfl⟩
      unfold laneSpin
      simp only [State.modTeam, heldCtx, hB, Team.modCtl, hq, hpreds, Bool.or_true, spinAfter, if_true]
    · rw [Bool.not_eq_true] at hpreds
      refine ⟨fun q => { q with spin := spinAfter ((heldCtx s c t m i p f []).lanes.any (fun l =>
          sB.vreg c m f.vd.toNat l != s1.vreg c m f.vd.toNat l)) false q.spin }, ?_, fun _ => rfl, fun _ => rfl, fun _ => rfl,
          fun _ => rfl, fun _ => rfl⟩
      unfold laneSpin
      simp only [State.modTeam, heldCtx, hB, Team.modCtl, hq, hpreds, Bool.or_false]
  rw [hgs]
  obtain ⟨hC, hCo, hCc, hCv⟩ := State.modSplit_spec (i := i) gs hB hq
  generalize hsC : (sB.modTeam c t fun m => m.modCtl fun y => match y.split i with | some q => y.setSplit i (some (gs q)) | none => y) = sC
    at hC hCo hCc hCv ⊢
  have hq' : ({ heldTeam s c m i p f [] with ctl := r.2.setSplit i (some (gs (heldSplit s c m p f []))), regs := { m.regs with fpflags := m.regs.fpflags ||| fl.setWidth 64 } } : Team).ctl.split i =
      some (gs (heldSplit s c m p f [])) := by simp [Ctl.split, Ctl.setSplit]
  obtain ⟨hD, hDo, hDc, hDv⟩ := State.modSplit_spec (i := i) (fun q => { q with lpc := p.lpc + 12 }) hC hq'
  refine ⟨_, _, { gs (heldSplit s c m p f []) with lpc := p.lpc + 12 }, rfl, hD, ⟨rfl, ?_, ?_, ?_, ?_⟩, ⟨?_, ?_, ?_, ?_, ?_, ?_⟩, ?_, ?_, rfl, rfl, ⟨rfl, rfl, rfl, rfl, ⟨rfl, rfl, rfl⟩, ⟨rfl, rfl⟩, rfl, ⟨rfl, rfl⟩⟩,
    rfl, rfl, ?_, ?_⟩
  · exact (hmask _).trans rfl
  · exact (hjoin _).trans rfl
  · exact (hhandler _).trans rfl
  · exact (hlongs _).trans rfl
  · simp [Ctl.split, Ctl.setSplit]
  · intro j hj
    simp only [Ctl.split, Ctl.setSplit, SMap.get_set_other _ _ _ hj, hsplits]
  · exact hlive'
  · exact ⟨hjoins', hspills'⟩
  · exact ⟨hqueue', hrunning', hhqueue', hhrunning'⟩
  · exact ⟨hpolicy', hcpois', hsubst'⟩
  · intro l hl' hv
    have hu : (s1.core c).vreg (heldTeam s c m i p f []) f.vd.toNat l = s.vreg c m f.vd.toNat l := hvr _ _
    change (placeSplit sC c t i (p.lpc + 12)).vreg c m f.vd.toNat l = _
    have : (placeSplit sC c t i (p.lpc + 12)).vreg c m f.vd.toNat l = r.1.vreg (heldTeam s c m i p f []) f.vd.toNat l := by
      rw [← hAo.2.2 (heldTeam s c m i p f [])]
      rw [← hBv, ← hCv, ← hDv]; rfl
    rw [this, hwv hv l, if_pos hl', hu]
  · intro n l hn
    have := hpv n l hn
    exact this
  · exact ((((hot.mono (by simp)).trans hAo.1).trans (hBo.mono (by simp))).trans (hCo.mono (by simp))).trans (hDo.mono (by simp))
  · exact (((hoc.trans hAo.2.1).trans hBc).trans hCc).trans hDc

end Sys2Proof.Machine
end

