-- ==== Sys2Proof/Laws/Memory.lean ====
section
/-!
SUPPORT. Laws of memory: a write is read back and leaves every other byte alone, and every operation on memory keeps its canonical form.
-/
namespace Sys2Proof.Machine

/-- The canonical form, part by part. -/
theorem Memory.wf_iff {m : Memory} : m.wf = true ↔ SMap.wf (0 : Byte) m.bytes = true ∧ SMap.wf false m.marks = true := by
  simp [Memory.wf]

/-- Memory right after reset is canonical. -/
theorem Memory.wf_reset : Memory.reset.wf = true := rfl

/-- What only changes seals, engine ranges and the frames of compressed pages keeps the canonical form. -/
theorem Memory.wf_of_same {m m' : Memory} (hb : m'.bytes = m.bytes) (hm : m'.marks = m.marks) (h : m.wf = true) : m'.wf = true := by
  rw [Memory.wf_iff, hb, hm]; exact Memory.wf_iff.mp h

/-! ### Bytes -/

@[simp] theorem Memory.putBytes_marks (m : Memory) (pa : Nat) (bs : List Byte) : (m.putBytes pa bs).marks = m.marks := by
  induction bs generalizing m pa with
  | nil => rfl
  | cons b r ih => rw [Memory.putBytes, ih]

@[simp] theorem Memory.markWrite_bytes (m : Memory) (pa n : Nat) (mark : Bool) : (m.markWrite pa n mark).bytes = m.bytes := rfl

/-- What a byte reads as after bytes were put. -/
theorem Memory.get_putBytes (m : Memory) (pa : Nat) (bs : List Byte) (a : Nat) :
    (m.putBytes pa bs).bytes.get 0 a = if pa ≤ a ∧ a < pa + bs.length then bs.getD (a - pa) 0 else m.bytes.get 0 a := by
  induction bs generalizing m pa with
  | nil => simp [Memory.putBytes] <;> omega
  | cons b r ih =>
    rw [Memory.putBytes, ih]
    simp only [List.length_cons, SMap.get_set]
    by_cases h1 : a = pa
    · subst h1
      simp <;> omega
    · by_cases h2 : pa + 1 ≤ a ∧ a < pa + 1 + r.length
      · rw [if_pos h2, if_pos (by omega), show a - pa = (a - (pa + 1)) + 1 by omega, List.getD_cons_succ]
      · rw [if_neg h2, if_neg h1, if_neg (by omega)]

/-- A write is read back, and leaves every other byte alone. -/
theorem Memory.get_write (m : Memory) (pa : Nat) (bs : List Byte) (mark : Bool) (a : Nat) :
    (m.write pa bs mark).bytes.get 0 a = if pa ≤ a ∧ a < pa + bs.length then bs.getD (a - pa) 0 else m.bytes.get 0 a := by
  unfold Memory.write
  split
  · rename_i h
    rw [List.isEmpty_iff] at h
    subst h
    simp <;> omega
  · rw [Memory.markWrite_bytes, Memory.get_putBytes]

/-- The bytes that were written read as they were written. -/
theorem Memory.read_write (m : Memory) (pa : Nat) (bs : List Byte) (mark : Bool) : (m.write pa bs mark).read pa bs.length = bs := by
  apply List.ext_getElem
  · simp [Memory.read]
  · intro i h1 h2
    have h := Memory.get_write m pa bs mark (pa + i)
    simp only [Nat.le_add_right, Nat.add_lt_add_iff_left, h2, and_self, if_true, Nat.add_sub_cancel_left] at h
    simpa [Memory.read, List.getD, h2] using h

/-! ### The canonical form -/

theorem Memory.wf_setByte {m : Memory} (a : Nat) (b : Byte) (h : m.wf = true) : ({ m with bytes := m.bytes.set 0 a b } : Memory).wf = true := by
  rw [Memory.wf_iff] at h ⊢; exact ⟨SMap.wf_set a b h.1, h.2⟩

theorem Memory.wf_setMark {m : Memory} (u : Nat) (v : Bool) (h : m.wf = true) :
    ({ m with marks := m.marks.set false u v } : Memory).wf = true := by
  rw [Memory.wf_iff] at h ⊢; exact ⟨h.1, SMap.wf_set u v h.2⟩

theorem Memory.wf_putBytes {m : Memory} (pa : Nat) (bs : List Byte) (h : m.wf = true) : (m.putBytes pa bs).wf = true := by
  induction bs generalizing m pa with
  | nil => exact h
  | cons b r ih => exact ih (pa + 1) (Memory.wf_setByte pa b h)

/-- A fold of changes that each keep a property keeps it. -/
theorem List.foldl_keeps {α β : Type} {P : β → Prop} {f : β → α → β} (l : List α) (hf : ∀ b a, P b → P (f b a)) {b : β} (h : P b) :
    P (l.foldl f b) := by
  induction l generalizing b with
  | nil => exact h
  | cons a l ih => exact ih (hf b a h)

theorem Memory.wf_markWrite {m : Memory} (pa n : Nat) (mark : Bool) (h : m.wf = true) : (m.markWrite pa n mark).wf = true := by
  rw [Memory.wf_iff] at h ⊢
  refine ⟨h.1, ?_⟩
  simp only [Memory.markWrite]
  apply List.foldl_keeps (P := fun k => SMap.wf false k = true) _ _ h.2
  intro k i hk
  split
  · exact SMap.wf_set _ _ hk
  · split
    · exact SMap.wf_set _ _ hk
    · exact hk

/-- A write keeps the canonical form. -/
theorem Memory.wf_write {m : Memory} (pa : Nat) (bs : List Byte) (mark : Bool) (h : m.wf = true) : (m.write pa bs mark).wf = true := by
  unfold Memory.write
  split
  · exact h
  · exact Memory.wf_markWrite _ _ _ (Memory.wf_putBytes _ _ h)

/-- Copying a page keeps the canonical form. -/
theorem Memory.wf_copyPage {m : Memory} (src dst : Nat) (h : m.wf = true) : (m.copyPage src dst).wf = true :=
  List.foldl_keeps (P := fun k : Memory => k.wf = true) _ (fun _ _ hk => Memory.wf_write _ _ _ hk) h

/-- Merging a masked sector keeps the canonical form. -/
theorem Memory.wf_mergeSlot {m : Memory} (pa : Nat) (x : SectorSlot) (h : m.wf = true) : (mergeSlot m pa x).wf = true := by
  have h1 : (((List.range 32).zip x.data).foldl (fun m e =>
      if x.mask.getLsbD e.1 then { m with bytes := m.bytes.set 0 (pa + e.1) e.2 } else m) m).wf = true := by
    apply List.foldl_keeps (P := fun k : Memory => k.wf = true) _ _ h
    intro k e hk
    split
    · exact Memory.wf_setByte _ _ hk
    · exact hk
  unfold mergeSlot
  dsimp only
  split
  · exact Memory.wf_setMark _ _ h1
  · exact h1

/-- What stage 3 of bring-up leaves of memory is canonical. -/
theorem State.wf_peerMem {s : State} (slot : Nat) (h : s.MemoryWf) : (s.peerMem slot).wf = true := by
  have h := Memory.wf_iff.mp h
  rw [Memory.wf_iff]
  exact ⟨SMap.wf_keep (fun a _ => paSlot a != slot) h.1, SMap.wf_keep (fun u _ => paSlot (32 * u) != slot) h.2⟩

/-- A line that leaves the L2 for memory keeps the canonical form. -/
theorem Memory.wf_writeBack {m : Memory} (line : Nat) (h : m.wf = true) : (m.writeBack line).wf = true := by
  unfold Memory.writeBack
  split
  · exact Memory.wf_markWrite _ _ _ h
  · exact h

theorem State.reset_memoryWf : State.reset.MemoryWf := rfl

/-! ### The state's operations on memory -/

@[simp] theorem State.modTeam_mem (s : State) (c t : Nat) (f : Team → Team) : (s.modTeam c t f).mem = s.mem := by
  unfold State.modTeam; split <;> rfl

@[simp] theorem State.eventTo_mem (s : State) (p code : Nat) (r : List Byte) : (s.eventTo p code r).mem = s.mem := by
  unfold State.eventTo; split <;> rfl

@[simp] theorem State.event_mem (s : State) (code : Nat) (r : List Byte) : (s.event code r).mem = s.mem := by simp [State.event]

@[simp] theorem State.log_mem (s : State) (d : Nat) (r : LogRecord) : (s.log d r).2.mem = s.mem := by simp [State.log]

@[simp] theorem State.request_mem (s : State) (pa : Nat) (write : Bool) : (s.request pa write).mem = s.mem := by
  unfold State.request; split <;> rfl

@[simp] theorem State.warm_mem (s : State) (d pa : Nat) : (s.warm d pa).mem = s.mem := by
  unfold State.warm; split <;> rfl

@[simp] theorem State.readHome_mem (s : State) (d pa n : Nat) : (s.readHome d pa n).2.mem = s.mem := by
  unfold State.readHome; split <;> simp

@[simp] theorem State.dropLine_mem (s : State) (d pa : Nat) : (s.dropLine d pa).mem = s.mem := rfl
@[simp] theorem State.dropCopies_mem (s : State) (p : Nat → Bool) : (s.dropCopies p).mem = s.mem := rfl

@[simp] theorem noteLeaf_mem (s : State) (asid va e level leafPa : Nat) : (noteLeaf s asid va e level leafPa).mem = s.mem := by
  unfold noteLeaf; dsimp only; split <;> rfl

theorem State.wf_writeHome {s : State} (pa : Nat) (bs : List Byte) (mark : Bool) (h : s.MemoryWf) :
    (s.writeHome pa bs mark).MemoryWf := by
  unfold State.MemoryWf State.writeHome
  split
  · exact h
  · simpa [State.modMem] using Memory.wf_write pa bs mark h

theorem State.wf_engineWrite {s : State} (pa : Nat) (bs : List Byte) (mark : Bool) (h : s.MemoryWf) :
    (s.engineWrite pa bs mark).MemoryWf := by
  simpa [State.MemoryWf, State.engineWrite] using State.wf_writeHome pa bs mark h

theorem State.wf_queueField {s : State} (q off w v : Nat) (h : s.MemoryWf) : (s.queueField q off w v).MemoryWf :=
  Memory.wf_write _ _ _ h

theorem State.wf_register {s : State} (ticket : Nat) (pieces : List (Nat × Nat)) (h : s.MemoryWf) :
    (s.register ticket pieces).MemoryWf := by
  unfold State.MemoryWf State.register
  dsimp only
  split
  · exact h
  · exact Memory.wf_of_same (m := s.mem) rfl rfl h

theorem State.wf_noteWalk {s : State} (d asid va leaf : Nat) (tables : List (Nat × Nat)) (h : s.MemoryWf) :
    (s.noteWalk d asid va leaf tables).MemoryWf := by
  have hs : ∀ s1 : State, s1.mem = s.mem → (if bit leaf 9 then s1.modMem fun m => { m with cmp := m.cmp.set false (bits leaf 16 36) true }
      else s1).MemoryWf := by
    intro s1 h1
    split
    · exact Memory.wf_of_same (m := s1.mem) rfl rfl (h1 ▸ h)
    · exact (h1 ▸ h : s1.mem.wf = true)
  unfold State.noteWalk
  dsimp only
  apply hs
  split <;> rfl

/-- What settles a leaf's bits keeps the canonical form, whatever other agents write meanwhile. -/
theorem wf_settleLeaf (va : Nat) (n : Need) (runtime : Bool) (own : Option Nat) (left : Nat) : ∀ (s : State) (w : Walk), s.MemoryWf →
    (settleLeaf va n runtime own left s w).2.MemoryWf := by
  induction left with
  | zero => intro s w h; cases w <;> exact h
  | succ left ih =>
    intro s w h
    cases w with
    | leaf e level pa tables =>
      simp only [settleLeaf]
      split
      · exact h
      · split
        · exact State.wf_writeHome _ _ _ h
        · split
          · exact State.wf_writeHome _ _ _ (State.wf_writeHome _ _ _ h)
          · exact ih _ _ (State.wf_writeHome _ _ _ h)
    | fault => exact h
    | poison entry => exact h
    | wait => exact h

/-- A walk writes no more than the leaves that it settles (R377). -/
theorem wf_walk {s : State} (d asid va : Nat) (n : Need) (runtime : Bool) (own : Option Nat) (h : s.MemoryWf) :
    (walk s d asid va n runtime own).2.MemoryWf := by
  unfold walk
  split
  · exact h
  · rename_i level table _
    have hw := wf_settleLeaf va n runtime own 64 s (walkFrom s va own ([0, 1, 2, 3].drop level) table []) h
    split <;> rename_i e <;> rw [e] at hw
    · exact hw
    · exact hw
    · split <;> simpa [State.MemoryWf] using hw
    · split
      · exact hw
      · simpa [State.MemoryWf] using State.wf_noteWalk _ _ _ _ _ hw

/-- A translation writes no more than its walk does. -/
theorem wf_xlate {s : State} (core : Option Nat) (d asid : Nat) (runtime : Bool) (n : Need) (va : Word) (own : Option Nat) (h : s.MemoryWf) :
    (xlate s core d asid runtime n va own).2.MemoryWf := by
  unfold xlate
  dsimp only
  split
  · exact h
  · split
    · split <;> exact h
    · have hw := wf_walk d asid va.toNat n runtime own h
      split
      · rename_i e; rw [e] at hw; exact hw
      · rename_i e; rw [e] at hw
        split <;> exact hw

theorem wf_engineXlate {s : State} (d asid : Nat) (runtime : Bool) (n : Need) (va : Nat) (own : Option Nat) (h : s.MemoryWf) :
    (engineXlate s d asid runtime n va own).2.MemoryWf := by
  have hx := wf_xlate none d asid runtime n (wordN va) own h
  unfold engineXlate
  split <;> rename_i e <;> rw [e] at hx <;> first | exact hx | simpa [State.MemoryWf] using hx

/-- An access of the device that can be performed keeps the canonical form. -/
theorem State.wf_deviceTry {s s' : State} (x : DeviceOp) (h : s.MemoryWf) (hs : s.deviceTry x = some s') : s'.MemoryWf := by
  have hx := wf_engineXlate x.die x.asid x.runtime (if x.add.isSome then Need.atomic else Need.store) x.va none h
  unfold State.deviceTry at hs
  split at hs
  · cases hs
  · rename_i e; rw [e] at hx; cases hs; exact hx
  · rename_i e; rw [e] at hx
    split at hs
    · cases hs
    · split at hs
      · cases hs; exact hx
      · split at hs
        · dsimp only at hs
          split at hs
          · cases hs; exact hx
          · cases hs; exact State.wf_engineWrite _ _ _ hx
        · cases hs; exact State.wf_engineWrite _ _ _ hx

/-- An access of the device keeps the canonical form. -/
theorem State.wf_device {s : State} (x : DeviceOp) (h : s.MemoryWf) : (s.device x).MemoryWf := by
  unfold State.device
  cases e : s.deviceTry x with
  | none => exact h
  | some s' => exact State.wf_deviceTry x h e

theorem State.wf_retryDevice {s : State} (h : s.MemoryWf) : s.retryDevice.MemoryWf :=
  List.foldl_keeps (P := State.MemoryWf) _ (fun _ x hb => State.wf_device x hb) h

theorem State.wf_releaseLine {s : State} (ticket line : Nat) (h : s.MemoryWf) : (s.releaseLine ticket line).MemoryWf :=
  State.wf_retryDevice (Memory.wf_of_same (m := s.mem) rfl rfl h)

theorem State.wf_unregister {s : State} (ticket : Nat) (h : s.MemoryWf) : (s.unregister ticket).MemoryWf :=
  State.wf_retryDevice (Memory.wf_of_same (m := s.mem) rfl rfl h)

theorem State.wf_packageReset {s : State} (h : s.MemoryWf) : (packageReset s).MemoryWf :=
  Memory.wf_of_same (m := s.mem) rfl rfl h

/-- A line that leaves the L2 of a die keeps the canonical form. -/
theorem State.wf_dropL2 {s : State} (d line : Nat) (h : s.MemoryWf) : (s.dropL2 d line).MemoryWf := by
  unfold State.dropL2 State.MemoryWf
  dsimp only
  split
  · exact Memory.wf_writeBack line h
  · exact h

/-- Writing dirty lines back keeps the canonical form. -/
theorem State.wf_cleanL2 {s : State} (named : Nat → Bool) (h : s.MemoryWf) : (s.cleanL2 named).MemoryWf :=
  List.foldl_keeps (P := State.MemoryWf) (f := fun s u => s.modMem fun m => m.writeBack u) _
    (fun _ u hb => Memory.wf_writeBack u hb) h

/-- An act that is no instruction keeps the canonical form. -/
theorem State.wf_perform {s : State} (a : Act) (h : s.MemoryWf) : (s.perform a).MemoryWf := by
  cases a with
  | peerWrite pa bs mark =>
    simp only [State.perform]
    split
    · exact h
    · exact Memory.wf_write _ _ _ h
  | evictL1 c x =>
    simp only [State.perform, State.evictL1]
    split
    · exact h
    · split
      · simpa [State.MemoryWf] using h
      · exact h
  | evictL2 d line => exact State.wf_dropL2 d line h
  | _ => exact h

end Sys2Proof.Machine
end

