-- ==== Sys2Proof/Laws/ScalarWord.lean ====
section
/-!
SUPPORT. What a scalar word does once it may take effect: the checks let it pass, its body runs, and the stream goes on.
-/
namespace Sys2Proof.Machine

/-- The checks of R43 let a ready word pass. -/
theorem scalarCheck_ready {s : State} {c t : Nat} {m : Team} {u : ScalarUse} {srcs kreads : List Nat}
    (h : ScalarReady s c t m (u.reads ++ u.writes) srcs kreads u.guard u.kwrites) (hs : ∀ i ∈ u.consumes, i ∈ srcs)
    (hk : ∀ n ∈ u.kreads, n ∈ kreads) (hp : u.priv = true → m.id.runtime = true) (he : ∀ i ∈ u.even, i % 2 = 0)
    (hi : u.illegal m = false) : scalarCheck s ⟨c, t, m⟩ u = none := by
  have h1 : (u.priv && !m.id.runtime) = false := by
    cases hpv : u.priv
    · rfl
    · simp [hp hpv]
  have h2 : ((u.reads ++ u.writes).any fun i => !m.scalarOk i) = false := by
    rw [List.any_eq_false]; intro i hi; simp [h.legal i hi]
  have h3 : (u.even.any fun i => i % 2 == 1) = false := by
    rw [List.any_eq_false]; intro i hi; simp [he i hi]
  have h4 : (u.reads ++ u.writes).find? (fun i => m.regs.slongs.getLsbD i) = none := by
    rw [List.find?_eq_none]; intro i hi; simp [h.idle i hi]
  have h0 : ((u.guard :: u.kreads ++ u.kwrites).any fun n => m.regs.klongs.getLsbD n) = false := by
    rw [List.any_eq_false]; intro n hn
    have : n ∈ u.guard :: kreads ++ u.kwrites := by
      simp only [List.cons_append, List.mem_cons, List.mem_append] at hn ⊢
      exact hn.imp_right (Or.imp_left (hk n))
    simp [h.kidle n this]
  unfold scalarCheck
  simp only [h0, h1, h2, h3, h4, hi, Bool.or_self, Bool.false_eq_true, if_false, h.unmarked, h.taken, Bool.not_true]
  by_cases hpol : m.ctl.policy.getLsbD 0 = true
  · obtain ⟨ha, hb⟩ := h.clean hpol
    have h5 : u.consumes.find? (fun i => ((⟨c, t, m⟩ : Ctx).sreg s i).mark) = none := by
      rw [List.find?_eq_none]; intro i hi
      have := ha i (hs i hi)
      simp [Ctx.sreg, this]
    have h6 : u.kreads.any m.regs.predMark = false := by
      rw [List.any_eq_false]; intro n hn; simp [hb n (hk n hn)]
    simp only [hpol, if_true, h5, h6, Bool.false_eq_true, if_false]
  · simp only [hpol, if_false, Bool.false_eq_true]

/-- A ready word runs its body. -/
theorem scalarWord_ready {s : State} {c t : Nat} {m : Team} {u : ScalarUse} {body : Ctx → State → Eff} {srcs kreads : List Nat}
    (h : ScalarReady s c t m (u.reads ++ u.writes) srcs kreads u.guard u.kwrites) (hs : ∀ i ∈ u.consumes, i ∈ srcs)
    (hk : ∀ n ∈ u.kreads, n ∈ kreads) (hp : u.priv = true → m.id.runtime = true) (he : ∀ i ∈ u.even, i % 2 = 0)
    (hi : u.illegal m = false) :
    scalarWord u body s =
      match body ⟨c, t, m⟩ s with
      | .trap r => .next (raise s c t m ⟨r, none, some m.regs.spc⟩)
      | .hold s h => .next (scalarHold s c t h u.w)
      | .gone s => .next s
      | .done s' => .next (scalarDone (s'.modTeam c t fun n => n.modSched fun y =>
          { y with spin := spinAfter (changedBy s s' ⟨c, t, m⟩ u) u.noisy y.spin }) c t (m.regs.spc + 4) u.w)
      | .jump s' pc => .next (scalarDone s' c t pc u.w) := by
  obtain ⟨i, hf⟩ := h.focus
  have hc := scalarCheck_ready h hs hk hp he hi
  unfold scalarWord
  simp only [hf, h.team, hc, h.unmarked, noteControl, h.taken, Bool.false_and, Bool.not_false, Bool.not_true, if_true, Bool.false_eq_true, if_false]
    <;> cases body ⟨c, t, m⟩ s <;> rfl

/-- What `scalarDone` leaves. -/
theorem scalarDone_team {s : State} {c t : Nat} {m : Team} (pc : Word) (w : Bool) (h : s.team c t = some m) :
    (scalarDone s c t pc w).team c t = some { m with
      regs := { m.regs with spc := pc }
      trap := { m.trap with skipDebug := false }
      sched := { m.sched with hold := none, lastScalar := s.cycles, parked := m.sched.parked || w } } :=
  State.team_modTeam_self _ h

/-- A word whose body writes one register, or none, and the team's scalar-side registers, completes so. -/
theorem completes_of_done {s s' : State} {c t : Nat} {m : Team} {u : ScalarUse} {body : Ctx → State → Eff} {srcs kreads : List Nat}
    {regs : TeamRegs} {ws : List (Nat × Marked)}
    (h : ScalarReady s c t m (u.reads ++ u.writes) srcs kreads u.guard u.kwrites) (hs : ∀ i ∈ u.consumes, i ∈ srcs)
    (hk : ∀ n ∈ u.kreads, n ∈ kreads) (hp : u.priv = true → m.id.runtime = true) (he : ∀ i ∈ u.even, i % 2 = 0)
    (hi : u.illegal m = false) (hb : body ⟨c, t, m⟩ s = .done s') (ht : s'.team c t = some { m with regs })
    (hw : ∀ e ∈ ws, s'.sreg c m e.1 = e.2) (ho : OnlyTeam (s.core c) (s'.core c) t (ws.map fun e => m.sUnit e.1))
    (hc : OnlyCore s s' c) :
    ScalarCompletes (scalarWord u body s) s c t m u.w { regs with spc := m.regs.spc + 4 } ws := by
  rw [scalarWord_ready h hs hk hp he hi, hb]
  refine ⟨_, _, rfl, scalarDone_team _ _ (State.team_modTeam_self _ ht), rfl, rfl, rfl, ⟨rfl, rfl, rfl, rfl, ⟨rfl, rfl, rfl⟩, ⟨rfl, rfl⟩, rfl, ⟨rfl, rfl⟩⟩,
    rfl, rfl, ?_, ?_, ?_⟩
  · intro e he; simpa [scalarDone] using hw e he
  · exact (ho.trans (OnlyTeam.modTeam _ c t _ _)).trans (OnlyTeam.modTeam _ c t _ _)
  · exact (hc.trans (State.onlyCore_modTeam _ c t _)).trans (State.onlyCore_modTeam _ c t _)

/-- A word whose body jumps. -/
theorem completes_of_jump {s s' : State} {c t : Nat} {m : Team} {u : ScalarUse} {body : Ctx → State → Eff} {srcs kreads : List Nat}
    {regs : TeamRegs} {ws : List (Nat × Marked)} {pc : Word} {sched : TeamSched}
    (h : ScalarReady s c t m (u.reads ++ u.writes) srcs kreads u.guard u.kwrites) (hs : ∀ i ∈ u.consumes, i ∈ srcs)
    (hk : ∀ n ∈ u.kreads, n ∈ kreads) (hp : u.priv = true → m.id.runtime = true) (he : ∀ i ∈ u.even, i % 2 = 0)
    (hi : u.illegal m = false) (hb : body ⟨c, t, m⟩ s = .jump s' pc) (ht : s'.team c t = some { m with regs, sched })
    (hsch : sched.state = m.sched.state ∧ sched.started = m.sched.started ∧ sched.parked = m.sched.parked)
    (hw : ∀ e ∈ ws, s'.sreg c m e.1 = e.2) (ho : OnlyTeam (s.core c) (s'.core c) t (ws.map fun e => m.sUnit e.1))
    (hc : OnlyCore s s' c) :
    ScalarCompletes (scalarWord u body s) s c t m u.w { regs with spc := pc } ws := by
  rw [scalarWord_ready h hs hk hp he hi, hb]
  refine ⟨_, _, rfl, scalarDone_team _ _ ht, rfl, rfl, rfl, ⟨rfl, rfl, rfl, rfl, ⟨rfl, rfl, rfl⟩, ⟨rfl, rfl⟩, rfl, ⟨hsch.1, hsch.2.1⟩⟩, ?_, rfl, ?_, ?_, ?_⟩
  · show (sched.parked || u.w) = _; rw [hsch.2.2]
  · intro e he; simpa [scalarDone] using hw e he
  · exact ho.trans (OnlyTeam.modTeam _ c t _ _)
  · exact hc.trans (State.onlyCore_modTeam _ c t _)

/-- A word that computes one register from others. -/
theorem scalarAlu_writes {s : State} {c t : Nat} {m : Team} {w : Bool} {guard d a b : Nat} {srcs kreads : List Nat}
    (fn : ScalarIn → Word) (h : ScalarReady s c t m (srcs ++ [d]) srcs kreads guard) :
    WritesScalar (scalarAlu w guard d a b srcs kreads fn s) s c t m w d
      ⟨fn ⟨(s.sreg c m a).val, (s.sreg c m b).val, (s.sreg c m d).val, m.regs.spc, m.regs.pred⟩,
       srcs.any (fun i => (s.sreg c m i).mark) || kreads.any m.regs.predMark⟩ := by
  refine completes_of_done (regs := m.regs) h (fun _ h => h) (fun _ h => h) (by simp) (by simp) rfl rfl ?_ ?_ ?_ ?_
  · simpa [Ctx.setSreg] using h.team
  · intro e he; simp only [List.mem_singleton] at he; subst he; simp [Ctx.setSreg, Ctx.sreg]
  · show OnlyTeam _ ((s.modCore c _).core c) _ _
    rw [State.core_modCore_self]; exact OnlyTeam.setSreg _ _ _ _ _ _ (by simp)
  · exact State.onlyCore_modCore s c fun k => k.setSreg m d _

/-- A word that computes a predicate. -/
theorem scalarPred_writes {s : State} {c t : Nat} {m : Team} {w : Bool} {guard kd : Nat} {srcs kreads : List Nat}
    (fn : Ctx → State → Bool) (h : ScalarReady s c t m srcs srcs kreads guard [kd]) :
    WritesPredicate (scalarPred w guard kd srcs kreads fn s) s c t m w kd (fn ⟨c, t, m⟩ s)
      (srcs.any (fun i => (s.sreg c m i).mark) || kreads.any m.regs.predMark) := by
  refine completes_of_done (by simpa using h) (fun _ h => h) (fun _ h => h) (by simp) (by simp) rfl rfl
    (State.team_modTeam_self _ h.team) ?_ ?_ ?_
  · simp
  · exact OnlyTeam.modTeam _ c t _ _
  · exact State.onlyCore_modTeam s c t _

/-- A word whose body ends in `s1` goes on from there. -/
theorem goesOn_of_done {s s1 : State} {c t : Nat} {m m1 : Team} {u : ScalarUse} {body : Ctx → State → Eff} {srcs kreads : List Nat}
    (h : ScalarReady s c t m (u.reads ++ u.writes) srcs kreads u.guard u.kwrites) (hs : ∀ i ∈ u.consumes, i ∈ srcs)
    (hk : ∀ n ∈ u.kreads, n ∈ kreads) (hp : u.priv = true → m.id.runtime = true) (he : ∀ i ∈ u.even, i % 2 = 0)
    (hi : u.illegal m = false) (hb : body ⟨c, t, m⟩ s = .done s1) (ht : s1.team c t = some m1) :
    ScalarGoesOn (scalarWord u body s) s1 c t (m.regs.spc + 4) u.w := by
  rw [scalarWord_ready h hs hk hp he hi, hb]
  refine ⟨_, _, _, rfl, ht, scalarDone_team _ _ (State.team_modTeam_self _ ht), rfl, rfl, rfl,
    ⟨rfl, rfl, rfl, rfl, ⟨rfl, rfl, rfl⟩, ⟨rfl, rfl⟩, rfl, ⟨rfl, rfl⟩⟩, rfl, rfl, ?_, ?_⟩
  · exact (OnlyTeam.modTeam _ c t _ _).trans (OnlyTeam.modTeam _ c t _ _)
  · exact (State.onlyCore_modTeam _ c t _).trans (State.onlyCore_modTeam _ c t _)

/-- A word whose body jumps goes on at the address. -/
theorem goesOn_of_jump {s s1 : State} {c t : Nat} {m m1 : Team} {u : ScalarUse} {body : Ctx → State → Eff} {srcs kreads : List Nat}
    {pc : Word}
    (h : ScalarReady s c t m (u.reads ++ u.writes) srcs kreads u.guard u.kwrites) (hs : ∀ i ∈ u.consumes, i ∈ srcs)
    (hk : ∀ n ∈ u.kreads, n ∈ kreads) (hp : u.priv = true → m.id.runtime = true) (he : ∀ i ∈ u.even, i % 2 = 0)
    (hi : u.illegal m = false) (hb : body ⟨c, t, m⟩ s = .jump s1 pc) (ht : s1.team c t = some m1) :
    ScalarGoesOn (scalarWord u body s) s1 c t pc u.w := by
  rw [scalarWord_ready h hs hk hp he hi, hb]
  refine ⟨_, _, _, rfl, ht, scalarDone_team _ _ ht, rfl, rfl, rfl,
    ⟨rfl, rfl, rfl, rfl, ⟨rfl, rfl, rfl⟩, ⟨rfl, rfl⟩, rfl, ⟨rfl, rfl⟩⟩, rfl, rfl, ?_, ?_⟩
  · exact OnlyTeam.modTeam _ c t _ _
  · exact State.onlyCore_modTeam _ c t _

end Sys2Proof.Machine
end

