-- ==== Sys2Proof/Tests/Slice0.lean ====
section
/-!
SUPPORT. Tests: words that the encoding checks refuse, single steps on small states with results worked out from the manual, and for each
statement of Certificates/Slice0/Obligations.lean that has hypotheses a state and operands that meet them, clause by clause.
-/
namespace Sys2Proof.Tests
open Sys2Proof Sys2Proof.Machine

set_option Elab.async false

/-! ### Well-formedness: an ill-formed term for each check -/

/-- A lane word with every field zero but those given. -/
def lane (vd va vb vc : BitVec 8) (ty pg : BitVec 3) (imm : BitVec 33) : Lane :=
  { w := false, pg, pgn := false, ty, vd, va, vb, vc, pd := 0, rm := 0, hs := 0, hl := 0, lr := 0, sat := false, x := false, imm }

theorem test_wf_accepts : (Instr.vAdd (lane 31 2 3 0 3 1 0)).wellFormed = true ∧ (Instr.sAdd ⟨true, 55, 3, 5, 7⟩).wellFormed = true := by decide
theorem test_wf_major : decodeBytes (leBytes 4 0) = .reject .major := by decide +kernel
theorem test_wf_operation : (Instr.vAtom (lane 1 2 3 0 2 0 (8 * 2 ^ 29))).check = some .operation := by decide
theorem test_wf_variant : (Instr.vMoviHi (lane 1 0 0 0 3 0 0)).check = some .variant := by decide
theorem test_wf_reserved : (Instr.sLwait ⟨false, 1, 0, 0⟩).check = some .reserved ∧
    (Instr.vMov (lane 1 2 3 0 3 0 0)).check = some .reserved ∧ (Instr.sShlImm ⟨false, 1, 1, 1, 0⟩).check = some .reserved := by decide
theorem test_wf_rounding : (Instr.vFadd { lane 1 2 3 0 1 0 0 with rm := 5 }).check = some .rounding := by decide
theorem test_wf_latch : (Instr.vAdd { lane 1 2 3 0 3 0 0 with hl := 1 }).check = some .latch := by decide
theorem test_wf_source : (Instr.vMov { lane 1 2 0 0 3 0 0 with hs := 2 }).check = some .source := by decide
theorem test_wf_access : (Instr.sSt ⟨false, 1, 2, 5, 0, 0⟩).check = some .access ∧ (Instr.sLd ⟨false, 1, 2, 0, 2, 0⟩).check = some .access ∧
    (Instr.sCas 0 3 0 ⟨false, 1, 2, 3⟩).check = some .access := by decide
theorem test_wf_scope : (Instr.sFenceAcq 7 ⟨false, 0, 0, 0⟩).check = some .scope ∧ (Instr.sSeal 3 ⟨false, 1, 2, 3⟩).check = some .scope ∧
    (Instr.sAtom .add 1 ⟨false, 1, 2, 3⟩).check = some .scope := by decide
theorem test_wf_guard : (Instr.sBr ⟨false, 0, true, 5⟩).check = some .guard := by decide
theorem test_wf_type : (Instr.vFrcp (lane 1 2 0 0 0 0 0)).check = some .type := by decide
theorem test_wf_format : (Instr.vPackScale (lane 1 2 0 0 1 0 0x401)).check = some .format := by decide
theorem test_wf_noWord : encodeBytes (.powerGood) = none ∧ decodeBytes [0, 0, 0] = .reject .noWord := by decide +kernel

/-! ### The states of the tests -/

/-- A package that has been brought up, alone in its pod. -/
def base : State := { State.reset with boot := { Boot.reset with powered := true, stage := 8, podLive := 1 }, cycles := 1000 }

/-- A team of 32 lanes with 56 scalar and 40 lane registers and the trap reserve. -/
def demoId (runtime : Bool) : TeamId := { placedId with trapres := true, vregs := 40, strapvec := 0x20000, runtime }

/-- It runs one block in one split; k1 to k7 are true, p1 in every lane, p2 in none, p3 in lane 31 and p4 in lanes 0, 1 and 31. -/
def demoTeam (runtime : Bool) : Team :=
  let m := Team.start (demoId runtime) (Lease.start false 2 1000) 1000
  { m with
    sched := { m.sched with state := .active }
    regs := { m.regs with k := 0xFF }
    ctl := { m.ctl.startUser [⟨0x10100, [], 0, 0⟩] with preds := [maskBelow 32, 0, maskOf [31], maskOf [0, 1, 31], 0, 0, 0] } }

/-- Register windows up to 16384, then 8 KiB of scratchpad, 8 KiB of trap reserve, and L1. -/
def demoPart (mode : Nat) : Partition := { placedPart with spSize := 8192, trapBase := 24576, l1Base := 32768, mode }

/-- Pages of 64 KiB at virtual and physical 0x10000 (all access), 0x20000 (read only), 0x30000 (runtime mode only) and a management page. -/
def demoTlb : List TlbEntry :=
  [⟨0, 3, 1, 0x101FB, 0⟩, ⟨0, 3, 2, 0x201EB, 0⟩, ⟨0, 3, 3, 0x301BB, 0⟩, ⟨0, 3, 4, wordN (mgmtBase + 0x1FB), 0⟩]

/-- Core 0 runs one team, and registers `rs` hold the values given. -/
def demo (m : Team) (split : Option Nat) (mode : Nat) (rs : List (Nat × Word)) : State :=
  let k := { Core.init.setUp (demoPart mode) with teams := [(0, some m)], tlb := demoTlb }
  let k := rs.foldl (fun k r => k.setSreg m r.1 ⟨r.2, false⟩) k
  { (base.setCore 0 k).modDie 0 fun x => { x with tlb := demoTlb } with focus := some ⟨0, 0, split⟩ }

/-- The lane registers `rs` hold the values given in lanes 0, 1 and 31. -/
def withLanes (s : State) (m : Team) (rs : List (Nat × (Nat → Word))) : State :=
  s.modCore 0 fun k => rs.foldl (fun k r => [0, 1, 31].foldl (fun k l => k.setVreg m r.1 l ⟨r.2 l, false⟩) k) k

/-- An open region with a durable record, at its first attempt. -/
def demoRecord : Record :=
  { rid := 0, entry := 0x10004, smask := 0, sregs := List.replicate 64 ⟨0, false⟩, count := 0, first := 0, lanes := [], fpflags := 0, fpctl := 0,
    k := 1, kmark := 0, home := 0, live := maskBelow 32, preds := List.replicate 7 0, predMarks := List.replicate 7 0, pending := [], snap := none }
def demoRegion : Region :=
  { tag := 1, scope := 4, movable := true, moves := 0, attempt := 0, valid := true, noRecord := false, conflict := false, extra := false,
    overflow := false, passes := false, held := [], undo := [], accLog := [], record := demoRecord, recovery := .idle, causes := [], check := none, errors := [],
    moveSince := 0, opened := 0, unreadable := false, peer := false }
/-- A snapshot, of which only that it is one matters here. -/
def demoSnap : Snapshot :=
  { window := [], acc := [], ctl := (demoTeam false).ctl, trap := ⟨0, 0, 0, 0, 0⟩, slongs := 0, klongs := 0,
    lease := (demoTeam false).lease, accBase := 0, accLimit := 0, outer := [], reserve := [] }

/-! ### Hypotheses that are structures, as checks -/

def scalarReadyB (s : State) (m : Team) (named srcs kreads : List Nat) (guard : Nat) (kwrites : List Nat) : Bool :=
  (match s.focus with | some ⟨0, 0, _⟩ => true | _ => false) && decide (s.team 0 0 = some m) && named.all m.scalarOk &&
  named.all (fun i => !m.regs.slongs.getLsbD i) && (guard :: kreads ++ kwrites).all (fun n => !m.regs.klongs.getLsbD n) && m.regs.pred guard && !m.regs.predMark guard &&
  (!m.ctl.policy.getLsbD 0 || (srcs.all (fun i => !(s.sreg 0 m i).mark) && kreads.all fun n => !m.regs.predMark n))

theorem scalarReady_of {s : State} {m : Team} {named srcs kreads : List Nat} {guard : Nat} {kwrites : List Nat}
    (h : scalarReadyB s m named srcs kreads guard kwrites = true) : ScalarReady s 0 0 m named srcs kreads guard kwrites := by
  simp only [scalarReadyB, Bool.and_eq_true, decide_eq_true_eq, List.all_eq_true, Bool.not_eq_true', Bool.or_eq_true] at h
  obtain ⟨⟨⟨⟨⟨⟨⟨hf, ht⟩, hl⟩, hi⟩, hq⟩, hk⟩, hm⟩, hp⟩ := h
  refine ⟨?_, ht, hl, hi, hq, hk, hm, fun h1 => ?_⟩
  · split at hf
    · exact ⟨_, by assumption⟩
    · simp at hf
  · rcases hp with hp | hp
    · rw [hp] at h1; cases h1
    · exact hp

def laneReadyB (s : State) (m : Team) (i : Nat) (p : Split) (f : Lane) (srcs eat : List Src) (dst : Bool) (preds : List Nat) : Bool :=
  decide (s.focus = some ⟨0, 0, some i⟩) && decide (s.team 0 0 = some m) && decide (m.ctl.split i = some p) &&
  srcs.all (fun y => srcOk m f false y) && (!dst || dstOk m f.vd.toNat false) &&
  srcs.all (fun y => !latchOf f y || (match p.latches.getD (codeOf f y % 4) none with | some e => decide (e.age ≤ 1) | none => false)) &&
  srcs.all (fun y => latchOf f y || decide (240 ≤ codeOf f y) || !p.longs.getLsbD (codeOf f y)) &&
  (!dst || decide (240 ≤ f.vd.toNat) || !p.longs.getLsbD f.vd.toNat) &&
  (f.pg.toNat :: f.pd.toNat :: preds).all (fun n => n == 0 || !p.longs.getLsbD (240 + n)) &&
  (lanesOf (m.active p) m.id.lanes).all (fun l => !m.ctl.predMark f.pg.toNat l) &&
  (!m.ctl.policy.getLsbD 0 || (runningLanes m p f).all fun l =>
    eat.all (fun y => !(laneSource s 0 m p f y l).mark) && preds.all fun n => !m.ctl.predMark n l)

theorem laneReady_of {s : State} {m : Team} {i : Nat} {p : Split} {f : Lane} {srcs eat : List Src} {dst : Bool} {preds : List Nat}
    (h : laneReadyB s m i p f srcs eat dst preds = true) : LaneReady s 0 0 m i p f srcs eat dst preds := by
  simp only [laneReadyB, Bool.and_eq_true, decide_eq_true_eq, List.all_eq_true, Bool.not_eq_true', Bool.or_eq_true] at h
  obtain ⟨⟨⟨⟨⟨⟨⟨⟨⟨⟨hf, ht⟩, hs⟩, hk⟩, hd⟩, hl⟩, hi⟩, hj⟩, hn⟩, hg⟩, hp⟩ := h
  refine ⟨hf, ht, hs, hk, fun h1 => ?_, fun y hy h1 => ?_, fun y hy h1 h2 => ?_, fun h1 h2 => ?_, fun n hn1 hn2 => ?_, hg, fun h1 l hl => ?_⟩
  · rcases hd with hd | hd
    · simp [hd] at h1
    · exact hd
  · rcases hl y hy with h2 | h2
    · simp [h2] at h1
    · split at h2
      · exact ⟨_, by assumption, of_decide_eq_true h2⟩
      · simp at h2
  · rcases hi y hy with (h3 | h3) | h3
    · simp [h3] at h1
    · omega
    · exact h3
  · rcases hj with (h3 | h3) | h3
    · simp [h3] at h1
    · omega
    · exact h3
  · rcases hn n hn1 with h3 | h3
    · exact absurd (by simpa using h3) hn2
    · exact h3
  · rcases hp with h2 | h2
    · rw [h2] at h1; cases h1
    · exact h2 l hl

def laneIssuesB (s : State) (m : Team) (i : Nat) (p : Split) (f : Lane) (u : LaneUse) (sp : LaneSpec) : Bool :=
  decide (s.focus = some ⟨0, 0, some i⟩) && decide (s.team 0 0 = some m) && decide (m.ctl.split i = some p) &&
  (laneCheck s ⟨0, 0, m, i, p, f, issuedLanes m p f sp.guarded, laneSource s 0 m p f⟩ u sp (lanesOf (m.active p) m.id.lanes)).isNone &&
  (!sp.guarded || (lanesOf (m.active p) m.id.lanes).all fun l => !m.ctl.predMark f.pg.toNat l)

theorem laneIssues_of {s : State} {m : Team} {i : Nat} {p : Split} {f : Lane} {u : LaneUse} {sp : LaneSpec}
    (h : laneIssuesB s m i p f u sp = true) : LaneIssues s 0 0 m i p f u sp := by
  simp only [laneIssuesB, Bool.and_eq_true, decide_eq_true_eq, List.all_eq_true, Bool.not_eq_true', Bool.or_eq_true,
    Option.isNone_iff_eq_none] at h
  obtain ⟨⟨⟨⟨hf, ht⟩, hs⟩, hc⟩, hg⟩ := h
  refine ⟨hf, ht, hs, hc, fun h1 => ?_⟩
  rcases hg with h2 | h2
  · simp [h2] at h1
  · exact h2


/-! ### Integer words -/

/-- A value of a scalar register after a word. -/
def after (o : Host.Outcome State Fault Refusal) (f : State → Bool) : Bool :=
  match o with
  | .next s => f s
  | _ => false

/-- The state of the scalar tests: s3 = 6, s5 = 7, s6 = 0, s7 = 2^64 - 2. -/
def sInt : State := demo (demoTeam false) none 1 [(3, 6), (5, 7), (7, -2), (55, 1)]
/-- The same, the divider busy. -/
def sBusy : State := sInt.modCore 0 fun k => { k with divider := some (0, 9, 2000) }
/-- A word of format SA on s3 and s5 (or sb) to s55 under k7, with W. -/
def fA (b : BitVec 6) : SA := ⟨true, 55, 3, b, 7⟩

theorem witness_ScalarIntegerWordsComplete :
    ScalarReady sInt 0 0 (demoTeam false) [3, 5, 55] [3, 5] [] (fA 5).g.toNat ∧
    ScalarReady sInt 0 0 (demoTeam false) [3, 5, 55] [3, 5, 55] [] (fA 5).g.toNat ∧
    ScalarReady sInt 0 0 (demoTeam false) [3, 55] [3] [] (fA 5).g.toNat ∧
    ScalarReady sInt 0 0 (demoTeam false) [3, 55] [3] [] 0 ∧ ScalarReady sInt 0 0 (demoTeam false) [55] [] [] 0 := by
  refine ⟨scalarReady_of ?_, scalarReady_of ?_, scalarReady_of ?_, scalarReady_of ?_, scalarReady_of ?_⟩ <;> decide +kernel

theorem witness_ScalarComparesSelectsAndDividesComplete :
    ScalarReady sInt 0 0 (demoTeam false) [3, 5] [3, 5] [] (fA 5).g.toNat ∧ ScalarReady sInt 0 0 (demoTeam false) [3] [3] [] 0 ∧
    (true = true ↔ conditionTrue .lt (sInt.sreg 0 (demoTeam false) 3).val (sInt.sreg 0 (demoTeam false) 5).val) ∧
    ScalarReady sInt 0 0 (demoTeam false) [] [] [3, 5] (fA 5).g.toNat ∧
    ScalarReady sInt 0 0 (demoTeam false) [3, 6, 55] [3, 6] [] 7 ∧ (sInt.sreg 0 (demoTeam false) 6).val = 0 ∧
    ScalarReady sBusy 0 0 (demoTeam false) [3, 5, 55] [3, 5] [] 7 ∧ (sBusy.sreg 0 (demoTeam false) 5).val ≠ 0 ∧
    (sBusy.core 0).divider ≠ none ∧ (sInt.sreg 0 (demoTeam false) 5).val ≠ 0 ∧ (sInt.core 0).divider = none := by
  refine ⟨scalarReady_of ?_, scalarReady_of ?_, iff_of_true rfl (show _ < _ from ?_), scalarReady_of ?_, scalarReady_of ?_, ?_, scalarReady_of ?_, ?_, ?_, ?_, ?_⟩ <;>
    decide +kernel

/-! ### Single steps of the integer words, against the manual -/

/-- What a scalar word leaves in register d, from the values of registers given. -/
def scalarGives (i : Instr) (rs : List (Nat × Word)) (d : Nat) (v : Word) : Bool :=
  after (exec i (demo (demoTeam false) none 1 rs)) fun s => decide (s.sreg 0 (demoTeam false) d = ⟨v, false⟩)

/-- Chapter 04, worked case: the address of a voxel record. -/
theorem test_lui_case : scalarGives (.sLui ⟨false, 11, 0x3B2A2⟩) [] 11 0x76544000 = true := by decide +kernel
theorem test_addImm_case : scalarGives (.sAddImm ⟨false, 11, 11, 0x1210⟩) [(11, 0x76544000)] 11 0x76543210 = true := by decide +kernel
theorem test_ileave3_case : scalarGives (.sIleave3 ⟨false, 10, 1, 2, 0⟩) [(10, 6), (1, 5), (2, 3)] 10 0x173 = true := by decide +kernel
theorem test_shlImm_case : scalarGives (.sShlImm ⟨false, 10, 10, 0, 4⟩) [(10, 0x173)] 10 0x1730 = true := by decide +kernel
theorem test_add_case : scalarGives (.sAdd ⟨false, 11, 11, 10, 0⟩) [(10, 0x1730), (11, 0x76543210)] 11 0x76544940 = true := by decide +kernel

/-- R95 (quotient −3 and remainder −1 of −7 by 2; −2^63 by −1), R94, R96: the sign of a remainder, wraps, the full shift, an empty count. -/
theorem test_sub_wraps : scalarGives (.sSub ⟨false, 1, 2, 3, 0⟩) [(3, 1)] 1 (-1) = true := by decide +kernel
theorem test_shl_full : scalarGives (.sShl ⟨false, 1, 2, 3, 0⟩) [(2, 5), (3, 64)] 1 0 = true := by decide +kernel
theorem test_sra_full : scalarGives (.sSra ⟨false, 1, 2, 3, 0⟩) [(2, -5), (3, 200)] 1 (-1) = true := by decide +kernel
theorem test_mulh_signs : scalarGives (.sMulh ⟨false, 1, 2, 3, 0⟩) [(2, -1), (3, 1)] 1 (-1) = true := by decide +kernel
theorem test_clz_zero : scalarGives (.sClz ⟨false, 1, 2, 0, 0⟩) [] 1 64 = true := by decide +kernel

/-- The value that a divide word will deliver. -/
def divideGives (i : Instr) (a b v : Word) : Bool :=
  after (exec i (demo (demoTeam false) none 1 [(2, a), (3, b)])) fun s => match s.team 0 0 with
    | some m => decide (m.pend.map (·.sregs) = [[(1, ⟨v, false⟩)]])
    | none => false

theorem test_div_truncates : divideGives (.sDiv ⟨false, 1, 2, 3, 0⟩) (-7) 2 (-3) = true := by decide +kernel
theorem test_rem_sign : divideGives (.sRem ⟨false, 1, 2, 3, 0⟩) (-7) 2 (-1) = true := by decide +kernel
theorem test_div_overflow : divideGives (.sDiv ⟨false, 1, 2, 3, 0⟩) (BitVec.intMin 64) (-1) (BitVec.intMin 64) = true := by decide +kernel

/-! ### Lane words -/

/-- The split of the lane tests. -/
def demoSplit : Split := Split.fresh (maskBelow 32) 0x10100 none false

/-- v5 = 30000, v6 = 10000, v7 = the lane's number, v8 = 2^63. -/
def sLane : State := withLanes (demo (demoTeam false) (some 0) 1 []) (demoTeam false)
  [(5, fun _ => 30000), (6, fun _ => 10000), (7, fun l => BitVec.ofNat 64 l), (8, fun _ => BitVec.intMin 64)]

/-- What a lane word leaves in v4 of lane 0. -/
def laneGives (i : Instr) (v : Word) : Bool :=
  after (exec i sLane) fun s => decide (s.vreg 0 (demoTeam false) 4 0 = ⟨v, false⟩)

/-- Chapter 04, worked case: 40000 as i16, saturated, and as n16. -/
theorem test_vadd_wraps : laneGives (.vAdd (lane 4 5 6 0 4 0 0)) (-25536) = true := by decide +kernel
theorem test_vadd_saturates : laneGives (.vAdd { lane 4 5 6 0 4 0 0 with sat := true }) 32767 = true := by decide +kernel
theorem test_vadd_unsigned : laneGives (.vAdd (lane 4 5 6 0 5 0 0)) 40000 = true := by decide +kernel
/-- A false guard leaves the register as it was. -/
theorem test_vadd_guard : laneGives (.vAdd (lane 4 5 6 0 4 2 0)) 0 = true := by decide +kernel
theorem test_vsra_immediate : laneGives (.vSra { lane 4 8 0 0 2 0 200 with x := true }) (-1) = true := by decide +kernel

theorem witness_LaneIntegerWordsComplete :
    LaneReady sLane 0 0 (demoTeam false) 0 demoSplit (lane 31 5 6 0 3 1 0) (sourcesAB (lane 31 5 6 0 3 1 0)) (sourcesAB (lane 31 5 6 0 3 1 0)) true [] ∧
    LaneReady sLane 0 0 (demoTeam false) 0 demoSplit { lane 0xF8 5 0 7 3 1 0 with x := true }
      (sourcesAB { lane 0xF8 5 0 7 3 1 0 with x := true } ++ [.c]) (sourcesAB { lane 0xF8 5 0 7 3 1 0 with x := true } ++ [.c]) true [] ∧
    LaneReady sLane 0 0 (demoTeam false) 0 demoSplit (lane 31 5 0 0 1 0 1) [.a] [.a] true [] ∧
    LaneReady sLane 0 0 (demoTeam false) 0 demoSplit { lane 31 5 6 7 3 0 0 with x := true } [.a, .b, .c] [.a, .b, .c] true [] ∧
    (lane 31 5 0 0 1 0 1).imm.toNat < (if (lane 31 5 0 0 1 0 1).x then 3 else 2) ∧ runningLanes (demoTeam false) demoSplit (lane 31 5 6 0 3 1 0) ≠ [] := by
  refine ⟨laneReady_of ?_, laneReady_of ?_, laneReady_of ?_, laneReady_of ?_, ?_, ?_⟩ <;> decide +kernel

theorem witness_LaneComparesSelectsAndMoves :
    LaneReady sLane 0 0 (demoTeam false) 0 demoSplit { lane 2 5 6 0 3 1 0 with pd := 2 } [.a, .b] [.a, .b] false [] ∧
    (true = true ↔ laneCondition (lane 2 6 5 0 3 1 0) 2 (laneSource sLane 0 (demoTeam false) demoSplit (lane 2 6 5 0 3 1 0) .a 0).val
      (laneSource sLane 0 (demoTeam false) demoSplit (lane 2 6 5 0 3 1 0) .b 0).val) ∧
    LaneReady sLane 0 0 (demoTeam false) 0 demoSplit { lane 31 5 6 0 3 1 1 with pd := 7 } [.a, .b] [] true [] ∧
    LaneReady sLane 0 0 (demoTeam false) 0 demoSplit { lane 0 7 1 0 3 1 0 with pd := 7 } [] [] false [7, 1] ∧
    LaneReady sLane 0 0 (demoTeam false) 0 demoSplit { lane 31 0 0 0 3 1 5 with x := true } [] [] true [] ∧
    LaneReady sLane 0 0 (demoTeam false) 0 demoSplit (lane 31 5 0 0 3 1 0) [.a] [] true [] := by
  refine ⟨laneReady_of ?_, iff_of_true rfl (show _ < _ from ?_), laneReady_of ?_, laneReady_of ?_, laneReady_of ?_, laneReady_of ?_⟩ <;> decide +kernel

/-! ### Floating-point words -/

theorem witness_RoundingAndSpecialOperandsFollowTheTables :
    (FVal.num false 1 3 0).rat = some (1 / 3) ∧ (FFmt.f32.value (roundV .f32 .rne false (.num false 1 3 0)).1).rat.isSome = true ∧
    (roundV .f32 .rne false (.num false 1 3 0)).2 &&& Flags.of = 0 ∧
    0x7F800000 < 2 ^ FFmt.f32.width ∧ (FFmt.f32.value 0x7F800000).isNan = false ∧ (FFmt.f64.value 1).isNan = false ∧
    (FVal.num true 5 1 (-3)).rat.isSome = true ∧ (FVal.num true 5 1 (-3)).proper ∧
    ((FVal.nan true).isNan || (FVal.inf true).isNan) = true ∧ (FVal.num true 0 1 0).isZero = true ∧
    ∃ z, (FFmt.f16.value 0x3C01).rat = some z ∧ z ≠ 1 ∧ (z - 1).abs = (1 - 1 + 1 / 1024 : Rat) := by
  refine ⟨by decide +kernel, by decide +kernel, by decide +kernel, by decide +kernel, by decide +kernel, by decide +kernel, by decide +kernel,
    Nat.one_pos, by decide +kernel, by decide +kernel, 1025 / 1024, by decide +kernel, by decide +kernel, by decide +kernel⟩

/-- f64 values: 1.0, 3.0, and FPCTL with every enable set. -/
def fOne : Word := 0x3FF0000000000000
def fThree : Word := 0x4008000000000000
def trapping (m : Team) : Team :=
  { m with regs := { m.regs with fpctl := 0x1F00 }, ctl := { m.ctl with running := m.ctl.running.map fun r => { r with block := { r.block with fpctl := 0x1F00 } } } }
def sFp : State := demo (demoTeam false) none 1 [(3, fOne), (5, fThree)]
def sFpTrap : State := demo (trapping (demoTeam false)) none 1 [(3, fOne), (5, fThree)]

theorem witness_ScalarFloatWordsComplete :
    ScalarReady sFp 0 0 (demoTeam false) ([3, 5] ++ [55]) [3, 5] [] 7 ∧ ScalarReady sFp 0 0 (demoTeam false) ([3] ++ [55]) [3] [] 7 ∧
    ScalarReady sFp 0 0 (demoTeam false) ([3, 5, 55] ++ [55]) [3, 5, 55] [] 7 ∧ ScalarReady sFp 0 0 (demoTeam false) [3, 5] [3, 5] [] 7 ∧
    enabledFlags (demoTeam false).regs.fpctl (roundR .f64 .rne (exactDiv (f64 fOne) (f64 fThree))).2 = 0 ∧ (sFp.core 0).divider = none ∧
    (sBusy.core 0).divider ≠ none ∧ ScalarReady sBusy 0 0 (demoTeam false) ([3, 5] ++ [55]) [3, 5] [] 7 ∧
    ScalarReady sFpTrap 0 0 (trapping (demoTeam false)) ([3, 5] ++ [55]) [3, 5] [] 7 ∧
    enabledFlags (trapping (demoTeam false)).regs.fpctl (roundR .f64 .rne (exactDiv (f64 fOne) (f64 fThree))).2 ≠ 0 ∧
    enabledFlags (trapping (demoTeam false)).regs.fpctl (Flags.when true Flags.nv) ≠ 0 ∧
    (true = true ↔ cmpV (f64 fOne) (f64 fThree) = some .lt) := by
  refine ⟨scalarReady_of ?_, scalarReady_of ?_, scalarReady_of ?_, scalarReady_of ?_, ?_, ?_, ?_, scalarReady_of ?_, scalarReady_of ?_, ?_, ?_,
    iff_of_true rfl ?_⟩ <;> decide +kernel

/-- The lanes hold 1.0 and 3.0; with `trapping` the inexact quotient traps. -/
def sLaneFp : State := withLanes (demo (demoTeam false) (some 0) 1 []) (demoTeam false) [(5, fun _ => fOne), (6, fun _ => fThree)]
def sLaneFpTrap : State := withLanes (demo (trapping (demoTeam false)) (some 0) 1 []) (trapping (demoTeam false)) [(5, fun _ => fOne), (6, fun _ => fThree)]
def lF : Lane := lane 31 5 6 6 0 1 0
def quotient (_ : Lane) (t : FFmt) (rm : RMode) (a b _c : Nat) : Nat × Flags := roundR t rm (exactDiv (t.value a) (t.value b))

theorem witness_LaneFloatWordsRoundOnce :
    LaneReady sLaneFp 0 0 (demoTeam false) 0 demoSplit lF [.a, .b] [.a, .b] true [] ∧
    LaneReady sLaneFp 0 0 (demoTeam false) 0 demoSplit lF [.a, .b, .c] [.a, .b, .c] true [] ∧
    LaneReady sLaneFp 0 0 (demoTeam false) 0 demoSplit lF [.a] [.a] true [] ∧
    trappingLanes (demoTeam false) demoSplit lF (fun l => (laneFloat sLaneFp 0 (demoTeam false) demoSplit lF (quotient lF) l).2) = [] ∧
    LaneReady sLaneFpTrap 0 0 (trapping (demoTeam false)) 0 demoSplit lF [.a, .b] [.a, .b] true [] ∧
    trappingLanes (trapping (demoTeam false)) demoSplit lF
      (fun l => (laneFloat sLaneFpTrap 0 (trapping (demoTeam false)) demoSplit lF (quotient lF) l).2) ≠ [] := by
  refine ⟨laneReady_of ?_, laneReady_of ?_, laneReady_of ?_, ?_, laneReady_of ?_, ?_⟩ <;> decide +kernel

theorem witness_LaneConversionsAndNarrowWordsComplete :
    LaneReady sLaneFp 0 0 (demoTeam false) 0 demoSplit lF [.a, .b] [.a, .b] false [] ∧
    LaneReady sLaneFp 0 0 (demoTeam false) 0 demoSplit lF [.a] [.a] true [] ∧ (lane 31 5 0 0 0 1 9).imm.getLsbD 3 = true ∧
    (lane 31 5 0 0 0 1 7).imm.getLsbD 3 = false ∧ (lane 31 5 0 0 0 1 1).imm.toNat % 16 < 2 ∧ 2 ≤ (lane 31 5 0 0 0 1 2).imm.toNat % 16 ∧
    LaneReady sLaneFp 0 0 (demoTeam false) 0 demoSplit lF [.a, .b, .c] [.a, .b, .c] true [] ∧
    trappingLanes (demoTeam false) demoSplit lF (fun l => (packElement .f64 6 false false
      ((laneSource sLaneFp 0 (demoTeam false) demoSplit lF .a l).val.toNat) 127 0).2.1) = [] ∧
    trappingLanes (trapping (demoTeam false)) demoSplit lF (fun l => (packElement .f64 6 false false
      ((laneSource sLaneFpTrap 0 (trapping (demoTeam false)) demoSplit lF .a l).val.toNat) 120 0).2.1) ≠ [] := by
  refine ⟨laneReady_of ?_, laneReady_of ?_, ?_, ?_, ?_, ?_, laneReady_of ?_, ?_, ?_⟩ <;> decide +kernel

/-- Chapter 05, worked case: the shared scale of 30.0 is 0x81, and 20.0, −3.1, 0.7 and 30.0 pack to 6, A, 0 and 7 with their flags. -/
theorem test_packScale_case : packScale .f64 6 0x403E000000000000 = 0x81 := by decide +kernel
theorem test_pack_case :
    (packElement .f64 6 false false 0x4034000000000000 0x81 0).1 = 6 ∧ (packElement .f64 6 false false 0xC008CCCCCCCCCCCD 0x81 0).1 = 0xA ∧
    packElement .f64 6 false false 0x3FE6666666666666 0x81 0 = (0, Flags.uf ||| Flags.nx, false) ∧
    packElement .f64 6 false false 0x403E000000000000 0x81 0 = (7, Flags.of ||| Flags.nx, false) := by decide +kernel

/-! ### Memory and scratchpads -/

/-- Memory with dwords at the addresses given. -/
def withMem (s : State) (ws : List (Nat × Nat)) : State := ws.foldl (fun s w => s.modMem fun x => x.write w.1 (natBytes 8 w.2) false) s

/-- The access passes; a trap stops it; it waits. -/
def okA (x : Access × State) : Bool := match x.1 with | .ok _ => true | _ => false
def badA (x : Access × State) : Bool := match x.1 with | .bad _ => true | _ => false
def okP (x : Except Raise Place) (p : Place) : Bool := match x with | .ok q => decide (q = p) | .error _ => false
def badP (x : Except Raise Place) (k : Cause) : Bool := match x with | .ok _ => false | .error r => decide (r.cause = k)

/-- The user team with s3 = 0x10000 (a page it may use), s4 = 16384 (scratchpad), s5 = 7, s6 odd. -/
def mU : Team := demoTeam false
def sMem : State := withMem (demo mU none 1 [(3, 0x10000), (4, 16384), (5, 7), (6, 0x10001), (8, 2 ^ 54)]) [(0x10000, 5), (0x10010, 9)]
def sSealed : State := sMem.modMem fun x => { x with seals := [(0x10000, 65536)] }
def sHeld : State := sMem.modMem fun x => { x with ranges := [⟨5, [(0x10000, 128)], []⟩] }
/-- Page tables: the root's entry 0 names a table whose entry 0 maps 2^36 bytes at 0. -/
def sWalk : State := (withMem ((sMem.modCore 0 fun k => { k with tlb := [] }).modDie 0 fun k => { k with tlb := [] }) [(0x100000, 0x102001), (0x102000, 0x7B)]).modSched fun x =>
  { x with roots := [(0, some 0x100000)] }

theorem witness_AccessesAreCheckedAndTranslated :
    (0x10001 : Word).toNat % 2 ≠ 0 ∧ ((2 ^ 54 : Word).toNat % 16 = 0 ∧ 2 ^ 54 ≤ (2 ^ 54 : Word).toNat) ∧
    ((sMem.core 0).tlb.find? (fun e => e.serves mU.id.asid 0x1FFF0 Need.load)).isSome = true ∧ (0x1FFF0 : Word).toNat % 16 = 0 ∧
    okA (checkAccess sMem 0 mU Need.load false 0x1FFF0 16) = true ∧
    ((sMem.core 0).tlb.find? (fun e => e.serves mU.id.asid 0x20000 Need.store)).map (fun e => permits e.leaf.toNat Need.store false) = some false ∧
    ((sMem.core 0).tlb.find? (fun e => e.serves mU.id.asid 0x30000 Need.load)).map (fun e => permits e.leaf.toNat Need.load false) = some false ∧
    ((sMem.core 0).tlb.find? (fun e => e.serves mU.id.asid 0x40004 Need.load)).map (fun e => isMgmt (leafAddr e.leaf.toNat e.level 0x40004)) = some true ∧
    sSealed.mem.sealed 0x10000 = true ∧ sHeld.blocked 0x10000 none = true ∧ sMem.blocked 0x1FFF0 none = false ∧
    (match walk sWalk 0 0 0x10000 Need.store false none with | (.ok _, _) => true | _ => false) = true ∧ sWalk.sched.races = [] := by decide +kernel

/-- R377: 63 lost attempts, each to a leaf with another software bit, and the 64th sets A and D; with 64 the translation is unsettled. -/
def sRaces (n : Nat) : State :=
  sWalk.modSched fun x => { x with races := (List.range n).map fun i => if i % 2 = 0 then 0x47B else 0x7B }

theorem test_walk_races :
    (match walk (sRaces 63) 0 0 0x10000 Need.store false none with | (.ok _, s) => decide (s.mem.read 0x102000 2 = [0xFB, 0x05]) | _ => false) = true ∧
    (match walk (sRaces 64) 0 0 0x10000 Need.store false none with | (.error (.fail .pageFault), _) => true | _ => false) = true := by decide +kernel

/-- R375, R377: the walk sets A and D in the leaf. -/
theorem test_walk_sets_bits : (walk sWalk 0 0 0x10000 Need.store false none).2.mem.read 0x102000 2 = [0xFB, 0x01] := by decide +kernel

/-- The longest access, with the greatest offset: two registers. -/
def wideSM (order : BitVec 2) : SM := ⟨true, 54, 3, 4, order, 255⟩

theorem witness_ScalarAccessesComplete :
    ScalarReady sMem 0 0 mU ((wideSM 0).base.toNat :: dataRegs (wideSM 0)) [3] [] 0 ∧ (wideSM 0).d.toNat % 2 = 0 ∧
    okA (checkAccess sMem 0 mU Need.load false (0x10000 + 255 * 16) 16) = true ∧ Committed true sMem 0 0 mU sMem mU ∧
    okA (checkAccess sMem 0 mU Need.store false (0x10000 + 255 * 16) 16) = true ∧ released sMem 0 scPackage = true ∧ semFree 0x10FF0 [0] = false ∧
    storesOverflow sMem 0 mU [0x10FF0] = false ∧ ScalarReady sMem 0 0 mU [4, 54, 55] [4] [] 0 ∧
    okP (checkScratch sMem 0 mU false 24560 16) ⟨0, 24560, false⟩ = true ∧ okP (checkScratch sMem 0 mU true 24560 16) ⟨0, 24560, false⟩ = true ∧
    undoOverflows sMem 0 mU [(⟨0, 24560, false⟩, 16)] = false ∧ badA (checkAccess sMem 0 mU Need.load false 0x10001 2) = true ∧
    badA (checkAccess sMem 0 mU Need.store false 0x20000 8) = true ∧ badP (checkScratch sMem 0 mU false 24576 8) .scratchBounds = true ∧
    badP (checkScratch sMem 0 mU true 0x200 8) .scratchBounds = true ∧ (4 : Nat) < 8 ∧ [(1 : Byte)].length = sizeBytes 0 ∧
    storeBytes 1 1 0 = [(1 : Byte)] := by
  refine ⟨scalarReady_of ?_, ?_, ?_, ⟨?_, rfl⟩, ?_, ?_, ?_, ?_, scalarReady_of ?_, ?_⟩ <;> decide +kernel

/-- A long result of a scalar word, as values by register. -/
def pends (o : Host.Outcome State Fault Refusal) (r : List (Nat × Marked)) : Bool :=
  after o fun s => match s.team 0 0 with | some m => decide (m.pend.map (·.sregs) = [r]) | none => false

/-- R32, R236: a byte of memory is extended, or not, by the size code. -/
theorem test_ld_extends : pends (exec (.sLd ⟨false, 9, 3, 5, 0, 0⟩) (withMem sMem [(0x10000, 0x80)])) [(9, ⟨-128, false⟩)] = true := by decide +kernel
theorem test_ld_zero : pends (exec (.sLd ⟨false, 9, 3, 0, 0, 0⟩) (withMem sMem [(0x10000, 0x80)])) [(9, ⟨0x80, false⟩)] = true := by decide +kernel
/-- R236: the store waits in its core with its bytes, lowest first. -/
theorem test_st_bytes : after (exec (.sSt ⟨false, 5, 3, 1, 0, 2⟩) sMem) (fun s => decide ((s.core 0).inflight.map (fun x => (x.pa, x.data)) = [(0x10004, [7, 0])])) = true := by
  decide +kernel

/-- Lanes 0, 1 and 31 hold addresses; the others address 0x10000. -/
def sLaneMem (base : Word) : State :=
  let s := demo mU (some 0) 1 []
  s.modCore 0 fun k => (List.range 32).foldl (fun k l => (k.setVreg mU 9 l ⟨base + 8 * BitVec.ofNat 64 l, false⟩).setVreg mU 10 l ⟨BitVec.ofNat 64 l, false⟩) k
def lLd : Lane := lane 31 9 0 0 3 1 0
def lSt : Lane := lane 0 9 10 0 3 1 0
def okL {α : Type} (x : LaneChecked α) : Bool := match x with | .ok _ => true | _ => false
def badL {α : Type} (x : LaneChecked α) : Bool := match x with | .bad _ => true | _ => false
def ldCtx (s : State) (f : Lane) (dst : List Nat) : LaneCtx := heldCtx s 0 0 mU 0 demoSplit f dst

theorem witness_LaneAccessesComplete :
    LaneIssues (sLaneMem 0x10000) 0 0 mU 0 demoSplit lLd { vd := .op, a := .op, x := true, imm := 0x3FFFFFF } { eat := [.a], pairD := lLd.ty.toNat = 4, long := true } ∧
    okL (laneGlobal (heldState (sLaneMem 0x10000) 0 0 mU 0 demoSplit lLd [31]) (ldCtx (sLaneMem 0x10000) lLd [31]) Need.load false 8).1 = true ∧
    mustCommit (sLaneMem 0x10000) (ldCtx (sLaneMem 0x10000) lLd [31]) 0 0 = false ∧
    badL (laneGlobal (heldState (sLaneMem 0x10001) 0 0 mU 0 demoSplit lLd [31]) (ldCtx (sLaneMem 0x10001) lLd [31]) Need.load false 8).1 = true ∧
    okL (laneScratch (heldState (sLaneMem 24320) 0 0 mU 0 demoSplit lLd [31]) (ldCtx (sLaneMem 24320) lLd [31]) false 8) = true ∧
    badL (laneScratch (heldState (sLaneMem 24328) 0 0 mU 0 demoSplit lLd [31]) (ldCtx (sLaneMem 24328) lLd [31]) false 8) = true ∧
    LaneIssues (sLaneMem 0x10000) 0 0 mU 0 demoSplit lSt { tys := 0x1F, a := .op, b := .op, x := true, imm := 0x3FFFFFF } { eat := [.a], pairB := lSt.ty.toNat = 4 } ∧
    okL (laneGlobal (heldState (sLaneMem 0x10000) 0 0 mU 0 demoSplit lSt []) (ldCtx (sLaneMem 0x10000) lSt []) Need.store false 8).1 = true ∧
    substBlocked (sLaneMem 0x10000) 0 mU (laneStores (sLaneMem 0x10000) (ldCtx (sLaneMem 0x10000) lSt []) 3 [(0, 0x10000)]) = false ∧
    storesOverflow (sLaneMem 0x10000) 0 mU [0x10000] = false ∧
    undoOverflows (sLaneMem 24320) 0 mU [(⟨0, 24320, false⟩, 8)] = false ∧
    (firstFailing [(3, ⟨.pageFault, 8, 0⟩), (5, ⟨.misaligned, 1, 0⟩)]).isSome = true := by
  refine ⟨laneIssues_of ?_, ?_, ?_, ?_, ?_, ?_, laneIssues_of ?_, ?_⟩ <;> decide +kernel

/-- R238: of a page fault in lane 3 and a misaligned address in lane 5, the word takes MISALIGNED. -/
theorem test_first_failing : firstFailing [(3, ⟨.pageFault, 8, 0⟩), (5, ⟨.misaligned, 1, 0⟩)] = some ⟨.misaligned, 1, maskOf [5]⟩ := by decide +kernel

def demoStore : Store := { pa := 0x1001F, data := [1, 2], mark := true, team := 0, lane32 := false, va := 0x1001F }

theorem witness_LoadsAndStoresMeetMemory :
    isMgmt 0x10018 = false ∧ sMem.lost 0x10018 = false ∧ 0x10018 % 32 + 8 ≤ 32 ∧ (sMem.core 0).l1.get none (0x10018 / 32) = none ∧
    (sMem.die 0).rdc.get none (0x10018 / 32) = none ∧ (sMem.core 0).inflight = [] ∧ mU.region = none ∧ sMem.team 0 0 = some mU ∧
    mU.substitute demoStore = none ∧ mU.ctl.policy.getLsbD 1 = false ∧ isMgmt demoStore.pa = false ∧ demoStore.data ≠ [] := by decide +kernel

/-- R228, R222: a marked store over the edge of a sector marks both sectors. -/
theorem test_store_marks : (sMem.performStore 0 demoStore).mem.marks = [(0x10000 / 32, true), (0x10020 / 32, true)] := by decide +kernel

/-- A partition that spans its cluster, with the same areas on core 1. -/
def sPeer : State :=
  let p := { demoPart 1 with clusters := true }
  (sMem.modCore 0 fun k => { k with part := some p }).modCore 1 fun k => { k with part := some p }

theorem witness_ScratchpadsHoldTheirBytes :
    (24561 : Word).toNat % 16 ≠ 0 ∧ badP (checkScratch sMem 0 mU false 24576 16) .scratchBounds = true ∧ (24576 : Word).toNat % 16 = 0 ∧
    okP (checkScratch sMem 0 mU true 16384 16) ⟨0, 16384, false⟩ = true ∧ okP (checkScratch sMem 0 mU true 24560 16) ⟨0, 24560, false⟩ = true ∧
    okP (checkScratch sMem 0 mU true 0x400 8) ⟨0, 0x400, false⟩ = true ∧ okP (checkScratch sMem 0 mU false 0x200 8) ⟨0, 0x200, false⟩ = true ∧
    okP (checkScratch sPeer 0 mU true 0x904000 8) ⟨1, 16384, true⟩ = true ∧ ([1] : List Byte) ≠ [] := by decide +kernel

/-! ### Arrival words, copies, streams, caches, atomics, barriers -/

/-- Scratchpad (or window) dwords at the offsets given. -/
def withStore (s : State) (ws : List (Nat × Nat)) : State := s.modCore 0 fun k => ws.foldl (fun k w => { k with store := k.store.set 0 (w.1 / 8) (wordN w.2) }) k
/-- A store of the team on its way. -/
def withInflight (s : State) : State := s.modCore 0 fun k => { k with inflight := [demoStore] }

/-- An arrival word at 16384 in generation 5; s5 = 4, s6 = 5 − (2^31 − 1), s7 = 5, s8 = 5 − 2^31. -/
def sArr : State := withStore (demo mU none 1 [(4, 16384), (5, 4), (6, 5 - (2 ^ 31 - 1)), (7, 5), (8, 5 - 2 ^ 31)]) [(16384, 0x100), (16392, 5)]
def genDistance (r : Nat) : Nat := ((sArr.core 0).readN (16384 + 8) 4 + 2 ^ 32 - (sArr.sreg 0 mU r).val.toNat % 2 ^ 32) % 2 ^ 32

theorem witness_ArrivalWordsCountGenerations :
    ScalarReady sArr 0 0 mU [4, 5] [4] [] 0 ∧ okP (checkScratch sArr 0 mU true 16384 16) ⟨0, 16384, false⟩ = true ∧
    undoOverflows sArr 0 mU [(⟨0, 16384, false⟩, 16)] = false ∧ ScalarReady sArr 0 0 mU [4, 5, 55] [4, 5] [] 0 ∧
    okP (checkScratch sArr 0 mU false 16384 16) ⟨0, 16384, false⟩ = true ∧ genDistance 5 = 1 ∧ genDistance 6 = 2 ^ 31 - 1 ∧ genDistance 7 = 0 ∧
    genDistance 8 = 2 ^ 31 ∧ 0 < 0x100 ∧ 15 < 16 := by
  refine ⟨scalarReady_of ?_, ?_, ?_, scalarReady_of ?_, ?_⟩ <;> decide +kernel

/-- R242: of a target of 256 bytes, 0x2FF bytes complete two generations and leave 0xFF. -/
theorem test_contribute : ((sArr.contribute 0 16384 0x2FF 0 false).core 0).readN 16392 4 = 7 ∧
    ((sArr.contribute 0 16384 0x2FF 0 false).core 0).readN 16388 4 = 0xFF := by decide +kernel

/-- A copy of 64 bytes from 0x10000 to scratchpad (`sp`) or to 0x10100, described at 16384. -/
def sCopyTest (sp : Bool) (len : Nat) : State :=
  withStore (demo mU none 1 [(4, 16384)]) [(16384, 0x10000), (16392, if sp then 16896 else 0x10100), (16400, len), (16408, if sp then 2 else 0)]
/-- A fill stream described at 0x10000. -/
def sStreamTest (rows : Nat) : State :=
  withMem (demo mU none 1 [(3, 0x10000)]) [(0x10000, 0x10200), (0x10008, 64), (0x10010, 64 * 2 ^ 32 + rows * 2 ^ 48), (0x10018, 2 + 16896 * 2 ^ 32),
    (0x10020, 64 + 2 ^ 33), (0x10028, 17152 + 17168 * 2 ^ 32)]
def sStreamsFull : State := (sStreamTest 1).modCore 0 fun k =>
  { k with streams := (List.range 8).map fun i => (i, some { desc := [], next := 0, asid := 0, runtime := false, broken := false, entry := false }) }
def streamDesc (s : State) : List Word := dwordsOf (s.readHome 0 0x10000 64).1.1

theorem witness_CopiesAndStreamsAreQueued :
    ScalarReady (sCopyTest true 64) 0 0 mU [4, 55] [4] [] 0 ∧
    (match checkDescriptor (sCopyTest true 64) 0 mU 16384 with | .ok o => o == 16384 | _ => false) = true ∧
    (descriptorPoison mU 4 false).isNone = true ∧ Committed true (sCopyTest true 64) 0 0 mU (sCopyTest true 64) mU ∧
    settled (sCopyTest true 64) 0 = true ∧ ((sCopyTest true 64).cluster 0).copies.length < 32 ∧
    copyBad (sCopyTest true 64) 0 mU 16384 = false ∧ copyBad (sCopyTest true 0) 0 mU 16384 = true ∧
    copyBad (sCopyTest false 64) 0 mU 16384 = false ∧
    (let r := (sCopyTest false 64).pieces none 0 mU.id.asid mU.id.runtime Need.store 0x10100 64
     !r.1.isEmpty && !r.2.rangesFull r.1) = true ∧
    ScalarReady (sStreamTest 1) 0 0 mU [3, 55] [3] [] 0 ∧ okA (checkAccess (sStreamTest 1) 0 mU Need.load false 0x10000 64) = true ∧
    (descriptorPoison mU 3 ((sStreamTest 1).mem.mark 0x10000 64)).isNone = true ∧
    streamBad (sStreamTest 1) 0 mU (streamDesc (sStreamTest 1)) = false ∧ streamBad (sStreamTest 0) 0 mU (streamDesc (sStreamTest 0)) = true ∧
    ((sStreamTest 1).core 0).streams.get none 0 = none ∧ ((List.range 8).all fun i => ((sStreamsFull.core 0).streams.get none i).isSome) = true := by
  refine ⟨scalarReady_of ?_, ?_, ?_, ⟨?_, rfl⟩, ?_, ?_, ?_, ?_, ?_, ?_, scalarReady_of ?_, ?_⟩ <;> decide +kernel

theorem witness_CachesAndFencesOrderAccesses :
    ScalarReady sMem 0 0 mU [3, 5] [3, 5] [] 0 ∧ ScalarReady sMem 0 0 mU [3, 5, 55] [3, 5] [] 0 ∧ storesHome sMem 0 0 = true ∧
    storesHome (withInflight sMem) 0 0 = false ∧ ScalarReady sMem 0 0 mU [] [] [] 0 ∧ Committed true sMem 0 0 mU sMem mU ∧
    released sMem 0 6 = true ∧ ScalarReady (withInflight sMem) 0 0 mU [] [] [] 0 ∧ released (withInflight sMem) 0 2 = false := by
  refine ⟨scalarReady_of ?_, scalarReady_of ?_, ?_, ?_, scalarReady_of ?_, ⟨?_, rfl⟩, ?_, scalarReady_of ?_, ?_⟩ <;> decide +kernel

theorem witness_ScalarAtomicsComplete :
    ScalarReady sMem 0 0 mU [3, 5, 55] (if atomCode .swap = 8 then [3] else [3, 5]) [] 0 ∧ ScalarReady sMem 0 0 mU [3, 5, 55] (if atomCode .faddF64 = 8 then [3] else [3, 5]) [] 0 ∧
    okA (checkAccess sMem 0 mU Need.atomic true 0x10000 8) = true ∧ okA (checkAccess sMem 0 mU Need.atomic true 0x1001C 4) = true ∧
    Committed true sMem 0 0 mU sMem mU ∧ released sMem 0 5 = true ∧
    ScalarReady sMem 0 0 mU ([54, 55] ++ [3] ++ [52, 53] ++ [54, 55]) ([54, 55] ++ [3]) [] 0 ∧
    okA (checkAccess sMem 0 mU Need.atomic true 0x10000 16) = true ∧ isMgmt 0x10010 = false ∧ sMem.lost 0x10010 = false ∧
    (sMem.core 0).inflight = [] ∧ 0x10010 % 32 + 16 ≤ 32 := by
  refine ⟨scalarReady_of ?_, scalarReady_of ?_, ?_, ?_, ⟨?_, rfl⟩, ?_, scalarReady_of ?_, ?_⟩ <;> decide +kernel

/-- R274: the old value is returned and the sum is written at the home. -/
theorem test_atom_add : after (exec (.sAtom .add 0 ⟨false, 9, 3, 5⟩) sMem) (fun s => decide (s.mem.read 0x10000 8 = natBytes 8 12) &&
    match s.team 0 0 with | some m => decide (m.pend.map (·.sregs) = [[(9, ⟨5, false⟩)]]) | none => false) = true := by decide +kernel

def lAtom (op : Nat) (vc : BitVec 8) : Lane := lane 31 9 10 vc 0 1 (BitVec.ofNat 33 (op * 2 ^ 29))

def bfLane : Lane := lane 4 2 3 0 2 0 0
def mIn0 : Team := { mU with region := some demoRegion }
def lCasWord : Lane := { lAtom 0 10 with pd := 3 }
/-- The addresses that the lanes of a word get, in memory or in core stores. -/
def addrs (base : Word) (f : Lane) (dst : List Nat) : Option (List (Nat × Nat)) :=
  match (laneGlobal (heldState (sLaneMem base) 0 0 mU 0 demoSplit f dst true true) (heldCtx (sLaneMem base) 0 0 mU 0 demoSplit f dst true true) Need.atomic true (laneAtomBytes f)).1 with
  | .ok ps => some ps | .bad _ => none | .wait => some []
def places (base : Word) (f : Lane) (dst : List Nat) : Option (List (Nat × Place)) :=
  match laneScratch (heldState (sLaneMem base) 0 0 mU 0 demoSplit f dst true true) (heldCtx (sLaneMem base) 0 0 mU 0 demoSplit f dst true true) true (laneAtomBytes f) with
  | .ok ps => some ps | .bad _ => none | .wait => some []
def noDead (k : Core) (off n : Nat) : Bool := (List.range n).all fun b => !(decide (off < k.windowEnd) && k.reserved ((off + b) / 8))

theorem noDead_of {k : Core} {off n : Nat} (h : noDead k off n = true) (hn : 0 < n) : ∀ u, ¬ deadUnit k off n u := by
  rintro u ⟨h1, h2, h3, h4⟩
  simp only [noDead, List.all_eq_true, List.mem_range, Bool.not_eq_true', Bool.and_eq_false_iff, decide_eq_false_iff_not] at h
  rcases Nat.lt_or_ge (8 * u) off with h5 | h5
  · have h6 := h 0 (by omega)
    rw [show (off + 0) / 8 = u by omega] at h6
    rcases h6 with h6 | h6
    · exact h6 h1
    · rw [h4] at h6; cases h6
  · have h6 := h (8 * u - off) (by omega)
    rw [show (off + (8 * u - off)) / 8 = u by omega] at h6
    rcases h6 with h6 | h6
    · exact h6 h1
    · rw [h4] at h6; cases h6

theorem witness_LaneAtomicsActInLaneOrder :
    LaneReady (sLaneMem 0x10000) 0 0 mU 0 demoSplit (lAtom 0 0) [.a, .b] [.a, .b] true [] ∧
    LaneReady (sLaneMem 0x10000) 0 0 mU 0 demoSplit (lAtom 8 0) [.a, .b] [.a] true [] ∧
    addrs 0x10000 (lAtom 0 0) [31] = some ((runningLanes mU demoSplit (lAtom 0 0)).map fun l => (l, 0x10000 + 8 * l)) ∧ addrs 0x10001 (lAtom 0 0) [31] = none ∧
    (laneAtomicWaits (sLaneMem 0x10000) (ldCtx (sLaneMem 0x10000) (lAtom 0 0) [31])).isNone = true ∧ mU.region = none ∧ ((sLaneMem 0x10000).core 0).inflight = [] ∧
    ((runningLanes mU demoSplit (lAtom 0 0)).all fun l => decide ((0x10000 + 8 * l) % laneAtomBytes (lAtom 0 0) = 0) && !isMgmt (0x10000 + 8 * l) &&
      !(sLaneMem 0x10000).lost (0x10000 + 8 * l)) = true ∧
    LaneReady (sLaneMem 24320) 0 0 mU 0 demoSplit (lAtom 0 0) [.a, .b] [.a, .b] true [] ∧
    places 24320 (lAtom 0 0) [31] = some ((runningLanes mU demoSplit (lAtom 0 0)).map fun l => (l, ⟨0, 24320 + 8 * l, false⟩)) ∧ places 24328 (lAtom 0 0) [31] = none ∧
    (∀ u, ¬ deadUnit ((sLaneMem 24320).core 0) 24320 4 u) ∧
    LaneReady (sLaneMem 0x10000) 0 0 mU 0 demoSplit lCasWord [.a, .b, .c] [.a, .b] true [] ∧
    addrs 0x10000 lCasWord [31, 243] = some ((runningLanes mU demoSplit lCasWord).map fun l => (l, 0x10000 + 8 * l)) ∧
    mIn0.region ≠ none ∧ LaneReady (demo mIn0 (some 0) 1 []) 0 0 mIn0 0 demoSplit (lAtom 0 0) [.a, .b] [.a, .b] true [] ∧
    (lAtom 8 0).ty ≠ 2 ∧ bfLane.ty = 2 ∧ (lAtom 8 0).imm.toNat / 2 ^ 29 % 16 ≤ 8 ∧ ([0, 31] : List Nat) ≠ [] := by
  refine ⟨laneReady_of ?_, laneReady_of ?_, ?_, ?_, ?_, ?_, ?_, ?_, laneReady_of ?_, ?_, ?_, noDead_of ?_ (by decide), laneReady_of ?_, ?_, ?_, laneReady_of ?_, ?_⟩ <;>
    decide +kernel

def bfAtom : Lane := lane 4 2 3 0 2 0 0
def bfMerge := merge bfAtom (fun l => [0x00013B80, 0x80013B80, 0x00023B80].getD l 0) [0, 1, 2]
/-- Chapter 09, worked case: three lanes add bf16 pairs at one word; each returns what the lanes before it leave. -/
theorem test_bf16x2_case :
    laneComb bfAtom 0x00013F80 bfMerge.1 = 0x00033F82 ∧ (merged bfAtom 0x00013F80 false bfMerge.2).map (fun e => (e.1, e.2.d.map (·.val))) =
      [(0, some 0x00013F80), (1, some 0x00023F80), (2, some 0x00013F81)] := by decide +kernel
theorem test_bf16x2_case_b : combHalves 0x40007F80 0x4040FF80 = 0x40A07FC0 := by decide +kernel

def mBar : Team := { mU with sched := { mU.sched with hold := some (.barrier 255 4) } }
/-- Barrier 255 expects two teams, one has arrived, phase 4. -/
def sBar : State := (demo mU none 1 [(1, 1), (5, 32), (6, 33)]).modCore 0 fun k => { k with barriers := [(255, ⟨2, 1, 4⟩)] }
def sBarHeld (phase : Nat) : State := (demo mBar none 1 []).modCore 0 fun k => { k with barriers := [(255, ⟨2, 0, phase⟩)] }

theorem witness_BarriersCountArrivals :
    ScalarReady sBar 0 0 mU [5] [5] [] 0 ∧ (sBar.sreg 0 mU 1).val = 1 ∧ (sBar.sreg 0 mU 5).val = 32 ∧ ScalarReady sBar 0 0 mU [6] [6] [] 0 ∧
    ¬ (1 ≤ (sBar.sreg 0 mU 6).val.toNat ∧ (sBar.sreg 0 mU 6).val.toNat ≤ 32) ∧ (sBar.barrier 0 254).expected = 0 ∧
    ScalarReady sBar 0 0 mU [] [] [] 0 ∧ mU.sched.hold = none ∧ (sBar.barrier 0 255).expected ≠ 0 ∧ Committed true sBar 0 0 mU sBar mU ∧
    ScalarReady (sBarHeld 4) 0 0 mBar [] [] [] 0 ∧ mBar.sched.hold = some (.barrier 255 4) ∧ ((sBarHeld 4).barrier 0 255).phase = 4 ∧
    ScalarReady (sBarHeld 5) 0 0 mBar [] [] [] 0 ∧ ((sBarHeld 5).barrier 0 255).phase ≠ 4 := by
  refine ⟨scalarReady_of ?_, ?_, ?_, scalarReady_of ?_, ?_, ?_, scalarReady_of ?_, ?_, ?_, ⟨?_, rfl⟩, scalarReady_of ?_, ?_, ?_, scalarReady_of ?_, ?_⟩ <;> decide +kernel

/-! ### The matrix unit and Yarrow -/

/-- A team with a window of 64 rows; in the second, an open region has logged 128 other rows. -/
def mMat : Team := { mU with regs := { mU.regs with accLimit := 64 } }
def mMatFull : Team := { mMat with region := some { demoRegion with accLog := (List.range 128).map fun i => ⟨i + 100, [], []⟩ } }
/-- f64 tiles at 16448 and 18496, a format block at 16384 and a loop descriptor at 24512; s4 and s5 name them for `s.mma`. -/
def sMat (m : Team) (fmt : Nat) : State :=
  withStore (demo m none 1 [(4, 16448 + 18496 * 2 ^ 32), (5, 16384), (6, 24512), (7, 16385), (8, 32), (9, 33)])
    [(16384, fmt), (24512, 16448 + 18496 * 2 ^ 32), (24536, 1)]
def aMatrixCmd (kind : MatrixKind) (row : Nat) : MatrixCmd :=
  { team := 0, pc := 0, ticket := 7, kind, z := true, fmt := [0, 0, 0, 0], row, steps := 0, flags := 0, poisoned := false, retried := false, waitSince := 0 }
def isTrap (x : MatrixCheck) : Bool := match x with | .trap _ => true | _ => false
def isStatus (x : MatrixCheck) : Bool := match x with | .status _ => true | _ => false
def isCmd (x : MatrixCheck) : Bool := match x with | .ok .. => true | _ => false

/-- The format block and the loop descriptor of that state. -/
def matFmt (fmt : Nat) : List Word := dwordsOf (((sMat mMat fmt).core 0).read 16384 32).1
def matLoop : List Word := dwordsOf (((sMat mMat 0).core 0).read 24512 64).1

theorem witness_MatrixWordsQueueCommands :
    ScalarReady (sMat mMat 0) 0 0 mMat [4, 5, 55] [4, 5] [] 0 ∧
    isCmd (mmaCheck ((sMat mMat 0).core 0) mMat (16448 + 18496 * 2 ^ 32) 16384) = true ∧
    isStatus (mmaCheck ((sMat mMat 0x10).core 0) mMat (16448 + 18496 * 2 ^ 32) 16384) = true ∧
    isTrap (mmaCheck ((sMat mMat 0).core 0) mMat (16448 + 18496 * 2 ^ 32) 16385) = true ∧
    isCmd (mloopCheck (sMat mMat 0) 0 mMat 24512 16384) = true ∧ isStatus (mloopCheck (sMat mMat 0x10) 0 mMat 24512 16384) = true ∧
    isTrap (mloopCheck (sMat mMat 0) 0 mMat 24513 16384) = true ∧ (descriptorPoison mMat 5 false).isNone = true ∧
    ((sMat mMat 0).core 0).matrix.length < 16 ∧ rowsOverflow mMat (List.range 32) = false ∧ rowsOverflow mMatFull (List.range 32) = true ∧
    ScalarReady (sMat mMatFull 0) 0 0 mMatFull [4, 5, 55] [4, 5] [] 0 ∧ 16 ≤ (List.replicate 16 (aMatrixCmd (.aclr 8) 0)).length ∧
    ScalarReady (sMat mMat 0) 0 0 mMat [8, 9] [8, 9] [] 0 ∧ 64 - 0 < 32 + 33 ∧ 32 + 32 ≤ mMat.regs.accLimit - mMat.regs.accBase ∧
    ScalarReady (sMat mMat 0) 0 0 mMat [6, 5, 55] [6, 5] [] 0 ∧ mMat.region = none ∧ inScratchpad ((sMat mMat 0).core 0) 16384 32 = true ∧
    blockMarked ((sMat mMat 0).core 0) 16384 32 = false ∧ formatBad (matFmt 0) = false ∧
    ((pairShape (fbA (matFmt 0)) (fbB (matFmt 0))).map fun sh => (decide (0 + sh.rows ≤ mMat.regs.accLimit - mMat.regs.accBase),
      tileInside ((sMat mMat 0).core 0) sh (tileOf (matFmt 0) sh false 16448), tileInside ((sMat mMat 0).core 0) sh (tileOf (matFmt 0) sh true 18496))) = some (true, true, true) ∧
    inScratchpad ((sMat mMat 0).core 0) 24512 64 = true ∧ blockMarked ((sMat mMat 0).core 0) 24512 64 = false ∧
    field matLoop 0 0 32 = 16448 ∧ field matLoop 4 0 32 = 18496 ∧ ¬ LoopFieldsBad (sMat mMat 0) 0 mMat matLoop := by
  refine ⟨scalarReady_of ?_, ?_, ?_, ?_, ?_, ?_, ?_, ?_, ?_, ?_, ?_, scalarReady_of ?_, ?_, scalarReady_of ?_, ?_, ?_, scalarReady_of ?_, ?_, ?_, ?_, ?_, ?_, ?_, ?_,
    ?_, ?_, ?_⟩
  all_goals first | (unfold LoopFieldsBad; decide +kernel) | decide +kernel

/-- Lanes name accumulator elements 0, 8, 16 and so on. -/
def sAcc (m : Team) : State :=
  let s := demo m (some 0) 1 []
  s.modCore 0 fun k => ((List.range 32).foldl (fun k l => (k.setVreg m 9 l ⟨8 * BitVec.ofNat 64 l, false⟩).setVreg m 10 l ⟨0x3FB999999999999A, false⟩) k).accSet true 0 0 0x3FB999999999999A false
def lAcc (ty : BitVec 3) (x : Bool) : Lane := { lane 31 9 0 0 ty 1 0 with x }
def lSta (ty : BitVec 3) (x : Bool) : Lane := { lane 0 9 10 0 ty 1 0 with x }
def accCtx (m : Team) (f : Lane) (dst : List Nat) : LaneCtx := heldCtx (sAcc m) 0 0 m 0 demoSplit f dst
def accOk (m : Team) (f : Lane) (dst : List Nat) (p : List (Nat × Nat × Nat) → Bool) : Bool :=
  match accLanes (accCtx m f dst) with | .ok ps => p ps | _ => false
def winWord (base count : Nat) : Word := BitVec.ofNat 64 (count * 2 ^ 16 + base)
def mIdle : Team := { mMat with ctl := { mMat.ctl with running := none } }
/-- Teams 0 (the leader) and 1; team 1 holds rows 512 to 575. -/
def sWin : State :=
  let other := { mIdle with id := { mIdle.id with index := 1 }, regs := { mIdle.regs with accBase := 512, accLimit := 576 } }
  (demo mIdle none 1 [(4, 0), (5, winWord 448 64), (6, winWord 449 64), (7, 9), (8, winWord 960 65), (9, 1)]).modCore 0 fun k =>
    { k with teams := k.teams ++ [(1, some other)] }

theorem witness_WindowsAndLaneAccumulatorAccess :
    ScalarReady sWin 0 0 mIdle ([4, 5] ++ [55]) [4, 5] [] 0 ∧ ScalarReady sWin 0 0 mIdle ([4] ++ [55]) [4] [] 0 ∧ sWin.team 0 9 = none ∧
    (sWin.team 0 0).isSome = true ∧ 1024 < 960 + 65 ∧ ¬ 1024 < 448 + 64 ∧ (sWin.core 0).leader = some 0 ∧ (sWin.core 0).busyFor 0 mIdle = false ∧
    (sWin.core 0).busyFor 0 mMat = true ∧ (sWin.team 0 1).isSome = true ∧
    LaneIssues (sAcc mMat) 0 0 mMat 0 demoSplit (lAcc 0 true) { tys := 0xF, vd := .op, a := .op, rm := accConverts (lAcc 0 true), x := true, imm := 0xFFFF } { eat := [.a], long := true } ∧
    badL (accLanes (accCtx mU (lAcc 0 true) [31])) = true ∧
    accOk mMat (lAcc 0 true) [31] (fun ps => (fpTrap 0 (accLoads (sAcc mMat) (accCtx mMat (lAcc 0 true) [31]) ps)).isNone &&
      !accWaits (sAcc mMat) (accCtx mMat (lAcc 0 true) [31]) (ps.map (·.2.1))) = true ∧
    accOk mMat (lAcc 1 true) [31] (fun ps => (fpTrap 0x1F00 (accLoads (sAcc mMat) (accCtx mMat (lAcc 1 true) [31]) ps)).isSome) = true ∧
    LaneIssues (sAcc mMat) 0 0 mMat 0 demoSplit (lSta 0 true) { tys := 0xF, a := .op, b := .op, rm := accConverts (lSta 0 true), x := true, imm := 0xFFFF } { eat := [.a] } ∧
    accOk mMat (lSta 0 true) [] (fun ps => (fpTrap 0 (accStoreFlags (accCtx mMat (lSta 0 true) []) ps)).isNone && !rowsOverflow mMat (ps.map (·.2.1)) &&
      rowsOverflow mMatFull (ps.map (·.2.1))) = true ∧
    accOk mMat (lSta 0 false) [] (fun ps => (fpTrap 0x1F00 (accStoreFlags (accCtx mMat (lSta 0 false) []) ps)).isSome) = true := by
  refine ⟨scalarReady_of ?_, scalarReady_of ?_, ?_, ?_, ?_, ?_, ?_, ?_, ?_, ?_, laneIssues_of ?_, ?_, ?_, ?_, laneIssues_of ?_, ?_⟩ <;> decide +kernel

theorem witness_MatrixStepsSumExactly :
    [(FVal.num false 3 1 0, FVal.num true 1 2 1)].map (fun p => (p.1.rat, p.2.rat)) = [((3 : Rat), (-1 : Rat))].map (fun x => (some x.1, some x.2)) ∧
    (∀ p ∈ [(FVal.num false 3 1 0, FVal.num true 1 2 1)], p.1.proper ∧ p.2.proper) ∧
    pairShape 11 11 = some ⟨64, 128, 64, false⟩ ∧ 128 % 64 = 0 ∧ (List.replicate 128 (FVal.num false 1 1 0, FVal.nan false)).length = 128 ∧
    (exactMul (FVal.num false 1 1 0) (FVal.nan false)).1.isNan = true ∧ (groupSum .rne [(FVal.num false 3 1 0, FVal.num true 1 2 1)]).1.isNan = false ∧
    pairShape 11 1 = some ⟨64, 64, 64, false⟩ := by
  refine ⟨by decide +kernel, ?_, by decide +kernel⟩
  intro p hp
  simp only [List.mem_singleton] at hp
  subst hp
  exact ⟨Nat.one_pos, Nat.succ_pos 1⟩

/-- Chapter 06, worked case: row 0 of A and of B. -/
def mmaRowA : List FVal := List.replicate 64 (nq4Value (.num false 1 1 0) 7) ++ List.replicate 64 (nq4Value (FFmt.f32.value 0x3E4CCCCD) 3)
def mmaRowB : List FVal :=
  List.replicate 32 (nq4Value (.num false 2 1 0) 7) ++ List.replicate 32 (nq4Value (.num false 2 1 0) 1) ++ List.replicate 64 (nq4Value (.num false 2 1 0) 14)
theorem test_mma_case : (stepElement ⟨64, 128, 64, false⟩ .rne 0 (mmaRowA.zip mmaRowB)).1 = 0x4284FE20 := by decide +kernel

/-- Bytes from words of 4. -/
def words4 (l : List Nat) : List Byte := l.flatMap (natBytes 4)
/-- Chapter 07, worked case: the triangle leaf, node 2. -/
def caseLeaf : List Byte :=
  words4 ([0x312, 500, 0, 0, 0, 0xC0800000, 0x40200000, 0x40800000, 0xC0800000, 0x40200000, 0, 0x40800000, 0x40200000] ++ List.replicate 19 0)
def caseQuery (nodes ctrl at_ : Nat) : List Byte :=
  words4 [0x10000, 0, nodes, 2, 0, 0, 0, 0, 0xC0000000, 0xC0000000, 0x3F800000, 0x42C80000, 0x3F800000, 0, 0, ctrl, 0, 0x3F800000, 0, at_, 0x18000, 0, 0, 0]
/-- Its query lies at 18432; s2 names it. The results lie at 0x18000. -/
def sBeamOf (nodes ctrl at_ : Nat) : State :=
  let s := demo mU none 1 [(2, 18432), (4, 18433), (5, 32768)]
  { s with mem := s.mem.write 0x10100 caseLeaf false }.modCore 0 fun k => k.putBytes 18432 (caseQuery nodes ctrl at_)
def sBeam (nodes : Nat) : State := sBeamOf nodes 0x12 0
def queryWords (s : State) : List Word := dwordsOf ((s.core 0).read 18432 128).1
def sBeamFull : State := (sBeam 3).modCluster 0 fun k => { k with beams := List.replicate 32 ⟨0, 0, 0, 0, false, 0, .trace 0 []⟩ }
def okR (x : Except (Option Raise) (List (Nat × Nat)) × State) : Option Nat := match x.1 with | .ok _ => some 0 | .error r => r.map (·.cause.code)

/-- An engine writes a sector, for a command that came before those of the tests. -/
def withRange (s : State) (pa : Nat) : State := s.modMem fun x => { x with ranges := [⟨5, [(pa, 32)], []⟩] }
/-- The page tables of `sWalk`, the line of the root's entry in use. -/
def withLine (s : State) (pa : Nat) : State :=
  (withMem s [(0x100000, 0x102001)]).modSched (fun x => { x with roots := [(0, some 0x100000)] }) |>.modMem fun x => { x with ranges := [⟨5, [(pa, 8)], []⟩] }

/-- Lanes 0, 1 and 31 name a ray at 16416 with a descriptor at 16512, or a texture at 16576 with coordinates (0.5, 0.5). -/
def sTrace : State :=
  withStore (withLanes (demo mU (some 0) 1 []) mU [(9, fun _ => 16416), (10, fun _ => 16512), (11, fun _ => 0x3F0000003F000000), (12, fun _ => 16576)])
    [(16520, 1), (16576, 0x10000), (16592, 4)]
def lTrace (pg : BitVec 3) : Lane := lane 30 9 10 0 0 pg 0
/-- A node lies where the rays of `sTraced` start. -/
def sTraced : State := withStore sTrace [(16512, 0x10000), (16440, 0x42C800003F800000)]
def lTex : Lane := lane 31 11 12 0 0 4 0
def laneCtx (s : State) (f : Lane) (dst : List Nat) : LaneCtx := heldCtx s 0 0 mU 0 demoSplit f dst
/-- The reads of a trace can be made at once. -/
def traced (s : State) : Bool :=
  let x := laneCtx s (lTrace 4) [30, 31]
  let h := heldState s 0 0 mU 0 demoSplit (lTrace 4) [30, 31]
  let rs := x.lanes.map fun l => (l, match traceCheck x h l with | .ok o => o | .error _ => ([], false, []))
  (traceLanes ⟨0, 0, 0, 0, false, 0, .trace 30 []⟩ rs (h.dropNodes 0) []).isSome

theorem witness_BeamWordsQueueQueries :
    ScalarReady (sBeam 3) 0 0 mU [2, 55] [2] [] 0 ∧ 18433 % 128 ≠ 0 ∧ 32768 % 128 = 0 ∧ inScratchpad ((sBeam 3).core 0) 32768 128 = false ∧
    inScratchpad ((sBeam 3).core 0) 18432 128 = true ∧ (descriptorPoison mU 2 false).isNone = true ∧ beamBad (queryWords (sBeam 0)) = true ∧
    beamBad (queryWords (sBeam 3)) = false ∧ okR (resultPieces (sBeam 3) mU 0 (queryWords (sBeam 3))) = some 0 ∧
    okR (resultPieces { sBeam 3 with dies := [] } mU 0 (queryWords (sBeam 3))) = some 6 ∧
    okR (resultPieces (withLine { sBeam 3 with dies := [] } 0x100000) mU 0 (queryWords (sBeam 3))) = none ∧ settled (sBeam 3) 0 = true ∧
    ((sBeam 3).cluster 0).beamCount < 32 ∧ 32 ≤ (sBeamFull.cluster 0).beamCount ∧ (sBeam 3).rangesFull [(0x18000, 256)] = false ∧
    LaneIssues sTrace 0 0 mU 0 demoSplit (lTrace 4) { vd := .op, a := .op, b := .op } { eat := [.a, .b], pairD := true, long := true } ∧
    ((laneCtx sTrace (lTrace 4) [30, 31]).lanes.all fun l => match traceCheck (laneCtx sTrace (lTrace 4) [30, 31]) sTrace l with | .ok _ => true | _ => false) = true ∧
    (laneCtx sTrace (lTrace 3) [30, 31]).lanes = [31] ∧ traced sTraced = true ∧ traced (withRange sTraced 0x10000) = false ∧
    (match traceCheck (laneCtx { sTrace with cores := [] } (lTrace 3) [30, 31]) { sTrace with cores := [] } 31 with | .ok _ => false | _ => true) = true ∧
    LaneIssues sTrace 0 0 mU 0 demoSplit lTex { vd := .op, a := .op, b := .op, c := .bits 0, x := true } { eat := [.a, .b], long := true } ∧
    (match texDescriptors (laneCtx sTrace lTex [31]) sTrace with
      | .ok ds => (texelChecks (laneCtx sTrace lTex [31]) sTrace (texelsOf (laneCtx sTrace lTex [31]) ds)).1.all fun e => match e.2 with | .ok _ => true | _ => false
      | _ => false) = true ∧ mU.ctl.policy.getLsbD 0 = false ∧ (2 ^ 128 - 1 : Nat) < 2 ^ 128 := by
  refine ⟨scalarReady_of ?_, ?_, ?_, ?_, ?_, ?_, ?_, ?_, ?_, ?_, ?_, ?_, ?_, ?_, ?_, laneIssues_of ?_, ?_, ?_, ?_, ?_, ?_, laneIssues_of ?_, ?_⟩ <;> decide +kernel

/-- Chapter 07, worked case: the result of ray (2, 1), asked for alone from node 2 on. -/
theorem test_beam_case : after (exec (.sBeam ⟨true, 4, 2, 0⟩) (sBeamOf 3 2 0x10002)) (fun s => after (exec (.beamQueryStart 0) s) fun s =>
    decide (s.mem.read (0x18000 + 16 * 6) 16 = natBytes 8 0x000001F440200000 ++ natBytes 8 0x0500000358005000) &&
    match s.team 0 0 with | some m => decide (m.pend.map (·.sregs) = [[(4, ⟨0x100000000, false⟩)]]) | none => false) = true := by decide +kernel

/-! ### Engines -/

/-- The state that a step leaves. -/
def ran (o : Host.Outcome State Fault Refusal) : State := match o with | .next s => s | _ => base

def stores2 : State := sMem.modCore 0 fun k => { k with inflight := [demoStore, { demoStore with pa := 0x1001E }, { demoStore with pa := 0x10100 }] }
/-- A copy, queued; and started. -/
def copyQueued (sp : Bool) : State := ran (exec (.sCopy ⟨true, 55, 4, 0⟩) { sCopyTest sp 64 with ticket := 10 })
def copyRuns (sp : Bool) : State := ran (exec (.copyStart 0) (copyQueued sp))
def theCopy (s : State) : CopyCmd := ((s.cluster 0).copies.head?).getD ⟨0, 0, 0, 0, 0, [], 0, false, false, false, false, false, [], false⟩
/-- How the moving ends: 0 done, 1 waits, 2 a fault of the virtual address that follows. -/
def movedTo (x : Moved) : Nat × Nat × Nat := match x with | .ok _ _ => (0, 0, 0) | .wait => (1, 0, 0) | .fault _ _ k va => (2, k.code, va)
def copyMoves (s : State) : Nat × Nat × Nat :=
  match moveCopy (cpLen (theCopy s).desc) s (theCopy s) 0 (cpLen (theCopy s).desc) with
  | .ok _ _ => (0, 0, 0)
  | .wait => (1, 0, 0)
  | .fault _ _ k va => (2, k.code, va)
/-- A copy from scratchpad to scratchpad runs. -/
def copyWithin : State := ran (exec (.copyStart 0) (ran (exec (.sCopy ⟨true, 55, 4, 0⟩)
  (withStore (demo mU none 1 [(4, 16384)]) [(16384, 17408), (16392, 16896), (16400, 64), (16408, 3), (17408, 79)]))))
/-- The die forgets its translations. -/
def noTlb (s : State) : State := s.modDie 0 fun k => { k with tlb := [] }

/-- A fill or drain stream in slot 0, one tile of it filled by software. -/
def streamRuns (drain : Bool) : State :=
  let s := sStreamTest 1
  let d := (streamDesc s).zipIdx.map fun e => if drain && e.2 == 6 then 1 else e.1
  ((withStore s [(17168, if drain then 1 else 0)]).modCore 0 fun k => { k with streams := [(0, some { desc := d, next := 0, asid := 0, runtime := false, broken := false, entry := false })] })
def theStream (s : State) : Stream := ((s.core 0).streams.get none 0).getD { desc := [], next := 0, asid := 0, runtime := false, broken := false, entry := false }
def tileMoves (s : State) : Nat × Nat × Nat := movedTo (moveTile 0 (theStream s) (theStream s).next s)

theorem witness_EnginesMoveTheirData :
    ((stores2.core 0).inflight[3]?).isNone = true ∧ ((stores2.core 0).inflight[2]?).isSome = true ∧ storeBehind [demoStore] { demoStore with pa := 0x1001E } = true ∧
    storeBehind [demoStore] { demoStore with pa := 0x10100 } = false ∧ stores2.blocked 0x1001F none = false ∧
    (withRange stores2 0x10010).blocked 0x1001F none = true ∧ stores2.lost 0x1001F = false ∧
    (stores2.core 0).part.map (fun p => (stores2.launch p.launch).isSome) = some false ∧
    ((copyQueued true).cluster 0).copies = [] ++ theCopy (copyQueued true) :: [] ∧ (theCopy (copyQueued true)).started = false ∧
    (theCopy (copyRuns true)).started = true ∧ ((copyRuns true).cluster 0).copies.find? (fun x => x.ticket == (theCopy (copyRuns true)).ticket && x.started) = some (theCopy (copyRuns true)) ∧
    copyMoves (copyRuns true) = (0, 0, 0) ∧ copyMoves (copyRuns false) = (0, 0, 0) ∧ copyMoves (withRange (copyRuns true) 0x10000) = (1, 0, 0) ∧
    copyMoves (noTlb (copyRuns true)) = (2, 6, 0x10000) ∧ copyCoreHeld copyWithin (theCopy copyWithin) 0 = true ∧
    cpSrcSp (theCopy copyWithin).desc = true ∧ cpDstSp (theCopy copyWithin).desc = true ∧ (theCopy copyWithin).started = true ∧ (theCopy copyWithin).taken = [] ∧
    (cpSrc (theCopy copyWithin).desc, cpDst (theCopy copyWithin).desc, cpLen (theCopy copyWithin).desc, (theCopy copyWithin).off) = (17408, 16896, 64, 16384) ∧
    (copyWithin.core 0).windowEnd = 16384 ∧ copyWithin.sched.preqs = [] ∧ cpAwen (theCopy copyWithin).desc = false ∧ copyCoreHeld (copyRuns true) (theCopy (copyRuns true)) 0 = true ∧ cpAwen (theCopy (copyRuns true)).desc = false ∧
    stDrain (theStream (streamRuns true)).desc = true ∧ tileReady (streamRuns true) 0 (theStream (streamRuns true)) = true ∧ tileMoves (streamRuns true) = (0, 0, 0) ∧
    (streamRuns true).rangesFull (tilePieces (streamRuns true) 0 (theStream (streamRuns true))) = false ∧ stDrain (theStream (streamRuns false)).desc = false ∧
    tileReady (streamRuns false) 0 (theStream (streamRuns false)) = true ∧ tileMoves (streamRuns false) = (0, 0, 0) ∧
    tileReady (withStore (streamRuns true) [(17168, 0)]) 0 (theStream (streamRuns true)) = false ∧
    tileMoves (noTlb (streamRuns false)) = (2, 6, 0x10200) ∧ tileMoves (withRange (streamRuns false) 0x10200) = (1, 0, 0) := by decide +kernel

/-- R249, R252: a copy of 64 bytes ends with RESULT done; the first tile arrives in the ring. -/
theorem test_copy_ends : ((ran (exec (.copyComplete 0 (theCopy (copyRuns false)).ticket) (withMem (copyRuns false) [(0x10038, 77)]))).mem.read 0x10138 8,
    ((ran (exec (.copyComplete 0 (theCopy (copyRuns false)).ticket) (copyRuns false))).core 0).readN (16384 + 0x20) 4) = (natBytes 8 77, 2 ^ 31) := by decide +kernel
theorem test_copy_within : ((ran (exec (.copyComplete 0 (theCopy copyWithin).ticket) copyWithin)).core 0).readN 16896 8 = 79 := by decide +kernel
theorem test_tile_arrives : ((ran (exec (.streamTileFill 0 0) (withMem (streamRuns false) [(0x10200, 78)]))).core 0).readN 16896 8 = 78 := by decide +kernel

/-- The queue of core 0 holds one command. -/
def withCmd (s : State) (x : MatrixCmd) : State := s.modCore 0 fun k => { k with matrix := [x] }
def mmaCmd : MatrixCmd := aMatrixCmd (.mma 16448 18496) 0
def sMma : State := withCmd (sMat mMat 0) mmaCmd
/-- A loop whose A operand waits on the arrival word at 24560, still in generation 0. -/
def loopCmd : MatrixCmd := aMatrixCmd (.mloop ((List.range 8).map fun i => if i = 3 then wordN (2 ^ 32) else if i = 4 then 24560 else 0)) 0
def sLoop : State := { withCmd (sMat mMat 0) loopCmd with cycles := 2 ^ 21 }

/-- Queues 4 (records) and 8 (launches) of a launch with ASID 0, their statistics at 0x10300. -/
def queueAt (s : State) (q base used log kind : Nat) : State :=
  withMem s [(s.boot.qtBase + 64 * q, base), (s.boot.qtBase + 64 * q + 8, used * 2 ^ 32), (s.boot.qtBase + 64 * q + 16, log * 256 + kind * 2 ^ 32),
    (s.boot.qtBase + 64 * q + 32, 0x10300)]
def sRun (phase : BeamPhase) (used : Nat) : State :=
  let s := queueAt (sBeam 3) 4 0x10400 used 1 2
  let d := (queryWords s).zipIdx.map fun e => if e.2 == 11 then wordN (4 * 2 ^ 32) else e.1
  s.modCluster 0 fun k => { k with run := some { BeamRun.start ⟨0, 0, 7, 0, false, 0, .beam 18432 d⟩ [] [] with phase } }
def answers : BeamPhase := .answer 0 1 ⟨0, 0, 0⟩ [] []
def runDesc (s : State) : List Word := match (s.cluster 0).run with | some r => (match r.cmd.job with | .beam _ d => d | _ => []) | none => []
/-- What a post of a split record meets: 0 taken, 1 full, 2 waits, 3 anything else. -/
def postMeets (s : State) : Nat :=
  match s.post (bmSplitQ (runDesc s)) (splitRecord (runDesc s) 1 ⟨0, 0, 0⟩) false none with | .done _ => 0 | .full => 1 | .wait => 2 | _ => 3
/-- Queued beam and trace queries. -/
def beamQueued : State := ran (exec (.sBeam ⟨true, 4, 2, 0⟩) (sBeam 3))
def traceQueued : State := ran (exec (.vTrace (lTrace 4)) sTraced)
def firstBeam (s : State) : BeamCmd := ((s.cluster 0).beams.head?).getD ⟨0, 0, 0, 0, false, 0, .trace 0 []⟩
def isTrace (s : State) : Bool := match (firstBeam s).job with | .trace .. => true | _ => false
def isAnswer (s : State) : Bool := match (s.cluster 0).run with | some r => (match r.phase with | .answer .. => true | _ => false) | none => false

theorem witness_MatrixUnitAndYarrowRunTheirWork :
    nextCommand (sMat mMat 0) 0 = none ∧ nextCommand sMma 0 = some mmaCmd ∧ sMma.team 0 0 = some mMat ∧
    pairShape (fbA mmaCmd.fmt) (fbB mmaCmd.fmt) = some ⟨32, 8, 1, true⟩ ∧
    tileInside (sMma.core 0) ⟨32, 8, 1, true⟩ (tileOf mmaCmd.fmt ⟨32, 8, 1, true⟩ false 16448) = true ∧
    tileInside (sMma.core 0) ⟨32, 8, 1, true⟩ (tileOf mmaCmd.fmt ⟨32, 8, 1, true⟩ true 18496) = true ∧ mMat.replayable (sMma.core 0) = false ∧
    nextCommand (withCmd sMma (aMatrixCmd (.aclr 9) 3)) 0 = some (aMatrixCmd (.aclr 9) 3) ∧ (9 : Nat) > 8 ∧
    nextCommand (withCmd sMma (aMatrixCmd (.aclr 8) 3)) 0 = some (aMatrixCmd (.aclr 8) 3) ∧
    (sLoop.core 0).matrix = [loopCmd] ∧ loopCmd.waits sLoop 0 = true ∧ loopCmd.waitSince + 2 ^ 20 ≤ sLoop.cycles ∧ sLoop.team 0 0 = some mMat ∧
    mmaCmd.waits sMma 0 = false ∧ (base.cluster 0).run = none ∧ (base.cluster 0).beams = [] ∧
    (beamQueued.cluster 0).run = none ∧ (beamQueued.cluster 0).beams = [firstBeam beamQueued] ∧ clusterOf (firstBeam beamQueued).core = 0 ∧
    isTrace beamQueued = false ∧ (traceQueued.cluster 0).beams = [firstBeam traceQueued] ∧ isTrace traceQueued = true ∧ (traceQueued.team 0 0).isSome = true ∧ isAnswer (sRun answers 0) = true ∧
    (sRun answers 0).recordQueue 0 4 = true ∧ bmSplitQ (runDesc (sRun answers 0)) = 4 ∧ postMeets (sRun answers 0) = 0 ∧ postMeets (sRun answers 2) = 1 ∧
    postMeets (withRange (sRun answers 0) 0x10400) = 2 ∧ ((sRun (.records 0) 0).cluster 0).run.isSome = true := by decide +kernel

/-- R177: nine rows take two steps; R198: a record that the queue takes is in memory. -/
theorem test_aclr : (((ran (exec (.matrixStep 0 .pass) (withCmd sMma (aMatrixCmd (.aclr 9) 3)))).core 0).matrix.map (·.row)) = [11] := by decide +kernel
theorem test_split_record : (ran (exec (.splitRecordAnswer 0) (sRun answers 0))).mem.read 0x10408 4 = natBytes 4 1 := by decide +kernel

/-! ### Waits and leases -/

/-- A team with outstanding long results: ticket 7 writes s5 and k3, ticket 8 lane register 9, ticket 9 is not ready. -/
def mPend : Team := { mU with pend :=
  [⟨7, [(5, ⟨42, false⟩)], [(3, false, false)], [], [], true, false, true⟩, ⟨8, [], [], [(9, 0, ⟨1, false⟩), (9, 31, ⟨2, true⟩)], [], true, true, true⟩,
   ⟨9, [(6, ⟨1, false⟩)], [], [], [], false, false, false⟩] }
def sPend : State := demo mPend none 1 []
def sDivides : State := sPend.modCore 0 fun k => { k with divider := some (0, 9, 1000) }

theorem witness_LongResultsWaitAndReturn :
    sPend.team 0 0 = some mPend ∧ mPend.pend.find? (fun p => p.ticket == 9 && p.ready) = none ∧
    ((mPend.pend.find? fun p => p.ticket == 7 && p.ready).map fun p => (p.sregs.map (·.1), p.ks, mPend.recovering && mPend.ofRegion p)) = some ([5], [(3, false, false)], false) ∧
    ((mPend.pend.find? fun p => p.ticket == 8 && p.ready).map fun p => ((p.vregs.map fun r => mPend.vUnit r.1 r.2.1).eraseDups.length, mPend.recovering && mPend.ofRegion p)) = some (2, false) ∧
    (sDivides.core 0).divider = some (0, 9, 1000) ∧ 1000 ≤ sDivides.cycles ∧ ({ sDivides with cycles := 999 } : State).cycles < 1000 ∧ (sPend.core 0).divider = none ∧
    (∀ e ∈ [(63, (⟨1, false⟩ : Marked))], e.1 < 64) := by decide +kernel

/-- R304, R231: a result of a fill that fails its check twice is written marked. -/
theorem test_long_returns : after (exec (.longResultReturn 0 0 7 .twice) sPend) (fun s => decide (s.sreg 0 mPend 5 = ⟨42, true⟩) &&
    match s.team 0 0 with | some m => !m.regs.pred 3 && m.regs.predMark 3 && decide (m.pend.length = 2) | none => false) = true := by decide +kernel

/-- A team whose word waits since cycle 0. -/
def held (h : Hold) : Team := { mU with sched := { mU.sched with hold := some h, holdSince := 0 } }
def sHolds (h : Hold) (cycles : Nat) : State := { demo (held h) none 1 [] with cycles }
def mParked : Team := { mU with sched := { mU.sched with parked := true } }
def popOf (handle : Word) : QueueOp := { kind := .pop, d := 5, kd := 2, handle, area := 16384, mark := false }
/-- Queue 4 takes records and holds one at 0x10400. -/
def sPops (handle : Word) (cycles used : Nat) : State := queueAt (sHolds (.queue (popOf handle)) cycles) 4 0x10400 used 1 2
def attempted (s : State) (handle : Word) : Option Nat := match queueAttempt s 0 0 (popOf handle) with | .code n _ => some n | _ => none
def aCollective (code : Option Nat) : Collective :=
  { gen := 0, members := 1, asid := 0, desc := [], launch := 0, team := 0, runtime := false, contributors := 1, restarts := 0, poisoned := false,
    code, orphan := false, order := 0 }
def sColl (code : Option Nat) (cycles : Nat) : State := (sHolds (.collective 6 8 0 false) cycles).modSched fun x => { x with collectives := [(8, some (aCollective code))] }

theorem witness_WaitsEndOrTimeOut :
    (demo mParked none 1 []).team 0 0 = some mParked ∧ mParked.released (demo mParked none 1 []) 0 0 = true ∧ mParked.trap.mchecks = [] ∧ mParked.trap.preempt = none ∧
    mParked.sched.yielding = false ∧ mParked.lease.raised = false ∧ mParked.home = none ∧ (demo mParked none 1 []).sched.preqs = [] ∧
    ({ mPend with sched := mParked.sched } : Team).released (demo { mPend with sched := mParked.sched } none 1 []) 0 0 = false ∧
    2 ^ 16 ≤ (sHolds (.regroup 5 1 0 0 false) (2 ^ 16)).cycles - (held (.regroup 5 1 0 0 false)).sched.holdSince ∧
    ¬ 2 ^ 16 ≤ (sHolds (.regroup 5 1 0 0 false) (2 ^ 16 - 1)).cycles - 0 ∧ (sHolds (.regroup 5 1 0 0 false) 0).team 0 0 = some (held (.regroup 5 1 0 0 false)) ∧
    2 ^ 20 ≤ (sHolds (.arrival 5 0 16384 1) (2 ^ 20)).cycles - 0 ∧ 2 ^ 24 ≤ (sHolds (.barrier 3 0) (2 ^ 24)).cycles - 0 ∧
    ((sHolds (.barrier 3 0) (2 ^ 24)).barrier 0 3).phase = 0 ∧ handleRing 4 = false ∧ handleRing (2 ^ 63) = true ∧ (held (.queue (popOf 4))).halted = false ∧
    2 ^ 20 ≤ (sPops 4 (2 ^ 20) 1).cycles - 0 ∧ attempted (sPops 4 5 1) 4 = some 0 ∧ attempted (sPops 8 5 1) 8 = some 1 ∧ attempted (sPops 4 5 0) 4 = none ∧
    ((sColl none (2 ^ 24)).sched.collectives.get none 8).map (·.code) = some none ∧ 2 ^ 24 ≤ (sColl none (2 ^ 24)).cycles - 0 ∧
    ((sColl (some 0) 5).sched.collectives.get none 8).map (·.code) = some (some 0) ∧ mU.sched.hold = none := by decide +kernel

/-- R361: a pop that was waiting takes the record. -/
theorem test_pop : after (exec (.recordQueueOperation 0 0) (withMem (sPops 4 5 1) [(0x10400, 99)])) (fun s => decide ((s.core 0).readN 16384 8 = 99) &&
    match s.team 0 0 with | some m => decide (m.pend.map (fun p => (p.sregs, p.ks)) = [([(5, ⟨0, false⟩)], [(2, false, false)])]) | none => false) = true := by decide +kernel

/-- A team that waits for the active set since cycle 0, with a lease of `lease` granules. -/
def mReady (lease : Nat) : Team := { mU with lease := { mU.lease with decl := lease }, sched := { mU.sched with state := .ready, since := 0 } }
/-- Team 1 waits beside team 0. -/
def sReady (m0 : Team) (lease cycles : Nat) : State :=
  { (demo m0 none 1 []).modCore 0 fun k => { k with teams := k.teams ++ [(1, some { mReady lease with id := { mU.id with index := 1 } })] } with cycles }
def shareOf (s : State) : Nat := (s.core 0).shareGranules
def mBlocked : Team := { held (.barrier 3 0) with sched := { (held (.barrier 3 0)).sched with state := .blocked } }
def mPolls (n : Nat) : Team := { mU with sched := { mU.sched with holdUntil := n } }
def mAuto (n : Nat) : Team := { mU with lease := { mU.lease with auto := true, lines := 20, decayed := n } }

theorem witness_LeasesBoundTheActiveSet :
    ((sReady mU 2 1000).core 0).teams.wf none = true ∧ ((sReady mU 2 1000).core 0).admissionHeld = false ∧ (overDue (sReady mU 2 1000) ((sReady mU 2 1000).core 0)).isNone = true ∧
    ((overDue (sReady mU 2 4096) ((sReady mU 2 4096).core 0)).map (·.1)) = some 1 ∧ ((sReady mU 2 4096).core 0).admitHold = none ∧
    (((sReady mU 2 4096).core 0).residents.all fun e => !(e.2.sched.state == .active) || !e.2.lease.solo) = true ∧
    (mReady 2).lease.cur ≤ shareOf (sReady mU 2 4096) ∧ shareOf (sReady mU 2 4096) < (mReady 5000).lease.cur ∧
    ((overDue (sReady mU 5000 4096) ((sReady mU 5000 4096).core 0)).map (·.1)) = some 1 ∧ ((sReady mU 5000 4096).core 0).anyActive = true ∧
    ((overDue (sReady mParked 5000 4096) ((sReady { mU with sched := { mU.sched with state := .exited } } 5000 4096).core 0)).map (·.1)) = some 1 ∧
    ((sReady { mU with sched := { mU.sched with state := .exited } } 5000 4096).core 0).anyActive = false ∧
    (sReady mU 5000 4096).team 0 0 = some mU ∧ (held (.barrier 3 0)).sched.state = .active ∧ (Hold.barrier 3 0).blocks = true ∧
    1024 ≤ (sHolds (.barrier 3 0) 1024).cycles - 0 ∧ waitOver (sHolds (.barrier 3 0) 1024) 0 0 (.barrier 3 0) = false ∧
    mBlocked.trap.yielded = false ∧ mBlocked.sched.state = .blocked ∧
    waitOver ((demo mBlocked none 1 []).modCore 0 fun k => { k with barriers := [(3, ⟨2, 0, 1⟩)] }) 0 0 (.barrier 3 0) = true ∧
    0 < (mPolls 1000).sched.holdUntil ∧ (mPolls 1000).sched.holdUntil ≤ base.cycles ∧ base.cycles < (mPolls 1001).sched.holdUntil ∧
    (mAuto 0).lease.auto = true ∧ (mAuto 0).lease.decayed + 65536 ≤ ({ base with cycles := 65536 } : State).cycles ∧ base.cycles < (mAuto 0).lease.decayed + 65536 := by
  decide +kernel

/-! ### Branches, blocks, special registers, splits -/

/-- s4 = 0x10100, s5 no multiple of 4, s6 to s13 uniforms. -/
def sFlow (m : Team) : State := demo m none 1 [(4, 0x10100), (5, 0x10102), (6, 60), (7, 61)]
def mMarkedK : Team := { mU with regs := { mU.regs with kmark := 8 } }

theorem witness_BranchesAndCallsMoveTheStream :
    ScalarReady (sFlow mU) 0 0 mU [] [] [3] 0 ∧ ScalarReady (sFlow mMarkedK) 0 0 mMarkedK [] [] [3] 0 ∧ mMarkedK.regs.predMark 3 = true ∧
    ScalarReady (sFlow mU) 0 0 mU [] [] [] 0 ∧ ScalarReady (sFlow mU) 0 0 mU [55] [] [] 0 ∧ ScalarReady (sFlow mU) 0 0 mU [4] [4] [] 0 ∧
    ScalarReady (sFlow mU) 0 0 mU [5] [5] [] 0 ∧ ((sFlow mU).sreg 0 mU 4).val.toNat % 4 = 0 ∧ ((sFlow mU).sreg 0 mU 5).val.toNat % 4 ≠ 0 := by
  refine ⟨scalarReady_of ?_, scalarReady_of ?_, ?_, scalarReady_of ?_, scalarReady_of ?_, scalarReady_of ?_, scalarReady_of ?_, ?_⟩ <;> decide +kernel

/-- R314: a taken branch goes back two words; R315: a call links. -/
theorem test_br : after (exec (.sBr ⟨false, 3, false, -2⟩) (sFlow mU)) (fun s => match s.team 0 0 with | some m => m.regs.spc == mU.regs.spc - 8 | none => false) = true := by decide +kernel
theorem test_call : after (exec (.sCall ⟨false, 55, 3⟩) (sFlow mU)) (fun s => decide (s.sreg 0 mU 55 = ⟨mU.regs.spc + 4, false⟩) &&
    match s.team 0 0 with | some m => m.regs.spc == mU.regs.spc + 12 | none => false) = true := by decide +kernel

def aBlock (a : Word) : Block := ⟨a, [], 0, 0⟩
def mQueueFull : Team := { mU with ctl := { mU.ctl with queue := List.replicate 7 (aBlock 0x10200) } }
/-- Its running block has ended in every lane. -/
def mEnds (queue : List Block) : Team := { mU with ctl := { mU.ctl with splits := [], queue } }
def mNoBlock : Team := { mU with ctl := { mU.ctl with splits := [], running := none } }

theorem witness_LaneBlocksRunInOrder :
    ScalarReady (sFlow mU) 0 0 mU (4 :: (List.range 2).map (6 + ·)) [4] [] 0 ∧ ScalarReady (sFlow mU) 0 0 mU (5 :: []) [5] [] 0 ∧
    ScalarReady (sFlow mQueueFull) 0 0 mQueueFull (4 :: []) [4] [] 0 ∧ ScalarReady (sFlow mU) 0 0 mU [] [] [] 0 ∧
    8 ≤ mQueueFull.ctl.queue.length + mQueueFull.ctl.running.isSome.toNat ∧ ¬ 8 ≤ mU.ctl.queue.length + mU.ctl.running.isSome.toNat ∧
    ((sFlow mU).sreg 0 mU 4).mark = false ∧ mU.trap.handler = false ∧ (mU.ctl.empty false && (mU.ctl.running.isNone || mU.laneIdle)) = false ∧
    ((mEnds []).ctl.empty false && ((mEnds []).ctl.running.isNone || (mEnds []).laneIdle)) = true ∧
    ((mEnds [aBlock 0x10200]).ctl.empty false && ((mEnds [aBlock 0x10200]).ctl.running.isNone || (mEnds [aBlock 0x10200]).laneIdle)) = true ∧
    (mEnds [aBlock 0x10200]).ctl.live ≠ 0 ∧ mU.blocksDone = false ∧ mNoBlock.blocksDone = true ∧ ScalarReady (sFlow mNoBlock) 0 0 mNoBlock [] [] [] 0 ∧
    Committed true (sFlow mNoBlock) 0 0 mNoBlock (sFlow mNoBlock) mNoBlock ∧ mNoBlock.halted = false ∧ drained (sFlow mNoBlock) 0 0 mNoBlock = true ∧
    drained (withInflight (sFlow mNoBlock)) 0 0 mNoBlock = false := by
  refine ⟨scalarReady_of ?_, scalarReady_of ?_, scalarReady_of ?_, scalarReady_of ?_, ?_, ?_, ?_, ?_, ?_, ?_, ?_, ?_, ?_, ?_, scalarReady_of ?_, ⟨?_, rfl⟩, ?_⟩ <;>
    decide +kernel

def mRun : Team := demoTeam true
def mHandler : Team := { mU with trap := { mU.trap with handler := true } }

theorem witness_SpecialRegisterMoves :
    ScalarReady (sFlow mU) 0 0 mU [4] [] [] 0 ∧ mU.id.runtime = false ∧ ScalarReady (sFlow mRun) 0 0 mRun [4] [] [] 0 ∧ mRun.id.runtime = true ∧
    mHandler.trap.handler = true ∧ ScalarReady (sFlow mHandler) 0 0 mHandler [4] [] [] 0 ∧
    (0x080 : Nat) ∈ (specialTable (sFlow mU) 0 mU).map (·.1) ∧ (0x032 : Nat) ∉ (specialTable (sFlow mU) 0 mU).map (·.1) ∧
    (0x813 : Nat) ∈ (privTable (sFlow mRun) 0 mRun).map (·.1) ∧ (0x803 : Nat) ∉ (privTable (sFlow mRun) 0 mRun).map (·.1) ∧
    LaneReady sLane 0 0 (demoTeam false) 0 demoSplit (lane 31 0 0 0 1 0 0x080) [] [] true [] := by
  refine ⟨scalarReady_of ?_, ?_, scalarReady_of ?_, ?_, ?_, scalarReady_of ?_, ?_, ?_, ?_, ?_, laneReady_of ?_⟩ <;> decide +kernel

/-- R318: RM keeps its value where the one written is reserved; R395: TRAP_CAUSE keeps 16 bits. -/
theorem test_mts_fpctl : after (exec (.sMts ⟨false, 6, 0x020⟩) (demo mU none 1 [(6, 0x1F07)])) (fun s => match s.team 0 0 with | some m => m.regs.fpctl == 0x1F00 | none => false) = true := by
  decide +kernel
theorem test_mts_cause : after (exec (.sMts ⟨false, 6, 0x040⟩) (demo mHandler none 1 [(6, 0x50013)])) (fun s => match s.team 0 0 with | some m => m.trap.regs.cause == 0x13 | none => false) = true := by
  decide +kernel

/-- A team without blocks and with `n` live lanes, lane registers up to 39. -/
def mLive (n : Nat) : Team := { mNoBlock with ctl := { mNoBlock.ctl with live := maskBelow n } }
/-- Registers for `s.regroup`: s4 the tag 9, s5 two registers from 30 on; s6 a bad tag. -/
def regroupRegs : List (Nat × Word) := [(4, 9), (5, 0x21E), (6, 0x10009), (7, 0)]
def sRegroup (m : Team) (mode : Nat) : State := demo m none mode regroupRegs
/-- Beside it, team 1 stands with an offer; or the other way round. -/
def mOffers (n : Nat) (index : Nat) : Team :=
  { mLive n with id := { (mLive n).id with index, regwin := 8192 * index }, sched := { mU.sched with hold := some (.regroup 55 9 30 2 false), holdSince := 1000 } }
def sOffer : State := (sRegroup (mLive 16) 1).modCore 0 fun k => { k with teams := k.teams ++ [(1, some (mOffers 16 1))] }
def sOffered : State :=
  let m := { mLive 16 with id := { (mLive 16).id with index := 1, regwin := 8192 } }
  let s := (sRegroup (mOffers 16 0) 1).modCore 0 fun k =>
    regroupRegs.foldl (fun k r => k.setSreg m r.1 ⟨r.2, false⟩) { k with teams := k.teams ++ [(1, some m)] }
  { s with focus := some ⟨0, 1, none⟩ }
def mSecond : Team := { mLive 16 with id := { (mLive 16).id with index := 1, regwin := 8192 } }

theorem witness_RegroupMergesTeams :
    ScalarReady (sRegroup mU 1) 0 0 mU [4, 5, 55] [4, 5] [] 0 ∧ Committed true (sRegroup mU 1) 0 0 mU (sRegroup mU 1) mU ∧
    ((sRegroup mU 1).sreg 0 mU 6).val.toNat / 2 ^ 16 ≠ 0 ∧ ((sRegroup mU 1).sreg 0 mU 4).val.toNat / 2 ^ 16 = 0 ∧
    ((sRegroup mU 1).sreg 0 mU 5).val.toNat / 2 ^ 16 = 0 ∧ ((List.range 2).all fun j => mU.laneOk (30 + j)) = true ∧ ((sRegroup mU 3).core 0).mode = modeDual ∧
    ((sRegroup mU 1).core 0).mode ≠ modeDual ∧ mU.ctl.running ≠ none ∧ (mLive 17).id.lanes < 2 * maskCount (mLive 17).ctl.live ∧
    2 * maskCount (mLive 16).ctl.live ≤ (mLive 16).id.lanes ∧ (mLive 16).ctl.running = none ∧ (mLive 16).ctl.queue = [] ∧
    ScalarReady (sRegroup (mLive 16) 1) 0 0 (mLive 16) [4, 5, 55] [4, 5] [] 0 ∧ matching 1000 ((sRegroup (mLive 16) 1).core 0) 0 (mLive 16) 9 30 2 = none ∧
    matching 1000 (sOffer.core 0) 0 (mLive 16) 9 30 2 = some (1, 55, false) ∧ ((sOffer.regroup 0 0 1 55 30 2 false).team 0 0).isSome = true ∧
    matching (1000 + 2 ^ 16) (sOffer.core 0) 0 (mLive 16) 9 30 2 = none ∧ (mayMerge sOffer 0 0 && mayMerge sOffer 0 1) = true ∧
    (mayMerge (withInflight sOffer) 0 0 && mayMerge (withInflight sOffer) 0 1) = false ∧
    matching 1000 (sOffered.core 0) 1 mSecond 9 30 2 = some (0, 55, false) ∧ ((sOffered.regroup 0 0 1 55 30 2 false).team 0 0).isSome = true ∧
    sOffered.focus = some ⟨0, 1, none⟩ ∧ sOffered.team 0 1 = some mSecond ∧ ([4, 5, 55].all fun i => mSecond.scalarOk i) = true ∧
    (lanesOf (mLive 16).ctl.live 32).length + (lanesOf mSecond.ctl.live 32).length ≤ 32 ∧ (mLive 16).slotOf 30 ≠ (mLive 16).slotOf 31 := by
  refine ⟨scalarReady_of ?_, ⟨?_, rfl⟩, ?_, ?_, ?_, ?_, ?_, ?_, ?_, ?_, ?_, ?_, ?_, scalarReady_of ?_, ?_⟩ <;> decide +kernel

def lBr (pg : BitVec 3) : Lane := lane 0 0 0 0 0 pg (BitVec.ofNat 33 (5 * 2 ^ 16 + 9))
def lBare : Lane := lane 0 0 0 0 0 0 0
/-- The split is a member of join record 0, at whose address it stands; `parked` others of two wait there. -/
def mJoin (parked : Nat) : Team := { mU with ctl :=
  { mU.ctl with joins := [(0, some { jaddr := 0x10100, members := 2, parked, lanes := 0, outer := none, longs := 0, handler := false })]
                splits := [(0, some { demoSplit with join := some 0 })] } }
def joinSplit : Split := { demoSplit with join := some 0 }
/-- All 64 join records are in use. -/
def mNested : Team := { mU with ctl := { mU.ctl with joins := (List.range 64).map fun i =>
  (i, some { jaddr := 0, members := 2, parked := 0, lanes := 0, outer := none, longs := 0, handler := false }) } }
def sSplit (m : Team) : State := demo m (some 0) 1 []
def divided (m : Team) : Option (Core × Team) :=
  divide ((sSplit m).core 0) m (bareCtx (sSplit m) 0 0 m 0 demoSplit (lBr 3)) [31] (lanesOf (maskBelow 31) 32) 0x1013C 0x1016C

theorem witness_LaneStreamsDivideAndJoin :
    LaneIssues (sSplit mU) 0 0 mU 0 demoSplit (lBr 3) { tys := 1, imm := immAll } { guarded := false, preds := [3] } ∧
    ((lanesOf (mU.active demoSplit) mU.id.lanes).all fun l => !mU.ctl.predMark 3 l) = true ∧ (lanesOf (mU.active demoSplit) 32).filter (laneGuard mU (lBr 2)) = [] ∧
    (lanesOf (mU.active demoSplit) 32).filter (fun l => !laneGuard mU (lBr 1) l) = [] ∧ (lanesOf (mU.active demoSplit) 32).filter (laneGuard mU (lBr 3)) = [31] ∧
    (divided mNested).isNone = true ∧ (divided mU).isSome = true ∧
    LaneIssues (sSplit mNested) 0 0 mNested 0 demoSplit (lBr 3) { tys := 1, imm := immAll } { guarded := false, preds := [3] } ∧
    LaneIssues (sSplit mU) 0 0 mU 0 demoSplit lBare { tys := 1, imm := immAll } { guarded := false } ∧
    LaneIssues (sSplit mU) 0 0 mU 0 demoSplit lBare { tys := 1 } { guarded := false } ∧ demoSplit.join = none ∧ mU.ctl.spills = [] ∧
    LaneIssues (sSplit (mJoin 0)) 0 0 (mJoin 0) 0 joinSplit lBare { tys := 1 } { guarded := false } ∧
    LaneIssues (sSplit (mJoin 1)) 0 0 (mJoin 1) 0 joinSplit lBare { tys := 1 } { guarded := false } ∧
    ((mJoin 0).ctl.joinRec 0).map (fun j => (j.jaddr, decide (j.parked + 1 < j.members))) = some (joinSplit.lpc, true) ∧
    ((mJoin 1).ctl.joinRec 0).map (fun j => (j.jaddr, decide (j.parked + 1 = j.members), decide ((j.lanes ||| joinSplit.mask) &&& (mJoin 1).ctl.live ≠ 0))) = some (joinSplit.lpc, true, true) ∧
    LaneIssues (sSplit mU) 0 0 mU 0 demoSplit { lBare with pg := 2 } { tys := 1 } {} ∧ runningLanes mU demoSplit { lBare with pg := 2 } = [] ∧
    LaneIssues (sSplit mU) 0 0 mU 0 demoSplit { lBare with pg := 3 } { tys := 1 } {} ∧ runningLanes mU demoSplit { lBare with pg := 3 } = [31] ∧
    mU.ctl.freeJoin = some 0 ∧ (mU.ctl.setSplit 0 (some demoSplit)).freeSplit = some 1 := by
  refine ⟨laneIssues_of ?_, ?_, ?_, ?_, ?_, ?_, ?_, laneIssues_of ?_, laneIssues_of ?_, laneIssues_of ?_, ?_, ?_, laneIssues_of ?_, laneIssues_of ?_, ?_, ?_,
    laneIssues_of ?_, ?_, laneIssues_of ?_, ?_⟩ <;> decide +kernel

theorem witness_VotesAndShufflesCrossLanes :
    LaneReady sLane 0 0 (demoTeam false) 0 demoSplit (lane 31 4 0 0 2 1 0) [] [] true [4] ∧
    LaneIssues sLane 0 0 (demoTeam false) 0 demoSplit { lane 55 4 0 0 3 1 0 with x := true } { tys := 0xF, vd := .bits 6, a := .bits 3, x := true, imm := 0x1F }
      { preds := [4], scalarD := some 55 } ∧
    runningLanes (demoTeam false) demoSplit (lane 31 4 0 0 2 1 0) ≠ [] ∧ runningLanes (demoTeam false) demoSplit (lane 31 4 0 0 2 2 0) = [] ∧
    LaneReady sLane 0 0 (demoTeam false) 0 demoSplit (lane 31 5 7 6 0 1 0) [.a, .b, .c] [] true [] ∧
    LaneReady sLane 0 0 (demoTeam false) 0 demoSplit { lane 31 5 0 6 2 1 3 with pd := 5 } [.a, .c] [] true [] := by
  refine ⟨laneReady_of ?_, laneIssues_of ?_, ?_, ?_, laneReady_of ?_, laneReady_of ?_⟩ <;> decide +kernel

/-- R321: with a shift up by 3, lane 5 takes lane 2 and lane 1 the fallback. -/
theorem test_shuf_up : after (exec (.vShuf { lane 31 7 0 6 2 0 3 with pd := 5 }) sLane) (fun s =>
    decide ((s.vreg 0 (demoTeam false) 31 31).val = 0 ∧ (s.vreg 0 (demoTeam false) 31 1).val = 10000) &&
    match s.team 0 0 with | some m => m.ctl.pred 5 31 && !m.ctl.pred 5 2 | none => false) = true := by decide +kernel

/-! ### Traps, seals, queues -/

theorem trapsAtOnce_of {s : State} {m : Team} (ht : s.team 0 0 = some m) (hh : m.trap.handler = false) (hv : m.hasHandler = true)
    (hr : m.region = none) (hg : s.gather = false) (hf : m.sched.hold = none) : TrapsAtOnce s 0 0 m :=
  ⟨ht, hh, hv, hr, hg, fun _ h => by rw [hf] at h; cases h⟩

/-- In the handler, to return to `spc`; `split` the split that trapped, with its place. -/
def inHandler (runtime : Bool) (spc lpc : Word) (split : Option Nat) : Team :=
  let m := demoTeam runtime
  { m with trap := { m.trap with handler := true, split, regs := { m.trap.regs with spc, lpc } } }
def mRet : Team := inHandler false 0x10010 0 none
def mNestedRet : Team := { mRet with trap := { mRet.trap with outer := [⟨1, 2, 3, 4, 0⟩] } }
def mHandlerBusy : Team := { mRet with ctl := { mRet.ctl with hqueue := [aBlock 0x10200] } }
def withTrapSpc (spc : Word) : Team := { mRun with trap := { mRun.trap with regs := { mRun.trap.regs with spc } } }

theorem witness_TrapsEnterAndLeaveTheHandler :
    TrapsAtOnce (sFlow mU) 0 0 mU ∧ (sFlow mRet).team 0 0 = some mRet ∧ mRet.trap.handler = true ∧
    ScalarReady (sFlow mU) 0 0 mU [4] [] [] 0 ∧ LaneIssues (sSplit mU) 0 0 mU 0 demoSplit { lBare with pg := 3, imm := 9 } { tys := 1, imm := immAll } {} ∧
    TrapsAtOnce (sSplit mU) 0 0 mU ∧ runningLanes mU demoSplit { lBare with pg := 3 } ≠ [] ∧ runningLanes mU demoSplit { lBare with pg := 2 } = [] ∧
    LaneIssues (sSplit mU) 0 0 mU 0 demoSplit { lBare with pg := 2, imm := 9 } { tys := 1, imm := immAll } {} ∧
    ScalarReady (sFlow mU) 0 0 mU [] [] [] 0 ∧ mU.id.runtime = false ∧ ScalarReady (sFlow (withTrapSpc 2)) 0 0 (withTrapSpc 2) [] [] [] 0 ∧
    (withTrapSpc 2).trap.regs.spc.toNat % 4 ≠ 0 ∧ ScalarReady (sFlow (withTrapSpc 0x10010)) 0 0 (withTrapSpc 0x10010) [] [] [] 0 ∧
    (withTrapSpc 0x10010).trap.handler = false ∧ (withTrapSpc 0x10010).id.runtime = true ∧
    ScalarReady (sFlow (inHandler false 2 0 none)) 0 0 (inHandler false 2 0 none) [] [] [] 0 ∧ (inHandler false 0x10010 2 (some 0)).trap.split ≠ none ∧
    ScalarReady (sFlow (inHandler false 0x10010 2 (some 0))) 0 0 (inHandler false 0x10010 2 (some 0)) [] [] [] 0 ∧
    ScalarReady (sFlow mHandlerBusy) 0 0 mHandlerBusy [] [] [] 0 ∧ mHandlerBusy.blocksDone = false ∧ mRet.blocksDone = true ∧
    ScalarReady (withInflight (sFlow mRet)) 0 0 mRet [] [] [] 0 ∧ (mRet.halted || !drained (withInflight (sFlow mRet)) 0 0 mRet || !mRet.saveReleased (withInflight (sFlow mRet)) 0) = true ∧
    ScalarReady (sFlow mNestedRet) 0 0 mNestedRet [] [] [] 0 ∧ drained (sFlow mNestedRet) 0 0 mNestedRet = true ∧ mNestedRet.trap.outer ≠ [] ∧
    ScalarReady (sFlow mRet) 0 0 mRet [] [] [] 0 ∧ drained (sFlow mRet) 0 0 mRet = true ∧ mRet.halted = false ∧ mRet.trap.regs.cause.getLsbD 14 = false ∧ mRet.saveReleased (sFlow mRet) 0 = true ∧ mRet.tally = [] ∧
    mRet.trap.outer = [] ∧ mRet.trap.pending = [] ∧ mRet.trap.mchecks = [] ∧ mRet.trap.preempt = none ∧ mRet.trap.frame = 0 ∧
    ((inHandler false 0x10010 0x10100 (some 0)).ctl.split 0).map (fun p => decide (p.mask &&& mU.ctl.live ≠ 0)) = some true := by
  refine ⟨trapsAtOnce_of ?_ ?_ ?_ ?_ ?_ ?_, ?_, ?_, scalarReady_of ?_, laneIssues_of ?_, trapsAtOnce_of ?_ ?_ ?_ ?_ ?_ ?_, ?_, ?_, laneIssues_of ?_,
    scalarReady_of ?_, ?_, scalarReady_of ?_, ?_, scalarReady_of ?_, ?_, ?_, scalarReady_of ?_, ?_, scalarReady_of ?_, scalarReady_of ?_, ?_, ?_,
    scalarReady_of ?_, ?_, scalarReady_of ?_, ?_, ?_, scalarReady_of ?_, ?_⟩ <;> decide +kernel

/-- R385: the cause of `v.trap` names the lane stream and the split; the frame copy of v239 names the lanes. -/
theorem test_v_trap : after (exec (.vTrap { lBare with pg := 3, imm := 9 }) (sSplit mU)) (fun s => match s.team 0 0 with
    | some m => decide (m.trap.regs = { cause := 0x2013, spc := mU.regs.spc, lpc := 0x10100, addr := 9, mask := maskOf [31] } ∧ m.regs.spc = 0x20000) &&
        decide ((s.vreg 0 m 239 31).val = 1 ∧ (s.vreg 0 m 239 30).val = 0)
    | none => false) = true := by decide +kernel
theorem test_eret : after (exec (.sEret ⟨false, 0, 0, 0⟩) (sFlow mRet)) (fun s => match s.team 0 0 with
    | some m => m.regs.spc == 0x10010 && !m.trap.handler | none => false) = true := by decide +kernel

/-- s3 = 0x10000, s5 = one page; s6 = half a page, s7 = 0. -/
def sSeals (m : Team) : State := demo m none 1 [(3, 0x10000), (5, 65536), (6, 32768), (7, 0), (8, 0x10000)]
def onePage : List (Nat × Nat × Nat) := [(0x10000, 65536, 0x10000)]
def pagesOf (s : State) (va len : Nat) : Option (List (Nat × Nat × Nat)) :=
  match sealPages ⟨0, 0, mU⟩ s va len with | (.ok p, _) => some p | _ => none

theorem witness_SealsAndInvalidationsAct :
    ScalarReady (sSeals mU) 0 0 mU [3, 5, 55] [3, 5] [] 0 ∧ pagesOf (sSeals mU) 0x10000 65536 = some onePage ∧ pagesOf (sSeals mU) 0x10000 32768 = some onePage ∧
    Committed true (sSeals mU) 0 0 mU (sSeals mU) mU ∧ released (sSeals mU) 0 3 = true ∧ (onePage.headD (1, 1, 0)).1 = 0x10000 ∧
    (onePage.getLastD (1, 1, 0)).1 + (onePage.getLastD (1, 1, 0)).2.1 = 0x10000 + 65536 ∧ (sSeals mU).mem.ranges = [] ∧
    ((sSeals mU).cores.all fun e => e.2.inflight.isEmpty) = true ∧
    ScalarReady (sSeals mRun) 0 0 mRun [3, 7, 55] [3, 7] [] 0 ∧ ScalarReady (sSeals mU) 0 0 mU [3, 7, 55] [3, 7] [] 0 ∧ mRun.id.runtime = true ∧
    Committed true (sSeals mRun) 0 0 mRun (sSeals mRun) mRun ∧ released (sSeals mRun) 0 scDomain = true ∧
    Committed true (withInflight (sSeals mRun)) 0 0 mRun (withInflight (sSeals mRun)) mRun ∧ released (withInflight (sSeals mRun)) 0 scPackage = false ∧
    (2 ^ 16 ≤ ((sSeals mRun).sreg 0 mRun 8).val.toNat) ∧ ¬ (2 ^ 54 ≤ ((sSeals mRun).sreg 0 mRun 3).val.toNat ∨ 2 ^ 16 ≤ ((sSeals mRun).sreg 0 mRun 7).val.toNat) ∧
    ((sSeals mRun).tlbi (.asid 0)).tlbiWaits (.asid 0) = false ∧
    (let s := (sSeals mRun).modCore 1 fun k => { k with inflight := [demoStore], teams := [(0, some mU)] }
     (s.tlbi .all).tlbiWaits .all) = true := by
  refine ⟨scalarReady_of ?_, ?_, ?_, ⟨?_, rfl⟩, ?_, ?_, ?_, ?_, ?_, scalarReady_of ?_, scalarReady_of ?_, ?_, ⟨?_, rfl⟩, ?_, ⟨?_, rfl⟩, ?_⟩ <;> decide +kernel

/-- R380: the entries of the page go, in the core and in its die. -/
theorem test_tlbi_va : after (exec (.sTlbiVa false ⟨false, 55, 3, 7⟩) (sSeals mRun)) (fun s =>
    decide ((s.core 0).tlb.map (·.base) = [2, 3, 4] ∧ (s.die 0).tlb.map (·.base) = [2, 3, 4])) = true := by decide +kernel

/-- A ring of two slots of 16 bytes at 16448, slots at 16512; its team holds producer bit 0 open. s4 names it, s5 a record at 16640. -/
def mRing : Team := { mU with rings := [(16448, 0)] }
def ringHandle : Word := BitVec.ofNat 64 (2 ^ 63 + 16448)
def sRing (m : Team) (head tail flags pmask : Nat) : State :=
  withStore (demo m none 1 [(4, ringHandle), (5, 16640), (6, 4), (7, 1)])
    [(16448, head + tail * 2 ^ 32), (16456, 16512 + (1 + 1 * 2 ^ 8) * 2 ^ 32), (16464, pmask), (16472, flags), (16640, 0xABCD), (16512, 0x1234)]
/-- What the ring of that state answers to a word: a code, 100 a wait, 200 a trap, 300 no ring. -/
def ringSays (s : State) (m : Team) (kind : QueueKind) : Nat :=
  match queueAttempt s 0 0 (opOf s 0 m ⟨true, 55, 4, 5⟩ kind 2) with | .code n _ => n | .wait _ => 100 | .trap _ => 200
def ringGood (s : State) (m : Team) : Bool := match ringAt s 0 m 16448 with
  | some r => !r.bad && decide (recordArea s 0 m true 16640 16 = some ⟨0, 16640, false⟩) && (ringSlot s 0 m r r.tail).isSome && (ringSlot s 0 m r r.head).isSome
  | none => false
def sLaunches (m : Team) (used kind : Nat) : State := queueAt (demo m none 1 [(4, 4), (5, 0x10000), (6, 2 ^ 17)]) 4 0x10400 used 1 kind
def aLaunch : Launch :=
  { gen := 0, queue := 4, asid := 0, desc := [], x0 := 0, y0 := 0, map := [], cores := [], counters := [(0, 8, 1)], live := 1, started := true, pkgIndex := 0,
    pkgCount := 1, home := 0, peers := [], ready := [], graph := 0, scope := 1, ctx := List.replicate 8 0, requests := [], shadow := none }
/-- s4 = counter 0, s5 the answer at 16640 and the arrival word at 16656. -/
def sWdqTest (m : Team) : State :=
  (demo m none 1 [(4, 0), (5, BitVec.ofNat 64 (16640 + 16656 * 2 ^ 24)), (6, 3), (7, 1025), (8, 4)]).modSched fun x => { x with launches := [(0, some aLaunch)] }
def mWdqFull : Team := { mU with wdq := 4 }
/-- Two lines of the L1 that the open region's stores pin. -/
def mPins : Team := { mU with region := some { demoRegion with held := (List.range 9).map fun i => ⟨0x10000 + 128 * i, [0], false, 0, false⟩ } }

theorem witness_QueueAndSchedulingWordsAnswer :
    ScalarReady (sRing mRing 5 6 1 1) 0 0 mRing [4, 5, 55] [4, 5] [] 0 ∧ Committed true (sRing mRing 5 6 1 1) 0 0 mRing (sRing mRing 5 6 1 1) mRing ∧
    released (sRing mRing 5 6 1 1) 0 scCluster = true ∧ released (withInflight (sRing mRing 5 6 1 1)) 0 scCluster = false ∧
    ringGood (sRing mRing 5 6 1 1) mRing = true ∧ ringSays (sRing mRing 5 6 1 1) mRing .push = 0 ∧ ringSays (sRing mRing 5 6 1 1) mRing .pop = 0 ∧
    ringSays (sRing mRing 5 7 1 1) mRing .push = 100 ∧ ringSays (sRing mRing 5 7 1 1) mRing .pushNw = 2 ∧ ringSays (sRing mRing 5 5 1 1) mRing .pop = 100 ∧
    ringSays (sRing mRing 5 5 1 1) mRing .poll = 3 ∧ ringSays (sRing mRing 5 5 5 0) mRing .pop = 5 ∧ ringSays (sRing mRing 5 6 3 1) mRing .pop = 200 ∧
    ringSays (sRing mU 5 6 1 1) mU .push = 6 ∧ ringSays (sRing mU 5 6 1 1) mU .open_ = 0 ∧
    ScalarReady (sWdqTest mU) 0 0 mU [4, 5, 55] [4, 5] [] 0 ∧ wdqFields (sWdqTest mU) 0 mU 0 (BitVec.ofNat 64 (16640 + 16656 * 2 ^ 24)) = some (0, 16640, 16656) ∧
    wdqFields (sWdqTest mU) 0 mU 8 0 = none ∧ ((sWdqTest mU).launch 0).isSome = true ∧ mU.wdq < 4 ∧ 4 ≤ mWdqFull.wdq ∧
    ScalarReady (sWdqTest mU) 0 0 mU [8, 55] [8] [] 0 ∧ ((sWdqTest mU).sreg 0 mU 7).val.toNat % 2 ^ 16 > 1024 ∧
    ((mPins.region.map fun r => r.pinned.length).getD 0) > 8 * 1 ∧ ((sWdqTest mU).sreg 0 mU 8).val.toNat / 2 ^ 17 = 0 ∧
    ScalarReady (sLaunches mU 1 1) 0 0 mU [4, 5, 55] [4, 5] [] 0 ∧ okA (checkAccess (sLaunches mU 1 1) 0 mU Need.load false 0x10000 64) = true ∧
    (descriptorPoison mU 5 ((sLaunches mU 1 1).mem.mark 0x10000 64)).isNone = true ∧ Committed true (sLaunches mU 1 1) 0 0 mU (sLaunches mU 1 1) mU ∧
    settled (sLaunches mU 1 1) 0 = true ∧ queueBroken ((sLaunches mU 1 1).queueDesc 4) = false ∧ qKind ((sLaunches mU 1 1).queueDesc 4) = 1 ∧
    queueOverfull ((sLaunches mU 1 1).queueDesc 4) = false ∧ qCount ((sLaunches mU 1 1).queueDesc 4) < 2 ^ qLog ((sLaunches mU 1 1).queueDesc 4) ∧
    2 ^ qLog ((sLaunches mU 2 1).queueDesc 4) ≤ qCount ((sLaunches mU 2 1).queueDesc 4) ∧ qKind ((sLaunches mU 1 2).queueDesc 4) ≠ 1 ∧
    (match (sLaunches mU 1 1).queueEntry 4 1 64 Need.store with | (.ok _, _) => true | _ => false) = true ∧
    (match (noTlb (sLaunches mU 1 1)).queueEntry 4 1 64 Need.store with | (.fault, _) => true | _ => false) = true ∧
    (match (withRange (sLaunches mU 1 1) 0x10440).queueEntry 4 1 64 Need.store with | (.wait, _) => true | _ => false) = true := by
  refine ⟨scalarReady_of ?_, ⟨?_, rfl⟩, ?_, ?_, ?_, ?_, ?_, ?_, ?_, ?_, ?_, ?_, ?_, ?_, ?_, scalarReady_of ?_, ?_, ?_, ?_, ?_, ?_, scalarReady_of ?_, ?_, ?_, ?_,
    scalarReady_of ?_, ?_, ?_, ⟨?_, rfl⟩, ?_⟩ <;> decide +kernel

/-- R358: a push writes its record behind the last and moves TAIL. -/
theorem test_push : after (exec (.sQpush ⟨true, 55, 4, 5⟩) (sRing mRing 5 6 1 1)) (fun s =>
    decide ((s.core 0).readN 16448 8 = 5 + 7 * 2 ^ 32 ∧ (s.core 0).readN 16512 8 = 0xABCD)) = true := by decide +kernel

/-! ### Regions, checks, collectives -/

/-- s4 = tag 7, lane registers 30 and 31, scope 4; s5 = registers 54 and 55; s6 a bad scope. -/
def sRegion (m : Team) (mode : Nat) : State :=
  demo m none mode [(4, BitVec.ofNat 64 (7 + 30 * 2 ^ 16 + 2 * 2 ^ 24 + 4 * 2 ^ 32)), (5, BitVec.ofNat 64 (3 * 2 ^ 54)), (6, BitVec.ofNat 64 (7 * 2 ^ 32))]
def mOpen (held : List Held) : Team := { mNoBlock with region := some { demoRegion with held } }
def heldStore : Held := ⟨0x10000, [1, 2], false, 0x10000, false⟩
def committed (m : Team) (s : State) : Nat := match m.region with
  | some g => (match commit s 0 0 m g with | .wait => 1 | .done .. => 0 | _ => 2)
  | none => 3

theorem witness_RegionsOpenAndCommit :
    ScalarReady (sRegion mNoBlock 1) 0 0 mNoBlock [4, 5] [4, 5] [] 0 ∧ ScalarReady (sRegion mNoBlock 1) 0 0 mNoBlock [6, 5] [6, 5] [] 0 ∧
    ((sRegion mNoBlock 1).sreg 0 mNoBlock 6).val.toNat / 2 ^ 32 % 2 ^ 3 = 7 ∧ mNoBlock.laneOk 31 = true ∧ mNoBlock.scalarOk 55 = true ∧
    ScalarReady (sRegion mNoBlock 0) 0 0 mNoBlock [4, 5] [4, 5] [] 0 ∧ ((sRegion mNoBlock 0).core 0).mode = modeNone ∧
    ((sRegion mNoBlock 1).core 0).mode ≠ modeNone ∧ Committed true (sRegion mNoBlock 1) 0 0 mNoBlock (sRegion mNoBlock 1) mNoBlock ∧
    ((sRegion mNoBlock 2).core 0).mode = modeSnapshot ∧ drained (sRegion mNoBlock 2) 0 0 mNoBlock = true ∧ mNoBlock.halted = false ∧
    drained (withInflight (sRegion mNoBlock 2)) 0 0 mNoBlock = false ∧ mU.blocksDone = false ∧ mNoBlock.blocksDone = true ∧
    ScalarReady (sRegion mNoBlock 1) 0 0 mNoBlock [] [] [] 0 ∧ committed (mOpen []) (withInflight (demo (mOpen []) none 1 [])) = 1 ∧
    committed (mOpen [heldStore]) (demo (mOpen [heldStore]) none 1 []) = 0 ∧ (demo (mOpen [heldStore]) none 1 []).team 0 0 = some (mOpen [heldStore]) ∧
    drained (demo (mOpen [heldStore]) none 1 []) 0 0 (mOpen [heldStore]) = true ∧ (mOpen [heldStore]).ctl.policy = 0 ∧
    (demo (mOpen [heldStore]) none 1 []).mem.sealed 0x10000 = false ∧ ScalarReady (sRegion mNoBlock 1) 0 0 mNoBlock [55] [] [] 0 ∧
    ScalarReady (sRegion mNoBlock 0) 0 0 mNoBlock [55] [] [] 0 := by
  refine ⟨scalarReady_of ?_, scalarReady_of ?_, ?_, ?_, ?_, scalarReady_of ?_, ?_, ?_, ⟨?_, rfl⟩, ?_, ?_, ?_, ?_, ?_, ?_, scalarReady_of ?_, ?_, ?_, ?_, ?_, ?_, ?_,
    scalarReady_of ?_, scalarReady_of ?_⟩ <;> decide +kernel

/-- R422: a commit sends the stores that the region held on their way; R418: a region's record holds the registers that it names. -/
theorem test_commit : after (exec (.sCommit ⟨false, 0, 0, 0⟩) (demo (mOpen [heldStore]) none 1 [])) (fun s =>
    decide ((s.core 0).inflight.map (fun x => (x.pa, x.data)) = [(0x10000, [1, 2])]) &&
    match s.team 0 0 with | some m => m.region.isNone && m.seq == 1 | none => false) = true := by decide +kernel
theorem test_region : after (exec (.sRegion true ⟨false, 0, 4, 5⟩) (sRegion mNoBlock 1)) (fun s => match s.team 0 0 with
    | some m => (match m.region with | some g => g.tag == 7 && g.movable && g.record.count == 2 && g.record.first == 30 && g.record.lanes.length == 64 | none => false)
    | none => false) = true := by decide +kernel

def mTries : Team := mOpen []
def lChk (va vb : BitVec 8) : Lane := lane 0 va vb 3 3 1 0
def lCs (ty : BitVec 3) : Lane := lane 31 5 0 0 ty 1 0

theorem witness_ChecksAndPoisonWords :
    ScalarReady sInt 0 0 (demoTeam false) [3, 5] [3, 5] [] 0 ∧ conditionTrue .lt (sInt.sreg 0 mU 3).val (sInt.sreg 0 mU 5).val ∧
    ¬ conditionTrue .lt (sInt.sreg 0 mU 5).val (sInt.sreg 0 mU 3).val ∧ (checkFails sInt 0 0 mU true ⟨⟨.checkFail, 0, 0⟩, none, some mU.regs.spc⟩).isNone = true ∧
    (checkFails (demo mTries none 1 []) 0 0 mTries true ⟨⟨.checkFail, 0, 0⟩, none, some mU.regs.spc⟩).isSome = true ∧
    mTries.replayable ((demo mTries none 1 []).core 0) = true ∧ (mTries.region.map (·.lastAttempt)) = some false ∧ (demo mTries none 1 []).team 0 0 = some mTries ∧
    LaneIssues sLane 0 0 (demoTeam false) 0 demoSplit (lChk 5 6) { LaneUse.binary (lChk 5 6) false with vd := .bits 4, c := .bits 8 } { eat := [.a, .b] } ∧
    (let x := heldCtx sLane 0 0 (demoTeam false) 0 demoSplit (lChk 5 6) []
     x.lanes.filter fun l => !laneCondHolds 3 (Ity (lChk 5 6)) (Isg (lChk 5 6)) (x.src .a l).val.toNat (srcB x l).val.toNat) = [] ∧
    (let x := heldCtx sLane 0 0 (demoTeam false) 0 demoSplit (lChk 5 6) []
     x.lanes.filter fun l => !laneCondHolds 0 (Ity (lChk 5 6)) (Isg (lChk 5 6)) (x.src .a l).val.toNat (srcB x l).val.toNat) ≠ [] ∧
    LaneReady sLane 0 0 (demoTeam false) 0 demoSplit (lCs 3) [.a] [] true [] ∧ (lCs 3).vd.toNat < 240 ∧
    ScalarReady sMem 0 0 mU [55] [] [] 0 ∧ ScalarReady sMem 0 0 mU [3, 55] [] [] 0 ∧ badA (checkAccess sMem 0 mU Need.load false 0x50000 1) = true ∧
    okA (checkAccess sMem 0 mU Need.load false 0x10000 1) = true ∧ (sMem.core 0).inflight = [] ∧ isMgmt 0x10060 = false ∧ sMem.lost 0x10060 = false ∧
    scratchPlace sMem 0 mU mU.wide 0x10000 128 = none ∧ scratchPlace sMem 0 mU mU.wide 16384 128 = some ⟨0, 16384, false⟩ ∧
    ScalarReady sMem 0 0 mU [3, 5, 55] [] [] 0 ∧ 8 ≤ (sMem.sreg 0 mU 3).val.toNat ∧ ¬ 8 ≤ (sMem.sreg 0 mU 5).val.toNat ∧
    (substBlock sMem 0 mU 16384).isSome = true ∧ (substBlock sMem 0 mU 7).isNone = true := by
  refine ⟨scalarReady_of ?_, ?_, ?_, ?_, ?_, ?_, ?_, ?_, laneIssues_of ?_, ?_, ?_, laneReady_of ?_, ?_, scalarReady_of ?_, scalarReady_of ?_, ?_, ?_, ?_, ?_, ?_, ?_, ?_,
    scalarReady_of ?_, ?_⟩
  · decide +kernel
  · show ((sInt.sreg 0 mU 3).val.toInt < (sInt.sreg 0 mU 5).val.toInt)
    decide +kernel
  · show ¬ ((sInt.sreg 0 mU 5).val.toInt < (sInt.sreg 0 mU 3).val.toInt)
    decide +kernel
  all_goals decide +kernel

/-- R444: checksums modulo 2^61 − 1 and over halves modulo 2^32 − 1. -/
def csGives (ty : BitVec 3) (d a v : Word) : Bool :=
  after (exec (.vCsacc (lCs ty)) (withLanes (demo mU (some 0) 1 []) mU [(31, fun _ => d), (5, fun _ => a)])) fun s => decide ((s.vreg 0 mU 31 0).val = v)
theorem test_csacc_m61 : csGives 2 (2 ^ 61 - 2) 2 1 = true := by decide +kernel
theorem test_csacc_fletcher : csGives 3 0x0000000500000003 7 0x0000000F0000000A = true := by decide +kernel

/-- A collective described at 0x10000: its members as a mask, root 0; `slots` of the 32 slots are in use. -/
def sCollTest (kind members : Nat) (slots : Nat) : State :=
  let s := withMem (demo mU none 1 [(4, 0x10000), (5, BitVec.ofNat 64 (103 * 2 ^ 32 + 768))]) [(0x10000, 0x10200), (0x10008, 0x10300), (0x10010, 8 + kind * 2 ^ 32), (0x10018, members), (0x10020, 1)]
  { s with sched := { s.sched with collectives := (List.range slots).map fun i => (i, some { aCollective none with gen := 100 + i }) } }
def collOf (s : State) : List Word := dwordsOf (s.readHome 0 0x10000 64).1.1
/-- Its input or its output as a check of pages. -/
def collPages (s : State) (need : Need) (va : Nat) : Bool := (pagesFault s mU 0 need va 64).1.isNone
def collHeld (s : State) (gen : Nat) : Bool := s.sched.collectives.any fun e => match e.2 with | some y => y.gen == gen && y.members == 1 && y.asid == 0 | none => false

theorem witness_CollectiveWordsTakeSlots :
    ScalarReady (sCollTest 0 1 0) 0 0 mU [4, 55] [4] [] 0 ∧ okA (checkAccess (sCollTest 0 1 0) 0 mU Need.load false 0x10000 64) = true ∧
    (descriptorPoison mU 4 ((sCollTest 0 1 0).mem.mark 0x10000 64)).isNone = true ∧ collectiveBad (collOf (sCollTest 0 1 0)) = false ∧
    collectiveBad (collOf (sCollTest 5 1 0)) = true ∧ coGen (collOf (sCollTest 0 1 0)) = 1 ∧ collHeld (sCollTest 0 1 0) 1 = false ∧
    (coMembers (collOf (sCollTest 0 1 0))).testBit 0 = true ∧ (coMembers (collOf (sCollTest 0 2 0))).testBit 0 = false ∧
    coReads (collOf (sCollTest 0 1 0)) 0 = true ∧ coWrites (collOf (sCollTest 0 1 0)) 0 = true ∧ collPages (sCollTest 0 1 0) Need.load 0x10200 = true ∧
    collPages (sCollTest 0 1 0) Need.store 0x10300 = true ∧ collPages (noTlb (sCollTest 0 1 0)) Need.load 0x10200 = false ∧
    collPages (sCollTest 0 1 0) Need.store 0x20000 = false ∧ Committed true (sCollTest 0 1 0) 0 0 mU (sCollTest 0 1 0) mU ∧ released (sCollTest 0 1 0) 0 scDomain = true ∧
    ((List.range 32).all fun i => ((sCollTest 0 1 32).sched.collectives.get none i).isSome) = true ∧ ((sCollTest 0 1 31).sched.collectives.get none 31).isNone = true ∧
    ((sCollTest 0 1 31).rangesFull [(0x10300, 64)]) = false ∧ ScalarReady (sCollTest 0 1 4) 0 0 mU [5, 52, 53] [5] [] 0 ∧
    (((sCollTest 0 1 0).heldCollective 3).map (·.1)) = none ∧ (((sCollTest 0 1 4).heldCollective (BitVec.ofNat 64 (103 * 2 ^ 32 + 768))).map fun e => (e.1, e.2.code)) = some (3, none) ∧
    ((((sCollTest 0 1 4).modSched fun x => { x with collectives := x.collectives.set none 3 (some (aCollective (some 0))) }).heldCollective 768).map (·.2.code)) = some (some 0) := by
  refine ⟨scalarReady_of ?_, ?_, ?_, ?_, ?_, ?_, ?_, ?_, ?_, ?_, ?_, ?_, ?_, ?_, ?_, ⟨?_, rfl⟩, ?_, ?_, ?_, ?_, scalarReady_of ?_, ?_⟩ <;> decide +kernel

/-! ### Launches, work graphs, migration -/

/-- A launch of one team of 32 lanes on one core, its map at 0x10500; `pkgs` further packages. -/
def launchDesc (lanes pkgs : Nat) : List Word :=
  [0x10000, 0x10500, BitVec.ofNat 64 (lanes + 40 * 2 ^ 16 + 56 * 2 ^ 24 + 2 ^ 31 + 2 * 2 ^ 32), BitVec.ofNat 64 (8 * 2 ^ 10 + (1 + pkgs * 2 ^ 16) * 2 ^ 32), 77, 0, 0, 0]
/-- ASID 0 has a context; queue 4 holds `used` launches at 0x10400, the first of them this one. -/
def sQueued (lanes used kind : Nat) : State :=
  let s := withMem (queueAt (demo mRun none 1 []) 4 0x10400 used 1 kind) (((List.range 8).zip (launchDesc lanes 0)).map fun e => (0x10400 + 8 * e.1, e.2.toNat))
  (withMem s [(0, 0x100001), (0x10500, 0)]).modSched fun x => { x with queues := [(4, { QueueInt.init with slot := some 0 })] }
def noStats (s : State) : State := withMem s [(s.boot.qtBase + 64 * 4 + 32, 0)]
def sWaits (s : State) (cycles : Nat) : State := { s.modSched fun x => { x with queues := [(4, { QueueInt.init with waitSince := some 0 })] } with cycles }
def checkedB (lanes : Nat) : Nat := match (launchCheck (sQueued 32 1 1) 0 0 (launchDesc lanes 0)).1 with | .ok _ => 0 | .error n => n.getD 99
def anOffer (desc : List Word) (place : Option (Nat × Nat)) : Offer :=
  { queue := 4, prio := 1, asid := 0, scope := 1, desc, gen := none, place, shadow := none, producer := none, map := [0], counters := List.replicate 8 (0, 0, 0), pkgIndex := 0, pkgCount := 1, home := 0, peers := [0], ready := [] }
def withOffer (s : State) (place : Option (Nat × Nat)) : State :=
  s.modSched fun x => { x with queues := [(4, { QueueInt.init with slot := some 0, offer := some (anOffer (launchDesc 32 0) place) })] }
/-- A launch on all 512 cores, of which core 0 is taken. -/
def wideDesc : List Word := (launchDesc 32 0).zipIdx.map fun e => if e.2 = 3 then e.1 + BitVec.ofNat 64 (5 * 2 ^ 23 + 4 * 2 ^ 26) else e.1

/-- The head launch as the queue manager reads it; no descriptor where the read fails, an empty one where it waits. -/
def readsB (s : State) : Option (List Word) :=
  match (s.queueRead 0 0 0x10400 64).1 with | .ok bs => some (dwordsOf bs) | .fault => none | .wait => some []

theorem witness_QueuesTakeSlotsAndLaunches :
    (4 : Nat) < 2 ^ 17 ∧ ¬ (2 ^ 17 : Nat) < 2 ^ 17 ∧ (sWaits (sQueued 32 1 1) 8499).sched.timers.get 0 0 = 0 ∧ 8499 / (10 * 850) = 0 ∧ 8500 / (10 * 850) = 1 ∧
    (sWaits (sQueued 32 1 1) 8500).cores.wf Core.init = true ∧ (sWaits (sQueued 32 1 1) 8500).sched.queues.wf QueueInt.init = true ∧
    ((sWaits (sQueued 32 1 1) 8500).core 0).teams.wf none = true ∧ (sWaits (sQueued 32 1 1) 8500).sched.preqs = [] ∧
    (sWaits (sQueued 32 1 1) 8500).queuesOf 0 = [4] ∧ (sWaits (sQueued 32 1 1) 8500).queueState 4 = 2 ∧
    (sQueued 32 1 1).nextReplica 4 = none ∧ (sQueued 32 1 1).aheadOf 0 ((sQueued 32 1 1).queueRank 4) = false ∧ (sQueued 32 0 1).offersLaunch 4 = false ∧ (sQueued 32 1 1).offersLaunch 4 = true ∧ (sQueued 32 1 1).queuesOf 0 = [4] ∧
    ((sQueued 32 1 1).queue 4).offer = none ∧ readsB (sQueued 32 1 1) = some (launchDesc 32 0) ∧
    readsB (noTlb (sQueued 32 1 1)) = none ∧ checkedB 32 = 0 ∧ checkedB 33 = 1 ∧ ldSignal (launchDesc 33 0) = 0 ∧ ldPkgs (launchDesc 32 0) = 0 ∧
    placeMove (sQueued 32 1 1) (anOffer wideDesc (some (0, 0))) = .stuck ∧
    placeMove (sQueued 32 1 1) (anOffer wideDesc none) = .fix (some (0, 0)) none ∧
    placeMove (withOffer (sQueued 32 1 1) none) (anOffer (launchDesc 32 0) none) = .put (1, 0) none ∧ qStats ((noStats (sQueued 32 1 1)).queueDesc 4) = 0 ∧
    (((sQueued 32 1 1).modSched fun x => { x with replicas := [{ anOffer (launchDesc 32 0) none with gen := some 3 }] }).nextReplica 4).isSome = true := by decide +kernel

/-- R333, R338: two steps take the head launch and place it on the next free core; its descriptor's HEAD moves on. -/
theorem test_placement : (let s := ran (exec (.launchPlacement 4) (ran (exec (.launchPlacement 4) (noStats (sQueued 32 1 1)))))
    ((s.core 1).part.map fun p => (p.spBase, p.spSize, p.trapBase, p.setup), qHead (s.queueDesc 4), s.sched.launchCount)) =
      (some (11264, 8192, 19456, false), 1, 1) := by decide +kernel

/-- A launch whose partition on core 1 is being set up since cycle 0. -/
def setupPart : Partition := partitionOf 5 (launchDesc 32 0) [0] 0 0
def bareLaunch (pkgs : Nat) : Launch := { aLaunch with desc := launchDesc 32 pkgs, map := [0], cores := [(0, 1)], counters := [(0, 8, 3)], started := false, pkgCount := pkgs + 1 }
def sSetup (cycles : Nat) : State :=
  let s := (sQueued 32 1 1).modSched fun x => { x with launches := [(5, some (bareLaunch 0))] }
  { s.modCore 1 fun k => k.setUp setupPart with cycles }
def aReplica (lanes : Nat) : ReplicaMsg := { queue := 4, prio := 1, asid := 0, scope := 1, gen := 9, index := 1, count := 2, home := 3, desc := (launchDesc lanes 1).flatMap fun w => natBytes 8 w.toNat }
def sReplicas (index : Nat) (ready : List Nat) : State :=
  (sQueued 32 1 1).modSched fun x => { x with launches := [(5, some { bareLaunch 1 with gen := 9, pkgIndex := index, ready, peers := [0, 3] })] }
/-- A request of team 0 for counter 0, to be answered at 16640 with the arrival word at 16656. -/
def sServes (next : Nat) : State :=
  (demo mU none 1 []).modSched fun x => { x with launches := [(5, some { bareLaunch 0 with cores := [], requests := [(0, 0, 0, 16640, 16656)], counters := [(next, 8, 3)] })] }

theorem witness_LaunchesStartTheirTeams :
    ((sSetup 128).core 2).part = none ∧ ((sSetup 128).core 1).part = some setupPart ∧ (sSetup 127).cycles < setupPart.setupAt + 128 ∧ setupPart.setup = false ∧
    setupPart.setupAt + 128 ≤ (sSetup 128).cycles ∧ (sSetup 128).launch 5 = some (bareLaunch 0) ∧ setupPart.launch = 5 ∧ ((sSetup 128).core 1).teams = [] ∧
    (sSetup 128).cores.wf Core.init = true ∧ (bareLaunch 0).pkgCount = 1 ∧ teamsOn (bareLaunch 0).map (setupPart.cy * 32 + setupPart.cx) = [0] ∧
    (launchCheck (sQueued 32 1 1) 0 0 (dwordsOf (aReplica 33).desc)).1.toOption.isNone = true ∧ ldSignal (dwordsOf (aReplica 33).desc) = 0 ∧
    (launchCheck ((sQueued 32 1 1).modBoot fun b => { b with podLive := 9 }) 0 0 (dwordsOf (aReplica 32).desc)).1.toOption.isSome = true ∧
    ((sReplicas 0 [0]).findReplica 9 true).map (·.1) = some 5 ∧ (insertNat 0 [0]).length < 2 ∧ 2 ≤ (insertNat 1 [0]).length ∧
    ((sReplicas 1 []).findReplica 9 false).map (·.1) = some 5 ∧ (sReplicas 0 []).findReplica 9 false = none ∧
    ((sServes 7).launch 5).map (fun x => x.requests[0]?) = some (some (0, 0, 0, 16640, 16656)) ∧ (sServes 7).sched.preqs = [] ∧ (7 : Nat) < 8 ∧
    ((sServes 8).launch 5).map (fun x => x.requests[1]?) = some none := by
  refine ⟨?_, ?_, ?_, ?_, ?_, ?_, ?_, ?_, ?_, ?_, ?_, ?_, ?_, ?_, ?_, ?_, ?_, ?_, ?_, ?_, ?_, ?_⟩ <;> decide +kernel

/-- R339: the team of a launch starts with its argument in s0. R345: the counter steps to its limit. -/
theorem test_setup : (let s := ran (exec (.partitionSetupComplete 1) (sSetup 128))
    (s.team 1 0).map fun m => ((s.sreg 1 m 0).val, m.regs.spc, m.sched.started, m.id.lanes)) = some (77, 0x10000, true, 32) := by decide +kernel
theorem test_wdq : (let s := ran (exec (.wdqServe 5 0) (sServes 7))
    ((s.core 0).readN 16640 8, ((s.launch 5).map (·.counters)))) = (7, some [(8, 8, 3)]) := by decide +kernel

/-- A work graph 3 whose queue 4 is empty; the token at core `at_`. -/
def sGraph (at_ used : Nat) (white running : Bool) : State :=
  let s := withMem (sQueued 32 used 2) [((sQueued 32 used 2).boot.qtBase + 64 * 4 + 16, 2 ^ 8 + (2 + 3 * 2 ^ 16) * 2 ^ 32)]
  s.modSched fun x => { x with graphs := [(3, some ⟨at_, white, running, []⟩)] }
/-- The runtime team asks about launch 0 of queue 4, placed with one team of its own on core 0. -/
def preqWord (x : Nat) : Word := BitVec.ofNat 64 (4 * 2 ^ 15 + x)
def preqLaunch (records : Nat) : Launch :=
  { aLaunch with desc := launchDesc 32 0, map := [0], cores := [(0, 0)], ctx := [1, 0, 0, BitVec.ofNat 64 records, 0, 0, 0, 0] }
def sPreq (records : Nat) (trapres : Bool) : State :=
  let m := { mRun with id := { mRun.id with launch := 5, trapres } }
  ((sQueued 32 1 1).setTeam 0 0 (some m)).modSched fun x => { x with launches := [(5, some (preqLaunch records))] }
def savedImage : Image :=
  { header := [], ctl := mU.ctl, lease := mU.lease, window := 0, pending := [], outer := [], lanes := 32, seq := 0, rings := [], wdq := 0, regs := mU.regs,
    spc := 0x10000, trap := ⟨0, 0, 0, 0, 0⟩, split := none, splitLanes := 0, frame := 0, nested := false }
def savedCore : SavedCore := { cx := 0, cy := 0, part := setupPart, leader := none, scratch := [], marks := [], barriers := [], streams := [] }
/-- A kill of a launch whose team stands in HALT waits. -/
def killHalts : Bool :=
  let m := { mU with id := { mU.id with launch := 5 }, region := some { demoRegion with recovery := .halt } }
  ((sPreq 8 true).setTeam 0 0 (some m)).killWaits 5 (preqLaunch 8)
def sSaved : State := (sPreq 8 true).modSched fun x => { x with saved :=
  [{ launch := 5, clusters := false, cores := [savedCore],
     teams := [{ id := mRun.id, image := savedImage, record := 2 }] }] }
def pending (s : State) : State := ran (exec (.preq 0 0 (preqWord 0)) s)

theorem witness_GraphsEndAndGroupsAreSaved :
    (sGraph 511 0 true true).graphQueues 3 = [4] ∧ ((sGraph 511 0 true true).queue 4).closed = false ∧ (sGraph 0 0 true false).sched.graphs.get none 3 = some ⟨0, true, false, []⟩ ∧
    (sGraph 511 0 true true).sched.graphs.get none 3 = some ⟨511, true, true, []⟩ ∧ (sGraph 511 0 true true).passive 3 (tokenCore 511) = true ∧
    qCount ((sGraph 511 0 true true).queueDesc 4) = 0 ∧ (sGraph 511 0 true true).inPlacement 4 = false ∧ (sGraph 511 0 true true).beamNames [4] = false ∧
    qCount ((sGraph 511 1 true true).queueDesc 4) = 1 ∧ (sGraph 510 0 true true).passive 3 (tokenCore 510) = true ∧ (sGraph 0 0 true true).sched.graphs.get none 9 = none ∧
    (sPreq 8 true).runtimeTeam 0 0 = true ∧ (demo mU none 1 []).runtimeTeam 0 0 = false ∧ (sPreq 8 true).findLaunch 1 4 = none ∧
    ((sPreq 8 true).findLaunch 0 4).map (·.1) = some 5 ∧ (groupRect 0).legal (launchDesc 32 0) = true ∧ (groupRect 1).legal (launchDesc 32 0) = false ∧
    ((sPreq 8 true).groupTeams 5 0 false).length = 1 ∧ (groupRect 0).groups false = [0] ∧ ((sPreq 8 true).freeRecords (preqLaunch 8) 1).length = 1 ∧ (sPreq 0 true).freeRecords (preqLaunch 0) 1 = [] ∧
    ((sPreq 8 false).team 0 0).map (·.hasHandler) = some false ∧ ((sPreq 8 true).team 0 0).map (·.hasHandler) = some true ∧ (sPreq 8 true).sched.preqs = [] ∧
    ((sQueued 32 1 1).modSched fun x => { x with launches := [(5, some { aLaunch with desc := launchDesc 32 0 })] }).groupTeams 5 0 false = [] ∧
    ((pending (sPreq 8 true)).sched.preqs.find? (fun y => y.value == preqWord 0)).map (·.groups) = some [0] ∧ (pending (sPreq 8 true)).undelivered 5 0 false = true ∧
    sSaved.sched.saved.length = 1 ∧ (sSaved.launch 5).isSome = true ∧ sSaved.coreFree 9 = true ∧ sSaved.coreFree 0 = false ∧
    sSaved.resumeWaits 0 (preqLaunch 8) savedCore = false ∧ (sPreq 8 true).killWaits 5 (preqLaunch 8) = false ∧ killHalts = true := by decide +kernel

/-- R391: the request is pending. R364: a white round over an empty queue closes it. -/
theorem test_preq : (((pending (sPreq 8 true)).team 0 0).map fun m => (m.regs.pstat, m.trap.preempt)) = some (3, some 0) := by decide +kernel
theorem test_termination : ((ran (exec (.terminationTokenPass 3) (sGraph 511 0 true true))).queue 4).closed = true := by decide +kernel

/-- Page frame 1 of die 0, h counted; its leaf at 0x102000; die 1 has frames free. -/
def sHot (h : Hot) (sealed : Bool) : State :=
  let s := withMem (demo mU none 1 []) [(0x102000, 0x1017B), (0x10000, 88)]
  let s := (s.modDie 0 fun d => { d with hot := [(1, some h)], migctl := 64 }).modDie 1 fun d => { d with free := [0x70000, 0x60000] }
  { (if sealed then s.modMem fun x => { x with seals := [(0x10000, 65536)] } else s) with cycles := 85000 }
def hotOf (h : Nat) (mixed : Bool) (last : Nat) : Hot := ⟨h, last, mixed, [], 0x102000, 0, 0x10000, false⟩

theorem witness_HotPagesMove :
    (sHot (hotOf 200 false 1) false).cycles / (1000 * 850) = 0 ∧ ({ sHot (hotOf 200 false 1) false with cycles := 850000 } : State).cycles / (1000 * 850) = 1 ∧
    (sHot (hotOf 200 false 1) false).sched.timers.get 0 (2 + 16 * 1) < (sHot (hotOf 200 false 1) false).cycles / (100 * 850) ∧ base.cycles / (100 * 850) = 0 ∧
    ((sHot (hotOf 200 false 1) false).die 0).hot.get none 1 = some (hotOf 200 false 1) ∧ ((sHot (hotOf 200 false 1) false).die 0).hot.get none 2 = none ∧
    (hotOf 50 false 1).h < 64 ∧ ¬ (hotOf 200 false 1).h < 64 + min 5 1023 / 32 ∧ isNear 1 0x10000 = false ∧ ((sHot (hotOf 200 false 1) false).die 0).migctl.toNat / 2 ^ 8 % 2 ^ 16 = 0 ∧
    ((sHot (hotOf 200 false 1) false).mem.dword 0x102000).testBit 10 = false ∧ (sHot (hotOf 200 false 1) false).pageBusy 0x10000 = false ∧
    (sHot (hotOf 200 false 1) false).mem.dword 0x102000 / 2 ^ 16 % 2 ^ 36 = 1 ∧ ((sHot (hotOf 200 false 1) false).mem.dword 0x102000).testBit 0 = true ∧
    ((sHot (hotOf 200 false 1) false).mem.dword 0x102000).testBit 1 = true ∧ ((sHot (hotOf 200 false 1) false).die 1).free = [0x70000, 0x60000] ∧
    (sHot (hotOf 200 false 1) false).mem.sealed 0x10000 = false ∧ (sHot (hotOf 200 false 1) false).lost 0x102000 = false ∧
    (sHot (hotOf 200 false 1) true).mem.sealed 0x10000 = true ∧ ((sHot (hotOf 200 false 1) true).die 1).replicas = [] ∧
    (withRange (sHot (hotOf 200 false 1) false) 0x10000).pageBusy 0x10000 = true := by decide +kernel

/-! ### Errors and recovery -/

def report (det : Detector) (site : ErrSite) (corrected : Bool) : ErrorReport := { det, site, unit := 0, corrected, data := 0, way := none }
/-- The team with an open region, changed. -/
def mIn (f : Region → Region) : Team := { mNoBlock with region := some (f demoRegion) }
def sIn (f : Region → Region) : State := demo (mIn f) none 1 []
def copyTicket : Nat := (theCopy (copyQueued true)).ticket

theorem witness_ErrorsGetTheirResponse :
    covers .accEcc (.memory 0) = false ∧ correctable .fp64Residue = false ∧ covers .hbmEcc (.memory 0x10000) = true ∧ paSlot 0x10000 = base.boot.podSlot ∧
    covers .fp64Residue (.scalar 0 0 5) = true ∧ (mIn id).replayable ((sIn id).core 0) = true ∧ (sIn id).team 0 0 = some (mIn id) ∧ (mIn id).region = some demoRegion ∧
    mU.replayable ((demo mU none 1 []).core 0) = false ∧ (demo mU none 1 []).team 0 0 = some mU ∧ covers .controlParity (.control 0 0) = true ∧ mU.pend = [] ∧
    covers .laneParity (.lanes 0 0 9 3) = true ∧ covers .laneParity (.store 0 0 [0x10000]) = true ∧ covers .laneParity (.preds 0 0 3 9) = true ∧ covers .fp64Residue (.scalarPred 0 0 3) = true ∧
    reportStands (report .pathCheck (.memory 0x10000) true) = true ∧ reportStands (report .hbmEcc (.memory 0x10000) true) = false ∧ covers .dualMismatch (.copies 0 0) = true ∧
    ((demo mU none 1 []).core 0).mode ≠ modeDual ∧ ((demo mU none 3 []).core 0).mode = modeDual ∧ mU.region = none ∧ covers .accEcc (.acc 0 7) = true ∧
    covers .coreStoreEcc (.coreStore 0 16400) = true ∧ ((demo mU none 1 []).core 0).part = some (demoPart 1) ∧ (demoPart 1).spBase ≤ 16400 ∧ 16400 < (demoPart 1).l1Base ∧
    ((demo mU none 1 []).core 0).windowTeam 16400 = none ∧ covers .rdcEcc (.rdc 0 0x10000) = true ∧ covers .engine (.copy 0 copyTicket) = true ∧
    ((copyQueued true).cluster 0).copies = [theCopy (copyQueued true)] ∧ covers .engine (.stream 0 0) = true ∧
    ((streamRuns false).core 0).streams.get none 0 = some (theStream (streamRuns false)) ∧ covers .engine (.launch 5) = true ∧ ((sSetup 0).launch 5).isSome = true ∧
    (sSetup 0).killWaits 5 (bareLaunch 0) = false := by
  refine ⟨?_, ?_, ?_, ?_, ?_, ?_, ?_, ?_, ?_, ?_, ?_, ?_, ?_, ?_, ?_, ?_, ?_, ?_, ?_, ?_, ?_, ?_, ?_, ?_, ?_, ?_, ?_, ?_, ?_, ?_, ?_, ?_, ?_, ?_, ?_⟩ <;> decide +kernel

/-- R414: an uncorrectable error of a memory sector marks it; one of the control store ends its team. -/
theorem test_error_marks : (ran (exec (.errorDetection (report .hbmEcc (.memory 0x10020) false)) (demo mU none 1 []))).mem.marks = [(0x10020 / 32, true)] := by decide +kernel
theorem test_error_ends : ((ran (exec (.errorDetection (report .controlParity (.control 0 0) false)) (demo mU none 1 []))).team 0 0).isNone = true := by decide +kernel

def halted (attempt moves : Nat) (movable : Bool) (snap : Bool) (g : Region) : Region :=
  { g with recovery := .halt, attempt, moves, movable, record := { g.record with snap := if snap then some demoSnap else none, count := 2, first := 30 } }
def restoring (g : Region) : Region := { g with recovery := .restore }
def overflowing (g : Region) : Region := { g with overflow := true }
def lateMove : State := { sIn restoring with cycles := 1000 * 850 }
def aTrap : Trap := ⟨⟨.checkFail, 3, 0⟩, none, some 0x10000⟩
def failing (g : Region) : Region := { restoring g with check := some aTrap }
def mMismatch (recovery : Region → Region) : Team := { mIn recovery with mismatch := true }
/-- The launch has a shadow rectangle at core 8. -/
def sDual (m : Team) : State := (demo m none 3 []).modSched fun x => { x with launches := [(0, some { aLaunch with shadow := some (8, 0) })] }
def aRegionOut : RegionOut := { window := [(5, true)], sectors := [], rows := [], stores := [(0x10000, 0x10000, [1, 2], false, false)] }
/-- A commit of an overflowing region. -/
def overflowCommits : Bool :=
  match commit ((sIn overflowing).setTeam 0 0 (some (mIn id))) 0 0 (mIn id) demoRegion with | .done s q => q == 0 && (s.team 0 0).isSome | _ => false

theorem witness_SpeedwellRestoresRegions :
    (sIn id).team 0 9 = none ∧ (demo mU none 1 []).team 0 0 = some mU ∧ (sIn id).team 0 0 = some (mIn id) ∧ demoRegion.recovery ≠ .halt ∧
    ((mIn (halted 0 0 true false)).region.map fun g => (g.recovery, g.valid, g.conflict, g.unreadable, g.attempt)) = some (.halt, true, false, false, 0) ∧
    (sIn (halted 0 0 true false)).team 0 0 = some (mIn (halted 0 0 true false)) ∧ (∀ j, j < 2 → (mIn (halted 0 0 true false)).slotOf (30 + j) < (mIn (halted 0 0 true false)).id.vregs) ∧
    ((mIn (halted 2 1 true false)).region.map fun g => (decide (2 ≤ g.attempt), g.movable, decide (g.moves < 2), g.extra)) = some (true, true, true, false) ∧
    ((mIn (halted 2 0 false true)).region.map fun g => (g.record.snap.isSome, g.extra, ((sIn id).core 0).health.retiring, ((sIn id).core 0).health.waysPending)) =
      some (true, false, [], []) ∧
    ((mIn restoring).region.map (·.recovery)) = some .restore ∧ clusterOf 8 ≠ clusterOf 0 ∧ (sIn restoring).coreFree 8 = true ∧ (sIn restoring).coreFree 0 = false ∧
    storesHome (sIn restoring) 0 0 = true ∧ (mIn restoring).home = none ∧ ((sIn restoring).core 0).part = some (demoPart 1) ∧ demoRegion.undo = [] ∧
    (mIn restoring).id.regwin + windowBytes 32 40 ≤ (demoPart 1).spBase ∧ 0 + 1000 * 850 ≤ lateMove.cycles ∧ ¬ 0 + 1000 * 850 ≤ (sIn restoring).cycles ∧
    ((mIn failing).region.map fun g => (g.errors, g.check)) = some ([], some aTrap) ∧ demoRegion.check = none ∧
    ((mIn overflowing).region.map fun g => (g.overflow, decide (g.recovery = .idle))) = some (true, true) ∧ overflowCommits = true ∧
    (mMismatch id).mismatch = true ∧ (8 : Nat) < 512 ∧ (sDual (mMismatch id)).coreFree 9 = true ∧ (sDual (mMismatch id)).shadowCore (mMismatch id) = some 8 ∧
    (sDual (mMismatch id)).coreFree 0 = false ∧ aRegionOut.sectors = [] ∧
    ((mMismatch id).units[0]?.isSome && aRegionOut.window[0]?.isSome) = true ∧ demoRegion.peer = false := by
  refine ⟨?_, ?_, ?_, ?_, ?_, ?_, ?_, ?_, ?_, ?_, ?_, ?_, ?_, ?_, ?_, ?_, ?_, ?_, ?_, ?_, ?_, ?_, ?_, ?_, ?_, ?_, ?_, ?_, ?_⟩ <;> decide +kernel

/-- R423: the discarded region runs again from its record. -/
theorem test_discard : after (exec (.speedwellDiscard 0 0) (sIn (halted 0 0 true false))) (fun s => match s.team 0 0 with
    | some m => m.regs.spc == 0x10004 && m.regs.k == 1 && (m.region.map fun g => (g.attempt, decide (g.recovery = .replay))) == some (1, true)
    | none => false) = true := by decide +kernel

def sWears (f : CoreHealth → CoreHealth) (m : Team) : State := (demo m none 1 []).modCore 0 fun k => { k with health := f k.health }
def retires (spares : Nat) (h : CoreHealth) : CoreHealth := { h with safePoint := true, retiring := [5], spares }
def paused (n : Nat) (h : CoreHealth) : CoreHealth := { h with pauseUntil := n }

theorem witness_WornPartsRetire :
    ((sWears id mU).core 0).health.safePoint = false ∧ ((sWears (retires 0) mPend).core 0).residents.all (fun x => x.2.laneIdle) = false ∧
    ((sWears (retires 0) mU).core 0).health.safePoint = true ∧ ((sWears (retires 0) mU).core 0).residents.all (fun x => x.2.laneIdle) = true ∧
    ((sWears (retires 1) mU).core 0).health.retiring = [5] ∧ ((sWears (retires 1) mU).core 0).health.logical 5 = some 5 ∧
    ((sWears (retires 1) mU).core 0).health.waysPending = [] ∧ ((sWears (retires 2) mU).core 0).health.spares = 2 ∧ ((sWears (retires 2) mU).core 0).health.status = .inService ∧
    ((sWears (paused 1000) mU).core 0).health.pauseUntil = 1000 ∧ (sWears (paused 1000) mU).cycles = 1000 ∧ ((sWears (paused 1001) mU).core 0).health.pauseUntil = 1001 ∧
    base.cycles / (3600000 * 1000 * 850) = 0 ∧ base.sched.timers.get 0 (3 + 16 * 2) < 3060000000000 / (3600000 * 1000 * 850) := by decide +kernel

/-- R433: the lane goes onto the first spare. -/
theorem test_remap : ((ran (exec (.laneRetirement 0) (sWears (retires 0) mU))).core 0).health.remap = [(5, 32)] := by decide +kernel

/-! ### The host, power, the fabric -/

def aSlot (mask : BitVec 32) : SectorSlot :=
  let data := (List.range 32).map fun i => BitVec.ofNat 8 i
  { data, mask, code := BitVec.ofNat 16 (checkCode data) }
def mail (op : BitVec 2) (phys : Bool) (addr : Word) (slots : List SectorSlot) : MailReq :=
  { port := 0, addr, asid := 0, tag := 7, phys, two := false, op, res0 := false, slots }
/-- ASID 0 maps low addresses onto themselves. -/
def sMail : State := withMem sWalk [(0, 0x100001)]
/-- What the mailbox engine's walk gives: an address, 1 for none, 2 for a wait. -/
def mailGives (s : State) : Nat := match (mailXlate s 0 0x10100).1 with | .ok pa => pa | .none => 1 | .wait => 2
/-- A request waits at port 0 while its line is registered. -/
def sQueue (r : MailReq) : State := { sHeld with ports := sHeld.ports.modify 0 fun x => { x with waiting := [r] } }
def ownReg : Word := BitVec.ofNat 64 mgmtBase
def otherReg : Word := BitVec.ofNat 64 (2 ^ 46 + mgmtBase)

theorem witness_MailboxRequestsArePerformed :
    mailArrives base (mail 1 true 0x10100 []) = true ∧ mailArrives base (mail 0 true 0x10100 [aSlot 3]) = true ∧ mailArrives base { mail 1 true 0 [] with port := 2 } = false ∧
    base.ready = true ∧ ({ base with boot := { base.boot with stage := 7 } } : State).ready = false ∧ (mail 3 true 0 []).op.toNat ≥ 2 ∧
    isMgmt ownReg.toNat = true ∧ paSlot ownReg.toNat = base.boot.podSlot ∧ ownReg.toNat % 8 = 0 ∧ (aSlot 0xFF).mask = 0xFF ∧ (0x10100 : Word).toNat % 32 = 0 ∧
    (0x10101 : Word).toNat % 32 ≠ 0 ∧ mailGives base = 1 ∧ mailGives sMail = 0x10100 ∧ mailGives (withRange sMail 0x100000) = 2 ∧ isMgmt otherReg.toNat = true ∧
    paSlot otherReg.toNat ≠ base.boot.podSlot ∧ base.present (paSlot (2 ^ 46)) = false ∧ touchesReserved 0x1FC0000000 32 = true ∧ touchesReserved 0x10100 32 = false ∧
    (sSealed.mem.sealed 0x10000) = true ∧ sHeld.mem.registered 0x10000 none = true ∧ base.blocked 0x10100 none = false ∧ sHeld.blocked 0x10000 none = true ∧
    isMgmt 0x10100 = false ∧ (base.ports.map (·.waiting)) = [[], []] ∧ ((sQueue (mail 1 true 0x10000 [])).ports.map fun x => x.waiting.length) = [1, 0] ∧
    ({ sQueue (mail 1 true 0x10000 []) with ports := (sQueue (mail 1 true 0x10000 [])).ports.modify 0 fun x => { x with waiting := x.waiting.drop 1 ++ [mail 1 true 0x10100 []] } } : State).mailbox
      (mail 1 true 0x10000 []) = none := by decide +kernel

/-- R399: a masked write changes the bytes of its mask; a write to a present page of no package is refused with code 3. -/
theorem test_mailbox : (let s := ran (exec (.mailboxWrite (mail 0 true 0x10100 [aSlot 2])) sMem)
    (s.mem.read 0x10100 3, s.out)) = ([0, 1, 0], [.response 0 7 0 []]) := by decide +kernel
theorem test_mailbox_absent : (ran (exec (.mailboxRead (mail 1 true (BitVec.ofNat 64 (2 ^ 46)) [])) sMem)).out = [.response 0 7 3 []] := by decide +kernel

def withFree (s : State) (fs : List Nat) : State := s.modDie 0 fun d => { d with free := fs }

theorem witness_ManagementRegistersAct :
    State.reset.ready = false ∧ agentCode base (.port 0) = some 1 ∧ agentCode base .team = some 3 ∧ base.boot.sems.getD 5 0 = 0 ∧ (16 : Nat) ≤ 16 ∧ (15 : Nat) < 16 ∧
    (({ base with boot := { base.boot with sems := base.boot.sems.set 5 3 } } : State).boot.sems.getD 5 0) = 3 ∧ base.ready = true ∧ base.anyResident = false ∧ sMem.anyResident = true ∧
    (4 : Nat) ≤ 4 ∧ paSlot 0x90000 = base.boot.podSlot ∧ isNear 0 0x90000 = true ∧ isFirmware (paOff 0x90000) = false ∧ isNear 1 0x90000 = false ∧
    0x90000 ∈ ((withFree base [0x90000]).die 0).free ∧ 0x90000 ∉ (base.die 0).free ∧ (agentCode base .team).isSome = true ∧ (2 ^ 63 : Word).getLsbD 63 = true := by decide +kernel

/-- R405: the frame freed last is taken first. -/
theorem test_freepop : (ran (exec (.freepop .team 0) (ran (exec (.freepush 0 0xA0000) (withFree base [0x90000]))))).out = [.value .team 0xA0000] := by decide +kernel

def staged (stage : Nat) : State := { State.reset with boot := { Boot.reset with powered := true, stage, podSlot := 5 } }
/-- An image signed with the fused key, whose security version is 3. -/
def anImage (signed : Bool) : BootImage := { trusted := true, signed, version := 3, minimum := 2, hash := List.replicate 64 7 }
def aStage (firmwareOk duplicate : Bool) : StageResult :=
  { images := [anImage false, anImage firmwareOk], lanes := [], ways := [], rows := [(1, 2, 3)], badLanes := [], badWays := [], badRows := [], badChannels := [],
    badCores := [9], straps := 5, peers := 3, duplicate }
/-- Port 0 has been down since cycle 0 and holds semaphore 4. -/
def sPortDown (cycles : Nat) : State :=
  { base with ports := base.ports.modify 0 fun x => { x with downSince := some 0 }, boot := { base.boot with sems := base.boot.sems.set 4 1 }, cycles }

theorem witness_ResetAndBringUp :
    base.ready = true ∧ base.boot.powered = true ∧ State.reset.boot.powered = false ∧ (1 : Nat) < 2 ∧ (staged 1).boot.stage = 1 ∧ acceptImage 0 (aStage false false).images = none ∧
    acceptImage 0 (aStage true false).images = some (1, anImage true) ∧ acceptImage 4 (aStage true false).images = none ∧ (staged 1).boot.minimum ≤ (anImage true).version ∧
    (aStage true false).lanes = [] ∧ (aStage true false).rows = [(1, 2, 3)] ∧ (staged 7).boot.stopped = false ∧ base.boot.stage = 8 ∧ 9 ∈ (aStage true false).badCores ∧
    ((staged 4).core 9).health.status = .inService ∧ (aStage true true).duplicate = true ∧ base.portUp 0 = true ∧ base.portUp 2 = false ∧ 1 ∉ base.boot.sems ∧
    0 + 10 * 1000 * 850 ≤ (sPortDown 8500000).cycles ∧ ¬ 0 + 10 * 1000 * 850 ≤ (sPortDown 8499999).cycles ∧ 0 + 1 ∈ (sPortDown 0).boot.sems ∧
    (sPortDown 0).channelOpen (1 - 0) = true ∧ (sPortDown 0).portUp 0 = false ∧ (sPortDown 0).ports.map (·.lost) = [false, false] := by decide +kernel

/-- R408: eight stages bring a package up; the table's slot is its strap. -/
theorem test_bringup : (let s := (List.range 8).foldl (fun s _ => ran (exec (.bringupStageComplete (aStage true false)) s)) (ran (exec .powerGood State.reset))
    (s.ready, s.boot.podSlot, s.boot.podLive, (s.core 9).health.status, (s.core 8).health.status)) = (true, 5, 35, .quarantined, .inService) := by decide +kernel

def powered (watts : Nat) (cycles : Nat) : State := { base with power := { base.power with samples := [watts], highSince := some 0, stretch := 90 }, cycles }
def hotAt (t : BitVec 16) : State := { base with power := { base.power with hotSince := [(3, some 0)], temps := [(3, some t)] } }

theorem witness_PowerAndTemperatureAct :
    State.reset.boot.powered = false ∧ base.boot.powered = true ∧ base.sched.timers.get 0 4 < (powered 3000 8500).cycles / (10 * 850) ∧ base.cycles / (10 * 850) = 0 ∧
    (powered 3000 0).power.cap * 2 < 3000 + 3000 ∧ 100 + 100 < ((powered 100 0).power.cap - 50) * 2 ∧ (powered 3000 (100 * 1000 * 850)).power.highSince = some 0 ∧
    0 + 100 * 1000 * 850 ≤ (powered 3000 (100 * 1000 * 850)).cycles ∧ base.power.highSince = none ∧ (12 : Nat) ≤ 12 ∧ (11 : Nat) < 12 ∧
    (105 * 16 ≤ (1680 : BitVec 16).toInt) ∧ ¬ (105 * 16 ≤ (1679 : BitVec 16).toInt) ∧ (hotAt 1920).power.hotSince.get none 3 = some 0 ∧
    0 + 1000 * 850 ≤ ({ hotAt 1920 with cycles := 850000 } : State).cycles ∧ ¬ 0 + 1000 * 850 ≤ (hotAt 1920).cycles := by decide +kernel

/-- R410: the stretch rises by 4 to at most 96. -/
theorem test_stretch : ((ran (exec (.powerSample 3000) (powered 3000 8500))).power.stretch, (ran (exec (.powerSample 3000) (ran (exec (.powerSample 3000)
    (powered 3000 8500)) |> fun s => { s with cycles := 17000 }))).power.stretch) = (94, 96) := by decide +kernel

def spdmAt (n : Nat) : State := { base with ports := [⟨false, n, none, []⟩, ⟨false, 0, none, []⟩] }
theorem witness_SpdmAnswersRequests :
    State.reset.channelOpen 0 = false ∧ (spdmAt 0).channelOpen 0 = true ∧ (spdmAt 0).portUp 0 = true ∧ (sPortDown 0).channelOpen 0 = true ∧ (sPortDown 0).portUp 0 = false ∧ (spdmAt 0).spdmStep 0 = 0 ∧ (spdmAt 2).spdmStep 0 < 3 ∧ 3 ≤ (spdmAt 3).spdmStep 0 ∧
    (spdmAt 3).measurement 0 = none ∧ ((spdmAt 3).measurement 5).isSome = true ∧ (spdmAt 3).measurement 6 = none := by decide +kernel

/-- Two packages, slots 0 and 3, station 2 up. -/
def sPod : State := { demo mU none 1 [] with boot := { base.boot with podLive := 9 }, stations := [(2, { Station.init with down := false, expected := 4 })] }
def sRetrained : State := { sPod with stations := [(2, { down := false, sent := 0, expected := 4, retrains := [10, 20, 30], buffer := [(7, .heartbeat 2 3), (8, .answer 3 [])], replayed := (7, 16) })] }
def linkSlot (mark : Bool) : SectorSlot × Bool := (aSlot 3, mark)
def lateBeat : State := { sPod with cycles := 400000 }

theorem witness_LinksDeliverAndLostPackagesAreDeclared :
    (sPod.station 2).down = false ∧ (sPod.station 3).down = true ∧ (sPod.station 2).expected = 4 ∧ LinkReq.whole (.write 3 0x10000 [linkSlot true]) = true ∧
    sPod.mem.registered (LinkReq.at_ (.read 3 0x10000 1)) none = false ∧ (withRange sPod 0x10000).mem.registered (LinkReq.at_ (.read 3 0x10000 1)) none = true ∧
    16 ≤ (sRetrained.station 2).replayed.2 ∧ (sPod.station 2).replayed.2 < 16 ∧ (sRetrained.station 2).queued = [.answer 3 []] ∧ (sPod.station 2).queued = [] ∧
    (sRetrained.station 2).buffer.length < 512 ∧ sPod.blocked 0x10000 none = false ∧ ((sRetrained.station 2).retrains.filter fun t => decide (sRetrained.cycles ≤ t + 1000 * 850)).length = 3 ∧ sRetrained.peers = [3] ∧
    ((List.range 12).all fun k => k == 2 || (sRetrained.station k).down) = true ∧ linkReaches sPod 3 0x10000 128 = true ∧ linkReaches sPod 2 0x10000 32 = false ∧
    0x10000 % 128 + 32 * 4 ≤ 128 ∧ sPod.mem.sealed 0x10000 = false ∧ sSealed.mem.sealed 0x10000 = true ∧ linkReaches sPod 3 0x10008 8 = true ∧ 0x10008 % 8 = 0 ∧
    7 ≤ lateBeat.boot.stage ∧ lateBeat.boot.hbto * 850 ≤ 8 * (lateBeat.cycles - 0) ∧ ¬ base.boot.hbto * 850 ≤ 8 * (base.cycles - 0) ∧
    (3 ≠ sPod.boot.podSlot ∧ sPod.boot.podLive.getLsbD 3 = true) ∧ sPod.boot.heard.get 0 3 + sPod.boot.hbto * 850 ≤ lateBeat.cycles ∧
    ¬ sPod.boot.heard.get 0 3 + sPod.boot.hbto * 850 ≤ sPod.cycles ∧ (63 : Nat) < 64 ∧ sPod.boot.slotDup = false ∧ sPod.boot.stage = 8 := by
  refine ⟨?_, ?_, ?_, ?_, ?_, ?_, ?_, ?_, ?_, ?_, ?_, ?_, ?_, ?_, ?_, ?_, ?_, ?_, ?_, ?_, ?_⟩ <;> decide +kernel

/-- R447: a peer's add returns the old value; R450: a silent package leaves PODLIVE. -/
theorem test_link_atomic : (let s := ran (exec (.ualinkRequestArrival (.atomic 3 0x10000 0 8 7 false)) (withMem sPod [(0x10000, 5)]))
    (s.mem.read 0x10000 8, s.out)) = (natBytes 8 12, [.answer 3 [(natBytes 8 5, false, BitVec.ofNat 16 (checkCode (natBytes 8 5)))]]) := by decide +kernel
theorem test_lost : (ran (exec (.packageLostDeclaration 3) lateBeat)).boot.podLive = 1 := by decide +kernel

/-- A sum of 64-bit numbers over slots 0 and 3, read at 0x10200 and written at 0x10300. -/
def sSum (contributors : Nat) (code : Option Nat) : State :=
  let d : List Word := [0x10200, 0x10300, BitVec.ofNat 64 (2 + 2 * 2 ^ 44), 9, 1, 0, 0, 0]
  { withMem sPod [(0x10200, 5), (0x10208, 6)] with sched := { sPod.sched with collectives :=
    [(3, some { gen := 1, members := 9, asid := 0, desc := d, launch := 0, team := 0, runtime := false, contributors, restarts := 0, poisoned := false, code, orphan := false, order := 8 })] } }
def anInput (agrees fault : Bool) : MemberInput := { slot := 3, agrees, fault, marks := [], data := natBytes 8 10 ++ natBytes 8 20 }
def theSum (s : State) : Collective := (s.sched.collectives.get none 3).getD (aCollective none)
/-- How the member's own input, and its output, stand: 0 read or written, 1 a fault, 2 a wait. -/
def ownStands (s : State) : Nat := match (s.ownPart (theSum s)).1 with | some (some _) => 0 | some none => 1 | none => 2
def outStands (s : State) : Nat := match writeOut (theSum s) 16 0x10300 (List.replicate 16 (some (1, false))) s with | some (true, _) => 0 | some (false, _) => 1 | none => 2
def noPages (s : State) (va : Nat) : State := s.modDie 0 fun d => { d with tlb := d.tlb.filter fun e => e.base != va / 65536 }

theorem witness_CollectivesFoldTheirContributors :
    ((sSum 9 none).sched.collectives.get none 3).isSome = true ∧ (theSum (sSum 9 none)).gen = 1 ∧ (theSum (sSum 9 none)).contributors.testBit 3 = true ∧
    (sSum 9 none).sched.collectives.get none 4 = none ∧ (sSum 9 none).performed (theSum (sSum 9 none)) = true ∧
    (slotsOf 9).filter (· != (sSum 9 none).boot.podSlot) = [3] ∧ (anInput true false).data.length = coInput (theSum (sSum 9 none)).desc ∧
    coReads (theSum (sSum 9 none)).desc 3 = true ∧ coWrites (theSum (sSum 9 none)).desc 0 = true ∧ ownStands (sSum 9 none) = 0 ∧ ownStands (noTlb (sSum 9 none)) = 1 ∧
    ownStands (withRange (sSum 9 none) 0x10200) = 2 ∧ outStands (sSum 9 none) = 0 ∧ outStands (noTlb (sSum 9 none)) = 1 ∧ outStands (withRange (sSum 9 none) 0x10300) = 2 ∧
    coMembers (theSum (sSum 1 none)).desc ≠ (theSum (sSum 1 none)).contributors ∧ (theSum (sSum 9 (some 0))).code ≠ none ∧ (sSum 9 none).lost 0x10300 = false ∧ (5 : Nat) < 2 ^ 32 ∧
    (sSum 9 none).holdsGen 1 = true ∧ (sSum 9 none).holdsGen 2 = false ∧ (sSum 9 none).sched.excluded = [] := by
  refine ⟨?_, ?_, ?_, ?_, ?_, ?_, ?_, ?_, ?_, ?_, ?_, ?_, ?_, ?_, ?_, ?_, ?_, ?_, ?_⟩ <;> decide +kernel

/-- R454: the sums of both members; R457: with code 0 when every member has contributed. -/
theorem test_collective : (let s := ran (exec (.collectiveAttempt 3 [anInput true false]) (sSum 9 none))
    (s.mem.read 0x10300 16, (theSum s).code)) = (natBytes 8 15 ++ natBytes 8 26, some 0) := by decide +kernel

/-! ### The checks of a word, steps, words -/

def awaiting (n : Nat) : Team := { mU with regs := { mU.regs with slongs := setBit 0 n true } }
def awaitingK : Team := { mU with regs := { mU.regs with klongs := setBit 0 3 true } }
def mLongK : Team := { mU with ctl := { mU.ctl with splits := [(0, some { demoSplit with longs := setBit 0 243 true })] } }
def eats : Team := { mU with ctl := { mU.ctl with policy := 1 } }
def markedSreg (m : Team) : State := (demo m none 1 []).modCore 0 fun k => k.setSreg m 5 ⟨1, true⟩
def eatsMarkedK : Team := { eats with regs := { eats.regs with kmark := 8 } }
def latched (age : Nat) : Split := { demoSplit with latches := [some ⟨age, [], 0, 0⟩, none, none] }
def mLatched (age : Nat) : Team := { mU with ctl := { mU.ctl with splits := [(0, some (latched age))] } }
def lHeld : Lane := { lane 31 0 5 0 3 0 0 with lr := 4 }
def mLongs : Team := { mU with ctl := { mU.ctl with splits := [(0, some { demoSplit with longs := setBit 0 31 true })] } }

theorem witness_WordsAreCheckedBeforeTheyAct :
    (sInt.focus = some ⟨0, 0, none⟩ ∧ sInt.team 0 0 = some (demoTeam false)) ∧ ¬ (∀ j ∈ [63, 3, 5], mU.scalarOk j = true) ∧ (∀ j ∈ [55, 3, 5], mU.scalarOk j = true) ∧
    ¬ (∀ j ∈ [55, 3, 5], (awaiting 5).regs.slongs.getLsbD j = false) ∧ (demo (awaiting 5) none 1 []).team 0 0 = some (awaiting 5) ∧ eats.ctl.policy.getLsbD 0 = true ∧
    [3, 5].find? (fun n => ((markedSreg eats).sreg 0 eats n).mark) = some 5 ∧ eats.regs.predMark 3 = false ∧ eats.regs.pred 3 = true ∧ (markedSreg eats).team 0 0 = some eats ∧
    eatsMarkedK.regs.predMark 3 = true ∧ eatsMarkedK.ctl.policy.getLsbD 0 = true ∧ ({ mU.regs with k := 1 } : TeamRegs).pred 3 = false ∧ latchOf lHeld .a = true ∧
    latchOf lHeld .b = false ∧ codeOf lHeld .b < 0xF0 ∧ (sSplit mU).focus = some ⟨0, 0, some 0⟩ ∧ mU.ctl.split 0 = some demoSplit ∧ (Instr.vAdd lHeld).wellFormed = true ∧
    dstOk mU 40 false = false ∧ dstOk mU 31 false = true ∧ (sourcesAB lHeld).all (fun y => srcOk mU lHeld false y) = true ∧ codeOf lHeld .a % 4 = 0 ∧ (2 : Nat) + 1 > 2 ∧
    (latched 1).latches.getD 0 none = some ⟨1, [], 0, 0⟩ ∧ (latched 2).latches.getD 0 none = some ⟨2, [], 0, 0⟩ ∧ (mLatched 2).ctl.split 0 = some (latched 2) ∧
    (mLongs.ctl.split 0).map (fun p => p.longs.getLsbD 31) = some true ∧
    awaitingK.regs.klongs.getLsbD 3 = true ∧ (∀ j ∈ [55, 3, 5], awaitingK.regs.slongs.getLsbD j = false) ∧ (demo awaitingK none 1 []).team 0 0 = some awaitingK ∧
    (mLongK.ctl.split 0).map (fun p => (p.longs.getLsbD 243, p.longs.getLsbD 31)) = some (true, false) ∧ lHeld.pg.toNat ≠ 3 := by
  refine ⟨?_, ?_, ?_, ?_, ?_, ?_, ?_, ?_, ?_, ?_, ?_, ?_, ?_, ?_, ?_, ?_, ?_, ?_, ?_, ?_, ?_, ?_, ?_, ?_, ?_, ?_, ?_, ?_, ?_, ?_, ?_⟩ <;> decide +kernel

/-- The state before a step of the agenda: the team's word at 0x10000 is `x`, its split's at 0x10100 the parcels y. -/
def sSteps (act : Act) (x : Nat) (y : List Nat) : State :=
  { withMem (demo mU none 1 [(5, 7), (6, 35)]) [(0x10000, x), (0x10100, y.getD 0 0 + y.getD 1 0 * 2 ^ 32), (0x10108, y.getD 2 0)] with agenda := [act], focus := none }
def fetches (s : State) (split : Option Nat) (va : Word) (n : Nat) : Bool :=
  match split with
  | none => (match (fetching (stepping s []) 0 0 none).fetchParcel 0 mU false va with | (.ok k, _) => k == n | _ => false)
  | some k => (match (fetching (stepping s []) 0 0 (some k)).fetchLane 0 mU va with | (.ok w, _) => w == n | _ => false)
def sAdds : State := sSteps (.scalar 0 0) 0x8220A303 []
def sLanes : State := sSteps (.lane 0 0 0) 0 [0, 0x02F30600, 0x21A80701]
def cached : State := { sAdds.modCore 0 fun k => { k with icache := [(0x10000 / 4, some 7)] } with focus := none }
def cachedLane : State := { sLanes.modCore 0 fun k => { k with lcache := [(0x10100 / 4, some 7)] } with focus := none }
def reads (s : State) (va : Word) : Bool :=
  match xlate s (some 0) 0 0 false Need.fetch va with | (.ok pa, s1) => !isMgmt pa && pa % 4 == 0 && !s1.blocked pa none && !s1.lost pa | _ => false

theorem witness_StepRunsTheDecodedWord :
    (sSteps (.event .powerGood) 0 []).agenda = [.event .powerGood] ∧ sAdds.agenda = [.scalar 0 0] ∧ sAdds.team 0 0 = some mU ∧ mU.mayIssue = true ∧ mU.sched.holdUntil = 0 ∧
    mU.trapsFirst = false ∧ mU.breaks false mU.trap.skipDebug mU.regs.spc = false ∧ fetches sAdds none mU.regs.spc 0x8220A303 = true ∧
    decodeBytes (leBytes 4 0x8220A303) = .word (.sAdd ⟨true, 4, 5, 6, 3⟩) ∧ fetches (sSteps (.scalar 0 0) 0 []) none mU.regs.spc 0 = true ∧
    decodeBytes (leBytes 4 0) = .reject .major ∧ sLanes.agenda = [.lane 0 0 0] ∧ mU.laneWaits = false ∧ (sLanes.core 0).health.pauseUntil ≤ sLanes.cycles + 1 ∧
    mU.turnSplit = some 0 ∧ mU.ctl.split 0 = some demoSplit ∧ mU.breaks true demoSplit.skipDebug demoSplit.lpc = false ∧
    fetches sLanes (some 0) 0x10100 (0x21A80701 * 2 ^ 64 + 0x02F30600 * 2 ^ 32) = true ∧ fetches (sSteps (.lane 0 0 0) 0 []) (some 0) 0x10100 0 = true ∧
    reads sAdds 0x10000 = true ∧ (cached.core 0).icache.get none (0x10000 / 4) = some 7 ∧ (sAdds.core 0).icache.get none (0x10000 / 4) = none ∧
    (sAdds.die 0).rdc.get none (0x10000 / 32) = none ∧ reads sLanes 0x10108 = true ∧
    (stepping sAdds []).turnOf 0 0 false = true ∧ (stepping sLanes []).turnOf 0 0 true = true ∧ (∀ p ∈ sAdds.ports, p.waiting = []) ∧ sAdds.sched.kills = [] ∧
    sAdds.sched.incoming = [] ∧ (cachedLane.core 0).lcache.get none (0x10100 / 4) = some 7 ∧ (sLanes.core 0).lcache.get none (0x10100 / 4) = none := by
  refine ⟨?_, ?_, ?_, ?_, ?_, ?_, ?_, ?_, ?_, ?_, ?_, ?_, ?_, ?_, ?_, ?_, ?_, ?_, ?_, ?_, ?_, ?_, ?_, ?_, ?_, ?_, ?_, ?_, ?_⟩ <;> decide +kernel

/-- A step fetches the word and adds: `s.add.w s4, s5, s6` under k3 (chapter 03). -/
theorem test_step_adds : after (step sAdds) (fun s => decide (s.sreg 0 mU 4 = ⟨42, false⟩) &&
    match s.team 0 0 with | some m => m.regs.spc == 0x10004 && m.sched.parked | none => false) = true := by decide +kernel
/-- The word placed after reset is the one that a step runs: `s.yield`. -/
theorem test_step_placed : after (step (State.reset.withFetchWord 32 0x46000028)) (fun s => match s.team 0 0 with | some m => m.regs.spc == 0x10004 && m.sched.yielding | none => false) = true := by
  decide +kernel

theorem witness_DecodeInvertsEncode :
    (Instr.sAdd ⟨true, 4, 5, 6, 3⟩).wellFormed = true ∧ encodeBytes (.sAdd ⟨true, 4, 5, 6, 3⟩) = some (leBytes 4 0x8220A303) ∧
    (Instr.vAdd lHeld).wellFormed = true ∧ (encodeBytes (.vAdd lHeld)).isSome = true ∧ decodeBytes (leBytes 12 0x21A80701) ≠ .reject .noWord := by decide +kernel
theorem witness_EveryStepKeepsMemoryCanonical : sAdds.MemoryWf ∧ (after (step sAdds) fun _ => true) = true := by decide +kernel

/-- Chapters 04 to 16: words as the manual writes them out. -/
def isWord (n w : Nat) (i : Instr) : Bool := decide (decodeTableWord n w = some i)
theorem test_words_memory : isWord 32 0x3400000C (.sFenceRel 4 ⟨false, 0, 0, 0⟩) && isWord 32 0x3820A305 (.sAtomAcq .add 5 ⟨false, 4, 5, 6⟩) &&
    isWord 32 0x4828C394 (.sTlbiVa true ⟨false, 5, 6, 7⟩) && isWord 32 0x4A40E124 (.sPoisqPol ⟨false, 8, 7, 2⟩) = true := by decide +kernel
theorem test_words_flow : isWord 32 0xC4000048 (.sNop ⟨true, 0, 0, 0⟩) && isWord 32 0x44300038 (.sMfs ⟨false, 6, 0⟩) && isWord 32 0x49C40018 (.sMfp ⟨false, 56, 0x800⟩) &&
    isWord 32 0x44002110 (.sLrunUniforms 0 ⟨false, 0, 1, 2⟩) && isWord 32 0x46282112 (.sQpop 2 ⟨false, 5, 1, 2⟩) = true := by decide +kernel
theorem test_words_teams : isWord 32 0x46000028 (.sYield ⟨false, 0, 0, 0⟩) && isWord 32 0x48078000 (.sTrap ⟨false, 0, 60, 0⟩) &&
    isWord 32 0x4C204000 (.sColl ⟨false, 4, 2, 0⟩) && isWord 32 0xB24822A8 (.sAwwait ⟨true, 9, 1, 5⟩) = true := by decide +kernel
theorem test_words_lanes : isWord 96 (0x50100000 * 2 ^ 64 + 0x00030004) (.vBr { lane 0 0 0 0 0 1 0x30004 with pgn := false }) = true := by decide +kernel

end Sys2Proof.Tests
end

/-! ## Scratchpad accesses (R21, R219, R222, R235, R298, R299, R420) -/

namespace Sys2Proof.Machine

/-! ### Bytes of a core store -/

/-- Bit n of a dword of which byte i has been replaced. -/
theorem getLsbD_putByte (w : Word) (b : Byte) {i n : Nat} (hn : n < 64) :
    (putByte w i b).getLsbD n = if 8 * i ≤ n ∧ n < 8 * i + 8 then b.getLsbD (n - 8 * i) else w.getLsbD n := by
  have hval (h : Nat) : h * 2 ^ (8 * (i + 1)) + b.toNat * 2 ^ (8 * i) = 2 ^ (8 * i) * (2 ^ 8 * h + b.toNat) := by
    rw [Nat.mul_succ, Nat.pow_add, Nat.mul_add, Nat.mul_comm h, Nat.mul_assoc, Nat.mul_comm b.toNat]
  simp only [putByte, hval, BitVec.getLsbD_ofNat, hn, decide_true, Bool.true_and]
  rw [Nat.testBit_two_pow_mul_add _ (Nat.mod_lt _ (Nat.two_pow_pos _)), Nat.testBit_two_pow_mul_add _ b.isLt]
  by_cases h1 : n < 8 * i
  · rw [if_pos h1, if_neg (by omega), Nat.testBit_mod_two_pow, decide_eq_true h1, Bool.true_and]; rfl
  · by_cases h2 : n - 8 * i < 8
    · rw [if_neg h1, if_pos h2, if_pos (by omega)]; rfl
    · rw [if_neg h1, if_neg h2, if_neg (by omega), Nat.testBit_div_two_pow,
        show n - 8 * i - 8 + 8 * (i + 1) = n by omega]; rfl

theorem Core.getLsbD_byte (k : Core) (off : Nat) {n : Nat} (hn : n < 8) :
    (k.byte off).getLsbD n = (k.store.get 0 (off / 8)).getLsbD (8 * (off % 8) + n) := by
  simp only [Core.byte, BitVec.getLsbD_ofNat, hn, decide_true, Bool.true_and, Nat.testBit_div_two_pow, Nat.add_comm n]
  rfl

theorem Core.byte_setByte (k : Core) (off a : Nat) (b : Byte) :
    (k.setByte off b).byte a = if a = off then b else k.byte a := by
  apply BitVec.eq_of_getLsbD_eq
  intro n hn
  rw [Core.getLsbD_byte _ _ hn]
  by_cases hu : a / 8 = off / 8
  · simp only [Core.setByte, hu, SMap.get_set_self]
    rw [getLsbD_putByte _ _ (by omega)]
    by_cases ha : a = off
    · rw [if_pos (by omega), if_pos ha, show 8 * (a % 8) + n - 8 * (off % 8) = n by omega]
    · rw [if_neg (by omega), if_neg ha, Core.getLsbD_byte _ _ hn, hu]
  · rw [if_neg (by omega), Core.getLsbD_byte _ _ hn, Core.setByte, SMap.get_set_other _ _ _ hu]

theorem Core.byte_putBytes (k : Core) (off a : Nat) (bs : List Byte) :
    (k.putBytes off bs).byte a = if off ≤ a ∧ a < off + bs.length then bs.getD (a - off) 0 else k.byte a := by
  induction bs generalizing k off with
  | nil => rw [if_neg (by simp)]; rfl
  | cons b r ih =>
    rw [Core.putBytes, ih, Core.byte_setByte]
    by_cases ha : a = off
    · subst ha
      rw [if_neg (by omega), if_pos rfl, if_pos (by simp only [List.length_cons]; omega), Nat.sub_self]; rfl
    · by_cases hr : off + 1 ≤ a ∧ a < off + 1 + r.length
      · rw [if_pos hr, if_pos (by simp only [List.length_cons]; omega), show a - off = a - (off + 1) + 1 by omega, List.getD_cons_succ]
      · rw [if_neg hr, if_neg ha, if_neg (by simp only [List.length_cons]; omega)]

theorem Core.putBytes_eq (k : Core) (off : Nat) (bs : List Byte) :
    k.putBytes off bs = { k with store := (k.putBytes off bs).store } := by
  induction bs generalizing k off with
  | nil => rfl
  | cons b r ih => rw [Core.putBytes, ih]; rfl

/-! ### Marks of a write -/

/-- A fold that changes the keys base, base + 1, … in turn, each by `new`. -/
theorem SMap.get_foldl_range {α : Type} {d : α} {step : SMap α → Nat → SMap α} {new : Nat → α → α} {base : Nat}
    (hstep : ∀ m i u, (step m i).get d u = if u = base + i then new u (m.get d u) else m.get d u) (n : Nat) (m : SMap α) (u : Nat) :
    ((List.range n).foldl step m).get d u = if base ≤ u ∧ u < base + n then new u (m.get d u) else m.get d u := by
  induction n with
  | zero => rw [if_neg (by omega)]; rfl
  | succ n ih =>
    rw [List.range_succ, List.foldl_append, List.foldl_cons, List.foldl_nil, hstep, ih]
    by_cases hu : u = base + n
    · rw [if_pos hu, if_neg (by omega), if_pos (by omega)]
    · have hiff : base ≤ u ∧ u < base + (n + 1) ↔ base ≤ u ∧ u < base + n := by omega
      simp only [hu, if_false, hiff]

/-- The marks of the pieces of `size` bytes that a write of n > 0 bytes at `off` touches (R222). -/
theorem get_foldl_marks {size off n : Nat} (mark : Bool) (hs : 0 < size) (hn : 0 < n) (m : SMap Bool) (u : Nat) :
    ((List.range ((off + n + (size - 1)) / size - off / size)).foldl (fun m i =>
        if mark then m.set false (off / size + i) true
        else if off ≤ (off / size + i) * size ∧ (off / size + i) * size + size ≤ off + n then m.set false (off / size + i) false
        else m) m).get false u = markAfter size off n u mark (m.get false u) := by
  have hlast : (off + n + (size - 1)) / size = (off + n - 1) / size + 1 := by
    rw [← Nat.add_div_right _ hs]; congr 1; omega
  have hle : off / size ≤ (off + n - 1) / size := Nat.div_le_div_right (by omega)
  rw [SMap.get_foldl_range (base := off / size)
    (new := fun u old => if mark then true else if off ≤ u * size ∧ u * size + size ≤ off + n then false else old)]
  · unfold markAfter
    rw [Nat.mul_comm size u]
    by_cases h : off / size ≤ u ∧ u ≤ (off + n - 1) / size
    · rw [if_pos (by omega), if_neg (show ¬ (u < off / size ∨ (off + n - 1) / size < u) by omega)]
    · rw [if_neg (by omega), if_pos (show u < off / size ∨ (off + n - 1) / size < u by omega)]
  · intro m i u
    split
    · exact SMap.get_set _ _ _ _ _
    · by_cases hu : u = off / size + i
      · subst hu; split <;> simp
      · split <;> simp [hu]

/-- Below the end of the windows a write marks 8-byte units, elsewhere 32-byte sectors (R222). -/
theorem Core.markWrite_marks (k : Core) (off n u : Nat) (mark : Bool) (hn : 0 < n) :
    (k.markWrite off n mark).unitMarks.get false u =
      (if off < k.windowEnd then markAfter 8 off n u mark (k.unitMarks.get false u) else k.unitMarks.get false u) ∧
    (k.markWrite off n mark).sectorMarks.get false u =
      (if off < k.windowEnd then k.sectorMarks.get false u else markAfter 32 off n u mark (k.sectorMarks.get false u)) := by
  unfold Core.markWrite
  split
  · exact ⟨get_foldl_marks mark (by omega) hn k.unitMarks u, rfl⟩
  · exact ⟨rfl, get_foldl_marks mark (by omega) hn k.sectorMarks u⟩

theorem Core.markWrite_eq (k : Core) (off n : Nat) (mark : Bool) :
    k.markWrite off n mark =
      { k with unitMarks := (k.markWrite off n mark).unitMarks, sectorMarks := (k.markWrite off n mark).sectorMarks } := by
  unfold Core.markWrite; split <;> rfl

/-! ### A write to a core store -/

section
variable (k : Core) (off a u : Nat) {bs : List Byte} (mark : Bool)

theorem Core.write_eq_markWrite (hb : bs ≠ []) : k.write off bs mark = (k.putBytes off bs).markWrite off bs.length mark := by
  cases bs with
  | nil => exact absurd rfl hb
  | cons => rfl

theorem Core.write_eq :
    k.write off bs mark =
      { k with
        store := (k.write off bs mark).store
        unitMarks := (k.write off bs mark).unitMarks
        sectorMarks := (k.write off bs mark).sectorMarks } := by
  cases bs with
  | nil => rfl
  | cons b r =>
    rw [Core.write_eq_markWrite k off mark (List.cons_ne_nil b r), Core.markWrite_eq, Core.putBytes_eq]

theorem Core.byte_write (hb : bs ≠ []) :
    (k.write off bs mark).byte a = if off ≤ a ∧ a < off + bs.length then bs.getD (a - off) 0 else k.byte a := by
  rw [Core.write_eq_markWrite k off mark hb, Core.markWrite_eq, ← Core.byte_putBytes]; rfl

theorem Core.write_marks (hb : bs ≠ []) :
    (k.write off bs mark).unitMarks.get false u =
      (if off < k.windowEnd then markAfter 8 off bs.length u mark (k.unitMarks.get false u) else k.unitMarks.get false u) ∧
    (k.write off bs mark).sectorMarks.get false u =
      (if off < k.windowEnd then k.sectorMarks.get false u else markAfter 32 off bs.length u mark (k.sectorMarks.get false u)) := by
  have h := Core.markWrite_marks (k.putBytes off bs) off bs.length u mark (List.length_pos_iff.mpr hb)
  rw [Core.write_eq_markWrite k off mark hb]
  rw [Core.putBytes_eq] at h ⊢
  exact h

/-- The units of `us` that are RES0 made zero, without a mark: what `Core.put` does after its write (R299). -/
def Core.clearReserved (k : Core) (us : List Nat) : Core :=
  us.foldl (fun k u => if k.reserved u then k.setUnit u ⟨0, false⟩ else k) k

theorem Core.put_eq_clearReserved :
    k.put off bs mark = if k.windowEnd ≤ off then k.write off bs mark
      else (k.write off bs mark).clearReserved ((List.range ((off + bs.length + 7) / 8 - off / 8)).map (off / 8 + ·)) := by
  have hwin : (k.write off bs mark).windowEnd = k.windowEnd := by rw [Core.write_eq]; rfl
  rw [← hwin]; rfl

theorem Core.clearReserved_eq (us : List Nat) :
    k.clearReserved us = { k with store := (k.clearReserved us).store, unitMarks := (k.clearReserved us).unitMarks } := by
  induction us generalizing k with
  | nil => rfl
  | cons v us ih =>
    rw [show k.clearReserved (v :: us) = (if k.reserved v then k.setUnit v ⟨0, false⟩ else k).clearReserved us from rfl, ih]
    split <;> rfl

/-- What a unit holds once the reserved units of `us` have been cleared. -/
theorem Core.clearReserved_unit (us : List Nat) :
    (k.clearReserved us).store.get 0 u = (if u ∈ us ∧ k.reserved u = true then 0 else k.store.get 0 u) ∧
    (k.clearReserved us).unitMarks.get false u = (if u ∈ us ∧ k.reserved u = true then false else k.unitMarks.get false u) := by
  induction us generalizing k with
  | nil => simp [Core.clearReserved]
  | cons v us ih =>
    rw [show k.clearReserved (v :: us) = (if k.reserved v then k.setUnit v ⟨0, false⟩ else k).clearReserved us from rfl]
    by_cases hv : k.reserved v = true
    · rw [if_pos hv, (ih _).1, (ih _).2, show (k.setUnit v ⟨0, false⟩).reserved u = k.reserved u from rfl]
      by_cases hu : u = v
      · subst hu; simp [Core.setUnit, hv]
      · simp [Core.setUnit, hu]
    · rw [if_neg hv, (ih _).1, (ih _).2]
      have hu : u ∈ v :: us ∧ k.reserved u = true ↔ u ∈ us ∧ k.reserved u = true := by
        rw [List.mem_cons]
        exact ⟨fun ⟨hm, hr⟩ => ⟨hm.resolve_left fun e => hv (e ▸ hr), hr⟩, fun ⟨hm, hr⟩ => ⟨.inr hm, hr⟩⟩
      simp only [hu, and_self]

theorem Core.put_eq :
    k.put off bs mark =
      { k with
        store := (k.put off bs mark).store
        unitMarks := (k.put off bs mark).unitMarks
        sectorMarks := (k.write off bs mark).sectorMarks } := by
  rw [Core.put_eq_clearReserved]
  split
  · exact Core.write_eq k off mark
  · rw [Core.clearReserved_eq, Core.write_eq]

/-- The units that a scratchpad write clears are the dead ones. -/
theorem deadUnit_iff_cleared (n : Nat) :
    deadUnit k off n u ↔ ¬ k.windowEnd ≤ off ∧
      u ∈ (List.range ((off + n + 7) / 8 - off / 8)).map (off / 8 + ·) ∧ k.reserved u = true := by
  have hmem : u ∈ (List.range ((off + n + 7) / 8 - off / 8)).map (off / 8 + ·) ↔ off / 8 ≤ u ∧ 8 * u < off + n := by
    simp only [List.mem_map, List.mem_range]
    exact ⟨fun ⟨i, hi, he⟩ => by omega, fun h => ⟨u - off / 8, by omega, by omega⟩⟩
  rw [hmem, deadUnit, Nat.not_le, and_assoc]

/-- A dead unit reads as zero after a write, without a mark (R7, R299). -/
theorem Core.put_dead (hd : deadUnit k off bs.length u) :
    (k.put off bs mark).store.get 0 u = 0 ∧ (k.put off bs mark).unitMarks.get false u = false := by
  obtain ⟨hwin, hmem, hres⟩ := (deadUnit_iff_cleared k off u bs.length).mp hd
  have hr : (k.write off bs mark).reserved u = true := by rw [Core.write_eq]; exact hres
  rw [Core.put_eq_clearReserved, if_neg hwin]
  simpa only [hmem, hr, and_self, if_true] using
    Core.clearReserved_unit (k.write off bs mark) u ((List.range ((off + bs.length + 7) / 8 - off / 8)).map (off / 8 + ·))

/-- A unit that is not dead is as the write leaves it. -/
theorem Core.put_live (hd : ¬ deadUnit k off bs.length u) :
    (k.put off bs mark).store.get 0 u = (k.write off bs mark).store.get 0 u ∧
    (k.put off bs mark).unitMarks.get false u = (k.write off bs mark).unitMarks.get false u := by
  rw [deadUnit_iff_cleared] at hd
  rw [Core.put_eq_clearReserved]
  split
  · exact ⟨rfl, rfl⟩
  · next hwin =>
    have hr : (k.write off bs mark).reserved u = k.reserved u := by rw [Core.write_eq]; rfl
    have h := Core.clearReserved_unit (k.write off bs mark) u ((List.range ((off + bs.length + 7) / 8 - off / 8)).map (off / 8 + ·))
    rw [hr, if_neg fun h => hd ⟨hwin, h⟩, if_neg fun h => hd ⟨hwin, h⟩] at h
    exact h

theorem Core.byte_put (hb : bs ≠ []) (hd : ¬ deadUnit k off bs.length (a / 8)) :
    (k.put off bs mark).byte a = if off ≤ a ∧ a < off + bs.length then bs.getD (a - off) 0 else k.byte a := by
  rw [← Core.byte_write k off a mark hb, Core.byte, (Core.put_live k off (a / 8) mark hd).1]; rfl

end

/-! ### The register windows of a core's teams -/

theorem SMap.lt_of_mem_rising {α : Type} {m : SMap α} {lo : Nat} (h : SMap.rising (some lo) m = true) : ∀ e ∈ m, lo < e.1 := by
  induction m generalizing lo with
  | nil => exact fun _ h => absurd h List.not_mem_nil
  | cons x m ih =>
    obtain ⟨hx, hm⟩ := SMap.rising_cons.mp h
    exact List.forall_mem_cons.mpr ⟨hx, fun e he => Nat.lt_trans hx (ih hm e he)⟩

/-- A map in canonical form lists what its keys read as. -/
theorem SMap.mem_iff_get {α : Type} [DecidableEq α] {d v : α} {m : SMap α} (h : m.wf d = true) (hv : v ≠ d) (k : Nat) :
    (k, v) ∈ m ↔ m.get d k = v := by
  replace h := (SMap.wf_iff.mp h).1
  induction m with
  | nil => simpa [SMap.get] using hv.symm
  | cons x m ih =>
    obtain ⟨k', v'⟩ := x
    have hm := (SMap.rising_cons.mp h).2
    rw [List.mem_cons, SMap.get, Prod.mk.injEq]
    by_cases hk : k = k'
    · subst hk
      have hnot : (k, v) ∉ m := fun he => Nat.lt_irrefl k (SMap.lt_of_mem_rising hm _ he)
      simp [hnot, eq_comm]
    · simp [hk, ih (SMap.rising_drop (lo := none) trivial hm)]

/-- The units that are RES0 in the window of a team with this identity (R298, R299). -/
def TeamId.reserves (i : TeamId) (unit : Nat) : Prop :=
  let lo := i.regwin / 8
  let tail := lo + 128 + i.lanes * i.vregs
  (lo + 77 ≤ unit ∧ unit < lo + 80) ∨ (lo + 112 ≤ unit ∧ unit < lo + 128) ∨ (tail ≤ unit ∧ unit < lo + windowBytes i.lanes i.vregs / 8)

/-- In canonical form, a unit is reserved if the window of a team that the map names reserves it. -/
theorem Core.reserved_iff {k : Core} (hw : k.teams.wf none = true) (u : Nat) :
    k.reserved u = true ↔ ∃ t i, (k.teams.get none t).map Team.id = some i ∧ i.reserves u := by
  have hmem : ∀ t m, (t, m) ∈ k.residents ↔ k.teams.get none t = some m := fun t m => by
    rw [← SMap.mem_iff_get hw (Option.some_ne_none m)]
    simp only [Core.residents, List.mem_filterMap, Option.map_eq_some_iff, Prod.mk.injEq]
    exact ⟨fun ⟨e, he, m', hm, ht, hm'⟩ => by subst ht hm'; rw [← hm]; exact he, fun h => ⟨_, h, m, rfl, rfl, rfl⟩⟩
  simp only [Core.reserved, List.any_eq_true, decide_eq_true_eq, Option.map_eq_some_iff]
  exact ⟨fun ⟨e, he, hr⟩ => ⟨e.1, e.2.id, ⟨e.2, (hmem _ _).mp he, rfl⟩, hr⟩,
    fun ⟨t, i, ⟨m, hm, hi⟩, hr⟩ => ⟨(t, m), (hmem _ _).mpr hm, by subst hi; exact hr⟩⟩

/-- Of a core, nothing but its teams differs, and they keep their identities. -/
structure Core.SameWindows (k k' : Core) : Prop where
  rest : k' = { k with teams := k'.teams }
  ids : ∀ t, (k'.teams.get none t).map Team.id = (k.teams.get none t).map Team.id
  wf : k.teams.wf none = true → k'.teams.wf none = true

theorem Core.SameWindows.refl (k : Core) : k.SameWindows k := ⟨rfl, fun _ => rfl, id⟩

theorem Core.SameWindows.trans {k k' k'' : Core} (h : k.SameWindows k') (g : k'.SameWindows k'') : k.SameWindows k'' :=
  ⟨by rw [g.rest, h.rest], fun t => (g.ids t).trans (h.ids t), fun hw => g.wf (h.wf hw)⟩

theorem Core.SameWindows.reserved {k k' : Core} (h : k.SameWindows k') (hw : k.teams.wf none = true) (u : Nat) :
    k'.reserved u = k.reserved u := by
  rw [Bool.eq_iff_iff, Core.reserved_iff hw, Core.reserved_iff (h.wf hw)]
  simp only [h.ids]

/-- Every team of a core changed: what `State.conflicts` and `Core.noteFrame` do. -/
def Core.mapTeams (k : Core) (f : Team → Team) : Core := { k with teams := k.teams.map fun e => (e.1, e.2.map f) }

theorem Core.sameWindows_mapTeams (k : Core) {f : Team → Team} (hf : ∀ m, (f m).id = m.id) : k.SameWindows (k.mapTeams f) := by
  have hget : ∀ (ts : SMap (Option Team)) (t : Nat),
      SMap.get none (ts.map fun e => (e.1, e.2.map f)) t = (ts.get none t).map f := fun ts t => by
    induction ts with
    | nil => rfl
    | cons e ts ih => simp only [List.map_cons, SMap.get, ih]; split <;> rfl
  have hrising : ∀ (ts : SMap (Option Team)) (lo : Option Nat), ts.rising lo = true →
      SMap.rising lo (ts.map fun e => (e.1, e.2.map f)) = true := fun ts => by
    induction ts with
    | nil => exact fun _ h => h
    | cons e ts ih => exact fun lo h => SMap.rising_cons.mpr ⟨(SMap.rising_cons.mp h).1, ih _ (SMap.rising_cons.mp h).2⟩
  refine ⟨rfl, fun t => ?_, fun hw => ?_⟩
  · simp only [Core.mapTeams, hget, Option.map_map]
    exact congrArg (fun g => Option.map g (k.teams.get none t)) (funext hf)
  · obtain ⟨hr, hn⟩ := SMap.wf_iff.mp hw
    refine SMap.wf_iff.mpr ⟨hrising _ _ hr, fun e he => ?_⟩
    obtain ⟨x, hx, rfl⟩ := List.mem_map.mp he
    exact fun h => hn x hx (Option.map_eq_none_iff.mp h)

/-- Nothing but the teams of the cores differs, and they keep their identities. -/
structure State.SameWindows (s s' : State) : Prop where
  mem : s'.mem = s.mem
  cores : ∀ q, (s.core q).SameWindows (s'.core q)

theorem State.SameWindows.refl (s : State) : s.SameWindows s := ⟨rfl, fun _ => .refl _⟩

theorem State.SameWindows.trans {s s' s'' : State} (h : s.SameWindows s') (g : s'.SameWindows s'') : s.SameWindows s'' :=
  ⟨g.mem.trans h.mem, fun q => (h.cores q).trans (g.cores q)⟩

theorem State.sameWindows_modTeam (s : State) (c t : Nat) {f : Team → Team} (hf : ∀ m, (f m).id = m.id) :
    s.SameWindows (s.modTeam c t f) := by
  cases hm : s.team c t with
  | none => rw [State.modTeam, hm]; exact .refl s
  | some m =>
    rw [State.modTeam_of_some f hm]
    refine ⟨rfl, fun q => ?_⟩
    by_cases hq : q = c
    · subst hq
      rw [State.core_setTeam]
      refine ⟨rfl, fun u => ?_, fun hw => SMap.wf_set t (some (f m)) hw⟩
      by_cases hu : u = t
      · subst hu
        rw [SMap.get_set_self, show (s.core q).teams.get none u = some m from hm]
        exact congrArg some (hf m)
      · rw [SMap.get_set_other _ _ _ hu]
    · rw [State.core_setTeam_other _ _ _ _ _ hq]; exact .refl _

theorem State.sameWindows_mapTeams (s : State) {f : Team → Team} (hf : ∀ m, (f m).id = m.id) :
    s.SameWindows { s with cores := s.cores.mapVals Core.init fun k => k.mapTeams f } := by
  refine ⟨rfl, fun q => ?_⟩
  have hcore := SMap.get_mapVals Core.init s.cores (fun k => k.mapTeams f) rfl q
  rw [State.core, State.core, hcore]
  exact Core.sameWindows_mapTeams _ hf

/-- Noting a conflict changes regions only (R420). -/
theorem State.sameWindows_conflicts (s : State) (own : Option (Nat × Nat)) (q : Nat) (sectors : List Nat) :
    s.SameWindows (s.conflicts own q sectors) := by
  have hall : s.SameWindows (s.conflicts none q sectors) := s.sameWindows_mapTeams fun m => by
    split
    · split <;> rfl
    · rfl
  match own with
  | none => exact hall
  | some (c, t) =>
    cases hg : (s.team c t).bind (·.region) with
    | none =>
      rw [show s.conflicts (some (c, t)) q sectors = s.conflicts none q sectors by simp only [State.conflicts, hg]]
      exact hall
    | some g =>
      rw [show s.conflicts (some (c, t)) q sectors = (s.conflicts none q sectors).modTeam c t fun m =>
        { m with region := m.region.map fun x => { x with conflict := g.conflict } } by simp only [State.conflicts, hg]]
      exact hall.trans (State.sameWindows_modTeam _ c t fun _ => rfl)

theorem Core.noteFrame_sameWindows (k : Core) (off n : Nat) : k.SameWindows (k.noteFrame off n) :=
  Core.sameWindows_mapTeams k fun m => by dsimp only; split <;> rfl

/-- A team's scratchpad write is the write to the core store, once regions have noted it (R419, R420). -/
theorem State.teamScratch_eq (s : State) (c t : Nat) (p : Place) (bs : List Byte) (mark : Bool) :
    ∃ s1, s.SameWindows s1 ∧
      s.teamScratch c t p bs mark = s1.modCore p.core fun k => (k.put p.off bs mark).noteFrame p.off bs.length := by
  refine ⟨_, ?_, rfl⟩
  have h := s.sameWindows_conflicts (some (c, t)) p.core (sectorsOf p.off bs.length)
  split
  · exact h.trans (State.sameWindows_modTeam _ _ _ fun _ => rfl)
  · exact h

/-! ### What a scratchpad store leaves -/

/-- What `ScratchStoresWriteTheirBytes` says of one store. -/
def ScratchStoreWritesItsBytes (s : State) (c t : Nat) (p : Place) (bs : List Byte) (mark : Bool) : Prop :=
  let s' := s.teamScratch c t p bs mark
  let n := bs.length
  let dead := deadUnit (s.core p.core) p.off n
  (∀ i, i < n → ¬ dead ((p.off + i) / 8) → (s'.core p.core).byte (p.off + i) = bs.getD i 0) ∧
  (∀ u, dead u → (s'.core p.core).store.get 0 u = 0 ∧ (s'.core p.core).unitMarks.get false u = false) ∧
  (∀ q a, (q ≠ p.core ∨ ((a < p.off ∨ p.off + n ≤ a) ∧ ¬ dead (a / 8))) → (s'.core q).byte a = (s.core q).byte a) ∧
  (∀ u, ¬ dead u → (s'.core p.core).unitMarks.get false u =
    if p.off < (s.core p.core).windowEnd then markAfter 8 p.off n u mark ((s.core p.core).unitMarks.get false u)
    else (s.core p.core).unitMarks.get false u) ∧
  (∀ u, (s'.core p.core).sectorMarks.get false u =
    if p.off < (s.core p.core).windowEnd then (s.core p.core).sectorMarks.get false u
    else markAfter 32 p.off n u mark ((s.core p.core).sectorMarks.get false u)) ∧
  s'.mem = s.mem ∧ (∀ q, (s'.core q).acc = (s.core q).acc ∧ (s'.core q).part = (s.core q).part)

theorem scratchStoresWriteTheirBytes_iff :
    ScratchStoresWriteTheirBytes ↔ ∀ s c t p bs mark, bs ≠ [] → ScratchStoreWritesItsBytes s c t p bs mark := Iff.rfl

/-- Where the teams of the written core are listed in canonical form, a store writes its bytes and marks. -/
theorem scratchStoreWritesItsBytes_of_wf (s : State) (c t : Nat) (p : Place) {bs : List Byte} (mark : Bool) (hb : bs ≠ [])
    (hw : (s.core p.core).teams.wf none = true) : ScratchStoreWritesItsBytes s c t p bs mark := by
  obtain ⟨s1, hs, hs'⟩ := s.teamScratch_eq c t p bs mark
  have hother : ∀ q, q ≠ p.core → (s.teamScratch c t p bs mark).core q = s1.core q := fun q hq => by
    rw [hs', State.core_modCore_other _ _ _ _ hq]
  have hrest : ∀ q, s1.core q = { s.core q with teams := (s1.core q).teams } := fun q => (hs.cores q).rest
  obtain ⟨ts, hts⟩ : ∃ ts, (s.teamScratch c t p bs mark).core p.core = { (s1.core p.core).put p.off bs mark with teams := ts } := by
    rw [hs', State.core_modCore_self]; exact ⟨_, (Core.noteFrame_sameWindows _ _ _).rest⟩
  have hdead : ∀ u, deadUnit (s1.core p.core) p.off bs.length u ↔ deadUnit (s.core p.core) p.off bs.length u := fun u => by
    unfold deadUnit
    rw [(hs.cores p.core).reserved hw, hrest p.core]; rfl
  have hlive {u} (hd : ¬ deadUnit (s.core p.core) p.off bs.length u) : ¬ deadUnit (s1.core p.core) p.off bs.length u :=
    fun h => hd ((hdead u).mp h)
  have hbyte : ∀ a, ¬ deadUnit (s.core p.core) p.off bs.length (a / 8) → ((s.teamScratch c t p bs mark).core p.core).byte a =
      if p.off ≤ a ∧ a < p.off + bs.length then bs.getD (a - p.off) 0 else (s.core p.core).byte a := fun a hd => by
    rw [hts]
    refine (Core.byte_put (s1.core p.core) p.off a mark hb (hlive hd)).trans ?_
    rw [hrest p.core]; rfl
  have hmarks := fun u => Core.write_marks (s1.core p.core) p.off u mark hb
  refine ⟨fun i hi hd => ?_, fun u hd => ?_, fun q a h => ?_, fun u hd => ?_, fun u => ?_, ?_, fun q => ?_⟩
  · rw [hbyte _ hd, if_pos (by omega), Nat.add_sub_cancel_left]
  · rw [hts]
    exact Core.put_dead _ _ _ mark ((hdead u).mpr hd)
  · by_cases hq : q = p.core
    · subst hq
      obtain ⟨ha, hd⟩ := h.resolve_left (fun hne => hne rfl)
      rw [hbyte a hd, if_neg (by omega)]
    · rw [hother q hq, hrest q]; rfl
  · rw [hts]
    refine ((Core.put_live _ _ _ mark (hlive hd)).2.trans (hmarks u).1).trans ?_
    rw [hrest p.core]; rfl
  · rw [hts, Core.put_eq]
    refine (hmarks u).2.trans ?_
    rw [hrest p.core]; rfl
  · rw [hs']; exact hs.mem
  · by_cases hq : q = p.core
    · subst hq
      rw [hts, Core.put_eq, hrest p.core]; exact ⟨rfl, rfl⟩
    · rw [hother q hq, hrest q]; exact ⟨rfl, rfl⟩

/-! ### Where a scratchpad access may lie -/

theorem within_iff (off n base size : Nat) : within off n base size = true ↔ base ≤ off ∧ off + n ≤ base + size := by
  simp [within]

theorem bit_eq_getLsbD (v : Word) (i : Nat) : bit v.toNat i = v.getLsbD i := by
  show decide (v.toNat / 2 ^ i % 2 = 1) = v.toNat.testBit i
  exact Nat.testBit_eq_decide_div_mod_eq.symm

/-- The two places that a scratchpad address value names: in an area of the team's own core, or with PEER in the scratchpad of a core of
its cluster (R21, R219). -/
theorem scratchPlace_some {s : State} {c n : Nat} {m : Team} {wide : Bool} {va : Word} {p : Place}
    (h : scratchPlace s c m wide va n = some p) :
    va.toNat < 2 ^ 24 ∧ ∃ a, (s.core c).part = some a ∧
      if va.getLsbD 23 then
        peerCore (s.core c) c m (va.toNat / 2 ^ 20 % 8) = some p.core ∧ within (va.toNat % 2 ^ 20) n a.spBase a.spSize = true ∧
        p = ⟨p.core, ((s.core p.core).part.map (·.spBase)).getD 0 + (va.toNat % 2 ^ 20 - a.spBase), true⟩
      else
        p = ⟨c, va.toNat % 2 ^ 20, false⟩ ∧
        (within p.off n m.id.regwin (windowBytes m.id.lanes m.id.vregs) = true ∨ within p.off n a.spBase a.spSize = true ∨
         (wide = true ∧ within p.off n a.trapBase (a.l1Base - a.trapBase) = true)) := by
  unfold scratchPlace at h
  cases hp : (s.core c).part with
  | none => simp [hp] at h
  | some a =>
    simp only [hp, bit_eq_getLsbD] at h
    obtain ⟨hv, h⟩ := (Option.ite_none_left_eq_some).mp h
    refine ⟨by omega, a, rfl, ?_⟩
    cases hbit : va.getLsbD 23
    · simp only [hbit, Bool.false_eq_true, if_false] at h ⊢
      obtain ⟨ha, h⟩ := (Option.ite_none_right_eq_some).mp h
      obtain rfl := Option.some.inj h
      exact ⟨rfl, by simpa [or_assoc] using ha⟩
    · simp only [hbit, if_true] at h ⊢
      cases hq : peerCore (s.core c) c m (bits va.toNat 20 3) with
      | none => simp [hq] at h
      | some q =>
        simp only [hq] at h
        obtain ⟨ha, h⟩ := (Option.ite_none_right_eq_some).mp h
        obtain rfl := Option.some.inj h
        exact ⟨hq, ha, rfl⟩

/-- What an access that passes the checks has met (R235). -/
theorem checkScratch_eq_ok {s : State} {c n : Nat} {m : Team} {store : Bool} {va : Word} {p : Place} :
    checkScratch s c m store va n = .ok p ↔
      va.toNat % n = 0 ∧ scratchPlace s c m m.wide va n = some p ∧ (store && frameStore m p n) = false := by
  unfold checkScratch
  by_cases hn : va.toNat % n = 0
  · cases hp : scratchPlace s c m m.wide va n with
    | none => simp [hn]
    | some q =>
      cases hf : store && frameStore m q n
      · simp only [hn, hf, ne_eq, not_true_eq_false, if_false, Bool.false_eq_true, Except.ok.injEq, Option.some.injEq, true_and]
        exact ⟨fun h => h ▸ ⟨rfl, hf⟩, fun h => h.1⟩
      · simp only [hn, hf, ne_eq, not_true_eq_false, if_false, if_true, reduceCtorEq, Option.some.injEq, true_and, false_iff]
        rintro ⟨rfl, h⟩; rw [hf] at h; cases h
  · simp [hn]

/-- The failures of the checks, in their order (R235). -/
theorem checkScratch_eq_error {s : State} {c n : Nat} {m : Team} {store : Bool} {va : Word} {r : Raise}
    (h : checkScratch s c m store va n = .error r) (hn : va.toNat % n = 0) : r = ⟨.scratchBounds, va, 0⟩ := by
  unfold checkScratch at h
  rw [if_neg fun hne => hne hn] at h
  split at h
  · exact (Except.error.inj h).symm
  · split at h
    · exact (Except.error.inj h).symm
    · cases h

/-- A store outside handler state keeps clear of the frame copies (R298). -/
theorem frameStore_eq_false {m : Team} {p : Place} {n : Nat} (h : frameStore m p n = false) (hp : p.peer = false)
    (hm : m.trap.handler = false) : p.off + n ≤ m.id.regwin + 0x200 ∨ m.id.regwin + 0x400 ≤ p.off := by
  simp only [frameStore, hp, hm, Bool.not_false, Bool.true_and, Bool.and_eq_false_iff, decide_eq_false_iff_not] at h
  omega

theorem scratchAccessesStayInTheirArea : ScratchAccessesStayInTheirArea := by
  intro s c m store va n
  refine ⟨fun hn => if_pos hn, fun r hn h => checkScratch_eq_error h hn, fun p h => ?_⟩
  obtain ⟨hn, hp, hf⟩ := checkScratch_eq_ok.mp h
  obtain ⟨hv, a, ha, hplace⟩ := scratchPlace_some hp
  refine ⟨hn, hv, a, ha, ?_⟩
  split
  · next hbit =>
    rw [if_pos hbit] at hplace
    obtain ⟨hq, hin, hpe⟩ := hplace
    obtain ⟨hlo, hhi⟩ := (within_iff _ _ _ _).mp hin
    exact ⟨by rw [hpe], hq, hlo, hhi, by rw [hpe]⟩
  · next hbit =>
    rw [if_neg hbit] at hplace
    obtain ⟨hpe, hin⟩ := hplace
    simp only [within_iff] at hin
    refine ⟨hpe, hin, fun hst hh _ => frameStore_eq_false ?_ (by rw [hpe]) hh⟩
    simpa [hst] using hf

/-! ### A core that lists a team twice -/

/-- Core 0 runs one team, which has a region open. -/
def listedOnce : State :=
  let m := Team.start placedId (Lease.start false 0 0) 0
  let s := State.reset.setCore 0 { Core.init.setUp placedPart with teams := [(0, some m)] }
  s.openRegion 0 0 0 0 false (recordOf s 0 m 0 0 0 0 false)

/-- The same with TEAM_INDEX 0 listed again, behind, for a team whose window begins at 8192: a list that is not in canonical form. -/
def listedTwice : State :=
  let shadowed := Team.start { placedId with regwin := 8192 } (Lease.start false 0 0) 0
  listedOnce.modCore 0 fun k => { k with teams := k.teams ++ [(0, some shadowed)] }

/-- A state that meets the hypotheses of `scratchStoreWritesItsBytes_of_wf`, its team in a region. -/
theorem listedOnce_store : ScratchStoreWritesItsBytes listedOnce 0 0 ⟨0, 8808, false⟩ [1] false :=
  scratchStoreWritesItsBytes_of_wf _ _ _ _ _ (List.cons_ne_nil _ _) (by decide)

/-- Byte 8808 lies in row 77 of the window at 8192, a reserved row of the frame (R298). -/
theorem listedTwice_deadUnit : deadUnit (listedTwice.core 0) 8808 1 1101 := by
  unfold deadUnit; decide

/-- The region of the first entry notes the store, which drops the second entry and with it the reserved row: the byte is written. -/
theorem listedTwice_written :
    ((listedTwice.teamScratch 0 0 ⟨0, 8808, false⟩ [1] false).core 0).store.get 0 1101 = 1 := by decide

/-- Refutes O13: the statement speaks of every state, also of one whose core lists a TEAM_INDEX twice. A store by a team with an open
region rewrites the team's entry, so the second entry goes and the reserved rows of its window take the bytes written. Everything else holds:
the clause on addresses (`scratchAccessesStayInTheirArea`), and the clause on stores wherever the written core's teams are listed in
canonical form (`scratchStoreWritesItsBytes_of_wf`). -/
theorem not_scratchpadsHoldTheirBytes : ¬ Obligations.ScratchpadsHoldTheirBytes := by
  rintro ⟨-, hstores⟩
  obtain ⟨-, hdead, -⟩ :=
    scratchStoresWriteTheirBytes_iff.mp hstores listedTwice 0 0 ⟨0, 8808, false⟩ [1] false (List.cons_ne_nil _ _)
  have hzero := (hdead 1101 listedTwice_deadUnit).1
  rw [listedTwice_written] at hzero
  exact absurd hzero (by decide)

end Sys2Proof.Machine

/-! ## Number formats: rounding, exact arithmetic and special operands (R60 to R66, R130, R131, R136, R138) -/

namespace Sys2Proof.Machine

/-! ### Powers of two and signs -/

theorem twoPow_eq_zpow (e : Int) : twoPow e = Rat.zpow 2 e := by
  cases e with
  | ofNat n => exact if_pos (Int.natCast_nonneg n)
  | negSucc n => exact (if_neg (by omega)).trans ((Rat.div_def _ _).trans (Rat.one_mul _))

theorem twoPow_add (a b : Int) : twoPow (a + b) = twoPow a * twoPow b := by
  rw [twoPow_eq_zpow, twoPow_eq_zpow, twoPow_eq_zpow]; exact Rat.zpow_add (by decide) a b

theorem twoPow_pos (e : Int) : 0 < twoPow e := by
  rw [twoPow_eq_zpow]; exact Rat.zpow_pos (by decide)

theorem twoPow_ne_zero (e : Int) : twoPow e ≠ 0 := Rat.ne_of_gt (twoPow_pos e)

theorem twoPow_natCast (n : Nat) : twoPow n = ((2 ^ n : Nat) : Rat) := by
  rw [twoPow_eq_zpow]; exact (Rat.natCast_pow 2 n).symm

theorem twoPow_zero : twoPow 0 = 1 := twoPow_natCast 0

theorem twoPow_one : twoPow 1 = 2 := twoPow_natCast 1

/-- The larger power of two by the smaller. -/
theorem twoPow_eq_mul {a b : Int} (h : a ≤ b) : twoPow b = ((2 ^ (b - a).toNat : Nat) : Rat) * twoPow a := by
  rw [← twoPow_natCast, ← twoPow_add, Int.toNat_of_nonneg (by omega), Int.sub_add_cancel]

theorem twoPow_le {a b : Int} (h : a ≤ b) : twoPow a ≤ twoPow b := by
  have hone : (1 : Rat) ≤ ((2 ^ (b - a).toNat : Nat) : Rat) := Rat.natCast_le_natCast.mpr (Nat.two_pow_pos _)
  rw [twoPow_eq_mul h]
  have := Rat.mul_le_mul_of_nonneg_right hone (Rat.le_of_lt (twoPow_pos a))
  rwa [Rat.one_mul] at this

theorem natCast_zero : ((0 : Nat) : Rat) = 0 := rfl
theorem natCast_one : ((1 : Nat) : Rat) = 1 := rfl
theorem natCast_two : ((2 : Nat) : Rat) = 2 := rfl

theorem natCast_ne_zero {n : Nat} (h : 0 < n) : (n : Rat) ≠ 0 := Rat.ne_of_gt (Rat.natCast_pos.mpr h)

theorem zero_div_mul (d t : Rat) : ((0 : Nat) : Rat) / d * t = 0 := by
  rw [natCast_zero, Rat.div_def, Rat.zero_mul, Rat.zero_mul]

theorem div_one_natCast (a : Rat) : a / ((1 : Nat) : Rat) = a := by
  rw [← Rat.mul_one (a / _)]; exact Rat.div_mul_cancel (natCast_ne_zero Nat.one_pos)

/-- The factor that a sign bit stands for. -/
def signQ (neg : Bool) : Rat := if neg then -1 else 1

theorem signQ_true : signQ true = -1 := rfl
theorem signQ_false : signQ false = 1 := rfl

theorem signQ_not (neg : Bool) : signQ (!neg) = -signQ neg := by
  cases neg
  · rfl
  · exact (Rat.neg_neg 1).symm

theorem signQ_mul_self (neg : Bool) : signQ neg * signQ neg = 1 := by
  cases neg
  · exact Rat.one_mul 1
  · rw [signQ_true, Rat.neg_mul, Rat.one_mul, Rat.neg_neg]

theorem signQ_xor (x y : Bool) : signQ (x != y) = signQ x * signQ y := by
  cases x
  · rw [Bool.false_bne, signQ_false, Rat.one_mul]
  · rw [Bool.true_bne, signQ_not, signQ_true, Rat.neg_mul, Rat.one_mul]

theorem abs_signQ_mul (neg : Bool) (a : Rat) : (signQ neg * a).abs = a.abs := by
  cases neg
  · rw [signQ_false, Rat.one_mul]
  · rw [signQ_true, Rat.neg_mul, Rat.one_mul, Rat.abs_neg]

theorem signQ_mul_sub (neg : Bool) (a b : Rat) : (signQ neg * a - signQ neg * b).abs = (a - b).abs := by
  rw [← abs_signQ_mul neg (a - b)]; congr 1; grind

/-! ### Exact values as rationals -/

theorem FVal.rat_num (n : Bool) (m d : Nat) (e : Int) :
    (FVal.num n m d e).rat = some (signQ n * ((m : Rat) / (d : Rat) * twoPow e)) := by
  rw [← Rat.mul_assoc]; rfl

/-- Only numbers stand for a rational. -/
theorem FVal.rat_eq_some {v : FVal} {x : Rat} (h : v.rat = some x) :
    ∃ n m d e, v = .num n m d e ∧ x = signQ n * ((m : Rat) / (d : Rat) * twoPow e) := by
  cases v with
  | nan s => cases h
  | inf n => cases h
  | num n m d e => exact ⟨n, m, d, e, rfl, (Option.some.inj ((FVal.rat_num n m d e).symm.trans h)).symm⟩

theorem FVal.rat_flip {v : FVal} {x : Rat} (c : Bool) (h : v.rat = some x) : (v.flip c).rat = some (signQ c * x) := by
  obtain ⟨n, m, d, e, rfl, rfl⟩ := FVal.rat_eq_some h
  rw [FVal.flip, FVal.rat_num, signQ_xor, Rat.mul_comm (signQ n), Rat.mul_assoc]

theorem FVal.proper_flip {v : FVal} (c : Bool) (h : v.proper) : (v.flip c).proper := by
  cases v <;> exact h

/-! ### The operations on numbers are exact (R130, R131, R136) -/

/-- A numerator over the common denominator of two numbers, with its sign, as `exactAdd` and `cmpV` form it. -/
def alignedNum (neg : Bool) (m d k : Nat) : Int := if neg then -((m * d * 2 ^ k : Nat) : Int) else ((m * d * 2 ^ k : Nat) : Int)

theorem alignedNum_eq (neg : Bool) (m d k : Nat) :
    (alignedNum neg m d k : Rat) = signQ neg * ((m : Rat) * (d : Rat) * ((2 ^ k : Nat) : Rat)) := by
  cases neg
  · rw [signQ_false, Rat.one_mul, ← Rat.natCast_mul, ← Rat.natCast_mul]; exact Rat.intCast_natCast _
  · rw [signQ_true, Rat.neg_mul, Rat.one_mul, ← Rat.natCast_mul, ← Rat.natCast_mul, ← Rat.intCast_natCast]
    exact Rat.intCast_neg _

theorem exactAdd_num (rm : RMode) (x y : Bool) (m d m' d' : Nat) (e e' : Int) :
    exactAdd rm (.num x m d e) (.num y m' d' e') =
      let lo := if e < e' then e else e'
      let s := alignedNum x m d' (e - lo).toNat + alignedNum y m' d (e' - lo).toNat
      if s = 0 then (.num (if x = y then x else rm == .rdn) 0 1 0, 0) else (.num (s < 0) s.natAbs (d * d') lo, 0) := rfl

theorem cmpV_num (x y : Bool) (m d m' d' : Nat) (e e' : Int) :
    cmpV (.num x m d e) (.num y m' d' e') =
      let lo := if e < e' then e else e'
      let p := alignedNum x m d' (e - lo).toNat
      let q := alignedNum y m' d (e' - lo).toNat
      some (if p < q then .lt else if p = q then .eq else .gt) := rfl

/-- Two numbers over their common denominator and power of two. -/
theorem aligned {m d m' d' : Nat} (x y : Bool) (e e' : Int) (hd : 0 < d) (hd' : 0 < d') :
    let lo := if e < e' then e else e'
    ∃ unit : Rat, 0 < unit ∧ unit = twoPow lo / ((d * d' : Nat) : Rat) ∧
      signQ x * ((m : Rat) / (d : Rat) * twoPow e) = alignedNum x m d' (e - lo).toNat * unit ∧
      signQ y * ((m' : Rat) / (d' : Rat) * twoPow e') = alignedNum y m' d (e' - lo).toNat * unit := by
  intro lo
  have hlo : lo ≤ e ∧ lo ≤ e' := by simp only [lo]; split <;> omega
  have hdd : (0 : Rat) < ((d * d' : Nat) : Rat) := Rat.natCast_pos.mpr (Nat.mul_pos hd hd')
  have hd0 := natCast_ne_zero hd
  have hd0' := natCast_ne_zero hd'
  refine ⟨_, ?_, rfl, ?_, ?_⟩
  · exact (Rat.lt_div_iff hdd).mpr (by rw [Rat.zero_mul]; exact twoPow_pos lo)
  · rw [alignedNum_eq, twoPow_eq_mul hlo.1, Rat.natCast_mul]; grind
  · rw [alignedNum_eq, twoPow_eq_mul hlo.2, Rat.natCast_mul]; grind

theorem FVal.rat_ofSigned (s : Int) (d : Nat) (e : Int) :
    (FVal.num (s < 0) s.natAbs d e).rat = some ((s : Rat) * (twoPow e / (d : Rat))) := by
  have habs : signQ (s < 0) * (s.natAbs : Rat) = s := by
    rw [← Rat.intCast_natCast]
    rcases Int.lt_or_le s 0 with h | h
    · rw [decide_eq_true h, signQ_true, Int.ofNat_natAbs_of_nonpos (Int.le_of_lt h), Rat.intCast_neg]; grind
    · rw [decide_eq_false (Int.not_lt.mpr h), signQ_false, Int.natAbs_of_nonneg h, Rat.one_mul]
  rw [FVal.rat_num, ← habs, Rat.div_def, Rat.div_def]
  congr 1; grind

theorem rat_exactAdd (mode : RMode) {a b : FVal} {x y : Rat} (ha : a.rat = some x) (hb : b.rat = some y) (pa : a.proper)
    (pb : b.proper) : (exactAdd mode a b).1.rat = some (x + y) := by
  obtain ⟨n, m, d, e, rfl, rfl⟩ := FVal.rat_eq_some ha
  obtain ⟨n', m', d', e', rfl, rfl⟩ := FVal.rat_eq_some hb
  obtain ⟨unit, -, hunit, hx, hy⟩ := aligned (m := m) (m' := m') n n' e e' pa pb
  rw [exactAdd_num, hx, hy, ← Rat.add_mul, ← Rat.intCast_add, hunit]
  generalize (if e < e' then e else e') = lo
  dsimp only
  split
  · next h => rw [h, FVal.rat_num, Rat.intCast_zero, Rat.zero_mul, zero_div_mul, Rat.mul_zero]
  · exact FVal.rat_ofSigned _ _ _

theorem rat_exactMul {a b : FVal} {x y : Rat} (ha : a.rat = some x) (hb : b.rat = some y) :
    (exactMul a b).1.rat = some (x * y) := by
  obtain ⟨n, m, d, e, rfl, rfl⟩ := FVal.rat_eq_some ha
  obtain ⟨n', m', d', e', rfl, rfl⟩ := FVal.rat_eq_some hb
  rw [exactMul, FVal.rat_num, signQ_xor, twoPow_add, Rat.natCast_mul, Rat.natCast_mul, Rat.div_def, Rat.div_def, Rat.div_def,
    Rat.inv_mul_rev]
  congr 1; grind

theorem proper_exactMul {a b : FVal} (ha : a.proper) (hb : b.proper) : (exactMul a b).1.proper := by
  unfold exactMul
  split
  · exact Nat.mul_pos ha hb
  · trivial
  · split <;> trivial
  · split <;> trivial
  · trivial

theorem isNan_eq_false_of_rat {v : FVal} {x : Rat} (h : v.rat = some x) : v.isNan = false := by
  obtain ⟨n, m, d, e, rfl, -⟩ := FVal.rat_eq_some h; rfl

theorem isSig_eq_false_of_rat {v : FVal} {x : Rat} (h : v.rat = some x) : v.isSig = false := by
  obtain ⟨n, m, d, e, rfl, -⟩ := FVal.rat_eq_some h; rfl

theorem rat_exactFma (mode : RMode) (np nd : Bool) {a b c : FVal} {x y z : Rat} (ha : a.rat = some x) (hb : b.rat = some y)
    (hc : c.rat = some z) (pa : a.proper) (pb : b.proper) (pc : c.proper) :
    (exactFma mode np nd a b c).1.rat = some (signQ np * (x * y) + signQ nd * z) := by
  have hmul := rat_exactMul ha hb
  have hfma : exactFma mode np nd a b c = exactAdd mode ((exactMul a b).1.flip np) (c.flip nd) := by
    simp only [exactFma, isSig_eq_false_of_rat ha, isSig_eq_false_of_rat hb, isSig_eq_false_of_rat hc, isNan_eq_false_of_rat hmul,
      Bool.or_false, Bool.false_eq_true, if_false]
  rw [hfma]
  exact rat_exactAdd mode (FVal.rat_flip np hmul) (FVal.rat_flip nd hc) (FVal.proper_flip np (proper_exactMul pa pb))
    (FVal.proper_flip nd pc)

theorem rat_exactDiv {a b : FVal} {x y : Rat} (ha : a.rat = some x) (hb : b.rat = some y) (pa : a.proper) (pb : b.proper)
    (hy : y ≠ 0) : (exactDiv a b).1.rat = some (x / y) := by
  obtain ⟨n, m, d, e, rfl, rfl⟩ := FVal.rat_eq_some ha
  obtain ⟨n', m', d', e', rfl, rfl⟩ := FVal.rat_eq_some hb
  have hm' : m' ≠ 0 := by
    rintro rfl
    exact hy (by rw [zero_div_mul, Rat.mul_zero])
  have hm0 := natCast_ne_zero (Nat.pos_of_ne_zero hm')
  have hd0 := natCast_ne_zero pa
  have hd0' := natCast_ne_zero pb
  have ht := twoPow_ne_zero e'
  have hs := signQ_mul_self n'
  have he : twoPow e = twoPow (e - e') * twoPow e' := by rw [← twoPow_add, Int.sub_add_cancel]
  rw [exactDiv, if_neg hm', FVal.rat_num, signQ_xor, Rat.natCast_mul, Rat.natCast_mul, he]
  congr 1; grind

theorem cmpV_eq {a b : FVal} {x y : Rat} (ha : a.rat = some x) (hb : b.rat = some y) (pa : a.proper) (pb : b.proper) :
    cmpV a b = some (if x < y then .lt else if x = y then .eq else .gt) := by
  obtain ⟨n, m, d, e, rfl, rfl⟩ := FVal.rat_eq_some ha
  obtain ⟨n', m', d', e', rfl, rfl⟩ := FVal.rat_eq_some hb
  obtain ⟨unit, hu, -, hx, hy⟩ := aligned (m := m) (m' := m') n n' e e' pa pb
  have hcancel : ∀ p q : Int, (p : Rat) * unit = q * unit ↔ p = q := fun p q =>
    ⟨fun h => Rat.intCast_inj.mp (by grind), fun h => h ▸ rfl⟩
  rw [cmpV_num, hx, hy]
  simp only [Rat.mul_lt_mul_right hu, Rat.intCast_lt_intCast, hcancel]

theorem exactOperationsAreExact : ExactOperationsAreExact := by
  intro mode a b d x y z ha hb hd pa pb pd
  refine ⟨rat_exactAdd mode ha hb pa pb, rat_exactMul ha hb, fun np nd => rat_exactFma mode np nd ha hb hd pa pb pd,
    rat_exactDiv ha hb pa pb, ?_⟩
  rw [cmpV_eq ha hb pa pb]
  by_cases hlt : x < y
  · rw [if_pos hlt]
    exact ⟨iff_of_true rfl hlt, iff_of_false nofun (Rat.ne_of_lt hlt)⟩
  · by_cases heq : x = y
    · rw [if_neg hlt, if_pos heq]
      exact ⟨iff_of_false nofun hlt, iff_of_true rfl heq⟩
    · rw [if_neg hlt, if_neg heq]
      exact ⟨iff_of_false nofun hlt, iff_of_false nofun heq⟩

/-! ### Encodings of magnitudes (R60) -/

/-- A sequence of rationals that rises at every step. -/
def Rising (g : Nat → Rat) : Prop := ∀ i j : Nat, i < j → g i < g j

section
variable {g : Nat → Rat}

theorem rising_of_succ (h : ∀ n, g n < g (n + 1)) : Rising g 
    := fun i j hij => by
  induction j with
  | zero => exact absurd hij (Nat.not_lt_zero i)
  | succ j ih =>
    rcases Nat.lt_succ_iff_lt_or_eq.mp hij with hlt | rfl
    · have := ih hlt
      have := h j
      grind
    · exact h i

theorem Rising.le (hg : Rising g) {i j : Nat} (hij : i ≤ j) : g i ≤ g j := by
  rcases Nat.lt_or_eq_of_le hij with hlt | rfl
  · exact Rat.le_of_lt (hg _ _ hlt)
  · exact Rat.le_refl

theorem Rising.lt_of_lt (hg : Rising g) {i j : Nat} (h : g i < g j) : i < j :=
  Nat.not_le.mp fun hji => Rat.not_le.mpr h (hg.le hji)

theorem Rising.le_of_le (hg : Rising g) {i j : Nat} (h : g i ≤ g j) : i ≤ j :=
  Nat.not_lt.mp fun hji => Rat.not_lt.mpr h (hg _ _ hji)

theorem Rising.injective (hg : Rising g) {i j : Nat} (h : g i = g j) : i = j :=
  Nat.le_antisymm (hg.le_of_le (h ▸ Rat.le_refl)) (hg.le_of_le (h ▸ Rat.le_refl))

end

/-- The binade of a magnitude's encoding, counted from that of the subnormals and the least normal magnitudes. -/
def FFmt.binade (f : FFmt) (raw : Nat) : Nat := raw / 2 ^ f.fbits - 1

/-- The significand of a magnitude's encoding, with the leading bit that the encoding of a normal number leaves out. -/
def FFmt.significand (f : FFmt) (raw : Nat) : Nat := raw - f.binade raw * 2 ^ f.fbits

/-- The magnitude that an encoding without its sign bit stands for, as if no exponent were special. -/
def FFmt.magnitude (f : FFmt) (raw : Nat) : Rat := (f.significand raw : Rat) * twoPow (f.lsb + f.binade raw)

/-- The bits of an encoding below its sign. -/
def FFmt.unsigned (f : FFmt) (n : Nat) : Nat := n % 2 ^ (f.ebits + f.fbits)

/-- What the statements ask of a format: its all-ones exponent is IEEE 754's, and it has both fields. -/
structure FFmt.IsIeee (f : FFmt) : Prop where
  specials : f.specials = .ieee
  ebits : 0 < f.ebits
  fbits : 0 < f.fbits

theorem FFmt.isIeee_of_mem {f : FFmt} (h : f ∈ [FFmt.f64, FFmt.f32, FFmt.f16, FFmt.bf16, FFmt.e5m2]) : f.IsIeee := by
  simp only [List.mem_cons, List.not_mem_nil, or_false] at h
  obtain rfl | rfl | rfl | rfl | rfl := h <;> exact ⟨rfl, by decide, by decide⟩

section
variable (f : FFmt)

theorem FFmt.binade_mul_add_significand (raw : Nat) : raw = f.binade raw * 2 ^ f.fbits + f.significand raw := by
  have : f.binade raw * 2 ^ f.fbits ≤ raw :=
    Nat.le_trans (Nat.mul_le_mul_right _ (Nat.sub_le _ _)) (Nat.div_mul_le_self _ _)
  rw [FFmt.significand]; omega

/-- A significand fills its field, save in the lowest binade, and keeps within it. -/
theorem FFmt.significand_bounds (raw : Nat) :
    (f.binade raw = 0 ∨ 2 ^ f.fbits ≤ f.significand raw) ∧ f.significand raw < 2 ^ (f.fbits + 1) := by
  have hdiv := Nat.div_add_mod' raw (2 ^ f.fbits)
  have hmod := Nat.mod_lt raw (Nat.two_pow_pos f.fbits)
  have hraw := f.binade_mul_add_significand raw
  rw [FFmt.binade] at *
  generalize raw / 2 ^ f.fbits = t at *
  rw [Nat.pow_succ]
  cases t with
  | zero => omega
  | succ t => rw [Nat.succ_mul] at hdiv; simp only [Nat.add_sub_cancel] at *; omega

/-- An encoding by its binade and significand; a significand one past its field begins the next binade. -/
theorem FFmt.magnitude_mul_add {t q : Nat} (hlow : t = 0 ∨ 2 ^ f.fbits ≤ q) (hq : q ≤ 2 ^ (f.fbits + 1)) :
    f.magnitude (t * 2 ^ f.fbits + q) = (q : Rat) * twoPow (f.lsb + t) := by
  have hp : 0 < 2 ^ f.fbits := Nat.two_pow_pos _
  have hbin : f.binade (t * 2 ^ f.fbits + q) = t + q / 2 ^ f.fbits - 1 := by
    rw [FFmt.binade, Nat.add_comm, Nat.add_mul_div_right _ _ hp, Nat.add_comm]
  rw [FFmt.magnitude, FFmt.significand, hbin]
  rcases Nat.lt_or_eq_of_le hq with hlt | rfl
  · have hone : q / 2 ^ f.fbits < 2 := (Nat.div_lt_iff_lt_mul hp).mpr (by rw [Nat.pow_succ] at hlt; omega)
    have ht : t + q / 2 ^ f.fbits - 1 = t := by
      rcases hlow with rfl | h
      · omega
      · have := Nat.div_pos h hp; omega
    rw [ht, Nat.add_sub_cancel_left]
  · have hnext : t * 2 ^ f.fbits + 2 ^ f.fbits * 2 - (t + 1) * 2 ^ f.fbits = 2 ^ f.fbits := by rw [Nat.succ_mul]; omega
    rw [Nat.pow_succ, Nat.mul_div_cancel_left _ hp, show t + 2 - 1 = t + 1 from rfl, hnext, Int.natCast_succ, ← Int.add_assoc,
      twoPow_add _ 1, twoPow_one, Rat.natCast_mul, natCast_two]
    grind

theorem FFmt.magnitude_rising : Rising f.magnitude := rising_of_succ fun raw => by
  obtain ⟨hlow, hq⟩ := f.significand_bounds raw
  have hsucc : f.magnitude (f.binade raw * 2 ^ f.fbits + (f.significand raw + 1)) =
      ((f.significand raw + 1 : Nat) : Rat) * twoPow (f.lsb + f.binade raw) := f.magnitude_mul_add (by omega) (by omega)
  rw [← Nat.add_assoc, ← f.binade_mul_add_significand] at hsucc
  rw [hsucc]
  exact (Rat.mul_lt_mul_right (twoPow_pos _)).mpr (Rat.natCast_lt_natCast.mpr (Nat.lt_succ_self _))

theorem FFmt.magnitude_zero : f.magnitude 0 = 0 := by
  rw [FFmt.magnitude, FFmt.significand, Nat.zero_sub]; exact Rat.zero_mul _

theorem FFmt.magnitude_nonneg (raw : Nat) : 0 ≤ f.magnitude raw :=
  Rat.mul_nonneg Rat.natCast_nonneg (Rat.le_of_lt (twoPow_pos _))

/-- The bits of an encoding below its sign are its exponent field and its fraction. -/
theorem FFmt.unsigned_eq (n : Nat) : f.unsigned n = bits n f.fbits f.ebits * 2 ^ f.fbits + bits n 0 f.fbits := by
  rw [FFmt.unsigned, bits, bits, Nat.pow_zero, Nat.div_one, Nat.add_comm f.ebits, Nat.pow_add, Nat.mod_mul, Nat.add_comm,
    Nat.mul_comm]

theorem FFmt.bits_eq_unsigned_div (n : Nat) : bits n f.fbits f.ebits = f.unsigned n / 2 ^ f.fbits := by
  have hfraction : bits n 0 f.fbits < 2 ^ f.fbits := Nat.mod_lt _ (Nat.two_pow_pos _)
  rw [f.unsigned_eq, Nat.add_comm, Nat.add_mul_div_right _ _ (Nat.two_pow_pos _), Nat.div_eq_of_lt hfraction, Nat.zero_add]

theorem FFmt.two_pow_width : 2 ^ f.width = 2 * 2 ^ (f.ebits + f.fbits) := by
  rw [FFmt.width, Nat.add_assoc, Nat.add_comm, Nat.pow_succ, Nat.mul_comm]

/-- A sign bit and a magnitude are what they were put together from. -/
theorem FFmt.fields_signed {raw : Nat} (neg : Bool) (h : raw < 2 ^ (f.ebits + f.fbits)) :
    bit (f.signed neg raw) (f.ebits + f.fbits) = neg ∧ f.unsigned (f.signed neg raw) = raw := by
  cases neg
  · exact ⟨by rw [bit, FFmt.signed, if_neg Bool.false_ne_true, Nat.div_eq_of_lt h]; rfl, Nat.mod_eq_of_lt h⟩
  · refine ⟨?_, (Nat.add_mod_left _ _).trans (Nat.mod_eq_of_lt h)⟩
    rw [bit, FFmt.signed, if_pos rfl, Nat.add_div_left _ (Nat.two_pow_pos _), Nat.div_eq_of_lt h]; rfl

theorem FFmt.signed_fields {n : Nat} (h : n < 2 ^ f.width) :
    f.signed (bit n (f.ebits + f.fbits)) (f.unsigned n) = n := by
  rw [f.two_pow_width] at h
  have hdiv := Nat.div_add_mod n (2 ^ (f.ebits + f.fbits))
  have hlt : n / 2 ^ (f.ebits + f.fbits) < 2 := (Nat.div_lt_iff_lt_mul (Nat.two_pow_pos _)).mpr h
  rw [FFmt.signed, FFmt.unsigned, bit]
  obtain h0 | h1 := Nat.le_one_iff_eq_zero_or_eq_one.mp (Nat.lt_succ_iff.mp hlt)
  · rw [h0, Nat.mul_zero, Nat.zero_add] at hdiv
    rw [h0]; exact hdiv
  · rw [h1, Nat.mul_one] at hdiv
    rw [h1]; exact hdiv

theorem FFmt.infRaw_lt : f.infRaw < 2 ^ (f.ebits + f.fbits) := by
  rw [Nat.pow_add]
  exact Nat.mul_lt_mul_of_pos_right (Nat.sub_lt (Nat.two_pow_pos _) Nat.one_pos) (Nat.two_pow_pos _)

/-- The exponent field is all ones from the encoding of infinity on. -/
theorem FFmt.top_iff (n : Nat) : bits n f.fbits f.ebits + 1 = 2 ^ f.ebits ↔ f.infRaw ≤ f.unsigned n := by
  have hlt : bits n f.fbits f.ebits < 2 ^ f.ebits := Nat.mod_lt _ (Nat.two_pow_pos _)
  rw [FFmt.infRaw, ← Nat.le_div_iff_mul_le (Nat.two_pow_pos _), ← f.bits_eq_unsigned_div]
  omega

/-- The value of a finite encoding. -/
theorem FFmt.value_finite {n : Nat} (h : f.unsigned n < f.infRaw) :
    f.value n = .num (bit n (f.ebits + f.fbits)) (f.significand (f.unsigned n)) 1 (f.lsb + f.binade (f.unsigned n)) := by
  have htop : (bits n f.fbits f.ebits + 1 == 2 ^ f.ebits) = false :=
    beq_eq_false_iff_ne.mpr fun he => Nat.not_le.mpr h ((f.top_iff n).mp he)
  have hbin : f.binade (f.unsigned n) = bits n f.fbits f.ebits - 1 := by rw [FFmt.binade, ← f.bits_eq_unsigned_div]
  have hraw := f.unsigned_eq n
  simp only [FFmt.value, htop, Bool.false_and, Bool.false_eq_true, if_false, FFmt.significand, hbin]
  cases hex : bits n f.fbits f.ebits with
  | zero =>
    rw [hex, Nat.zero_mul, Nat.zero_add] at hraw
    rw [if_pos rfl, hraw, Nat.zero_sub, Nat.zero_mul, Nat.sub_zero]
    congr 1; omega
  | succ t =>
    rw [if_neg (Nat.succ_ne_zero t), hraw, hex, Nat.add_sub_cancel, Nat.succ_mul]
    congr 1
    · generalize t * 2 ^ f.fbits = a
      generalize 2 ^ f.fbits = p
      omega
    · omega

theorem FFmt.rat_value {n : Nat} (h : f.unsigned n < f.infRaw) :
    (f.value n).rat = some (signQ (bit n (f.ebits + f.fbits)) * f.magnitude (f.unsigned n)) := by
  rw [f.value_finite h, FVal.rat_num, div_one_natCast]; rfl

theorem FFmt.rat_value_signed {raw : Nat} (neg : Bool) (h : raw < f.infRaw) :
    (f.value (f.signed neg raw)).rat = some (signQ neg * f.magnitude raw) := by
  obtain ⟨hbit, hraw⟩ := f.fields_signed neg (Nat.lt_trans h f.infRaw_lt)
  rw [f.rat_value (by rwa [hraw]), hbit, hraw]

end

section
variable {f : FFmt} (hf : f.IsIeee)
include hf

theorem FFmt.infRaw_pos : 0 < f.infRaw :=
  Nat.mul_pos (Nat.sub_pos_of_lt (Nat.one_lt_two_pow (Nat.ne_of_gt hf.ebits))) (Nat.two_pow_pos _)

theorem FFmt.signed_mod_two (neg : Bool) (raw : Nat) : f.signed neg raw % 2 = raw % 2 := by
  have h2 : 2 ∣ 2 ^ (f.ebits + f.fbits) := Nat.dvd_trans (Nat.dvd_refl 2) (Nat.pow_dvd_pow 2 (Nat.le_add_left_of_le hf.fbits))
  unfold FFmt.signed
  split <;> omega

theorem FFmt.maxRaw_eq : f.maxRaw = f.infRaw - 1 := by rw [FFmt.maxRaw, hf.specials]; rfl

/-- From the encoding of infinity on, no encoding is a number. -/
theorem FFmt.value_special {n : Nat} (h : f.infRaw ≤ f.unsigned n) :
    f.value n = if bits n 0 f.fbits = 0 then .inf (bit n (f.ebits + f.fbits))
      else .nan (f.quiet && decide (bits n 0 f.fbits < 2 ^ (f.fbits - 1))) := by
  have htop : (bits n f.fbits f.ebits + 1 == 2 ^ f.ebits) = true := beq_iff_eq.mpr ((f.top_iff n).mpr h)
  rw [FFmt.value, htop, hf.specials]; rfl

theorem FFmt.unsigned_lt_of_rat {n : Nat} {x : Rat} (h : (f.value n).rat = some x) : f.unsigned n < f.infRaw := by
  refine Nat.not_le.mp fun hge => ?_
  rw [FFmt.value_special hf hge] at h
  split at h <;> cases h

/-- A finite value has the magnitude of a finite encoding. -/
theorem FFmt.abs_eq_magnitude_of_rat {n : Nat} {z : Rat} (h : (f.value n).rat = some z) : z.abs = f.magnitude (f.unsigned n) := by
  rw [f.rat_value (FFmt.unsigned_lt_of_rat hf h)] at h
  rw [← Option.some.inj h, abs_signQ_mul, Rat.abs_of_nonneg (f.magnitude_nonneg _)]

end

/-! ### Rounding on a grid of magnitudes (R65) -/

theorem scaleQ_pos (m : Nat) (k : Int) {d : Nat} (hd : 0 < d) : 0 < (scaleQ m d k).2 := by
  unfold scaleQ; split
  · exact hd
  · exact Nat.mul_pos hd (Nat.two_pow_pos _)

theorem scaleQ_mul (m d : Nat) (k : Int) :
    ((scaleQ m d k).1 : Rat) * (d : Rat) = (m : Rat) * ((scaleQ m d k).2 : Rat) * twoPow k := by
  unfold scaleQ
  split
  · next h =>
    have hk : twoPow k = ((2 ^ k.toNat : Nat) : Rat) := by rw [← twoPow_natCast, Int.toNat_of_nonneg h]
    rw [hk, Rat.natCast_mul]; grind
  · next h =>
    have hk : ((2 ^ (-k).toNat : Nat) : Rat) * twoPow k = 1 := by
      rw [← twoPow_natCast, Int.toNat_of_nonneg (by omega), ← twoPow_add, Int.add_left_neg, twoPow_zero]
    rw [Rat.natCast_mul]; grind

/-- A positive integer lies in the binade of its logarithm. -/
theorem log2_bounds {m : Nat} (hm : 0 < m) : twoPow m.log2 ≤ (m : Rat) ∧ (m : Rat) < twoPow (m.log2 + 1) := by
  rw [← Int.natCast_succ, twoPow_natCast, twoPow_natCast]
  exact ⟨Rat.natCast_le_natCast.mpr (Nat.log2_self_le (Nat.ne_of_gt hm)), Rat.natCast_lt_natCast.mpr Nat.lt_log2_self⟩

theorem log2Q_bounds {m d : Nat} (hm : 0 < m) (hd : 0 < d) :
    twoPow (log2Q m d) * (d : Rat) ≤ m ∧ (m : Rat) < twoPow (log2Q m d + 1) * (d : Rat) := by
  obtain ⟨hm1, hm2⟩ := log2_bounds hm
  obtain ⟨hd1, hd2⟩ := log2_bounds hd
  generalize hl : (m.log2 : Int) - d.log2 = l
  have hup : (m : Rat) < twoPow (l + 1) * (d : Rat) := by
    have hexp : twoPow (m.log2 + 1) = twoPow (l + 1) * twoPow d.log2 := by rw [← twoPow_add]; congr 1; omega
    have := Rat.mul_le_mul_of_nonneg_left hd1 (Rat.le_of_lt (twoPow_pos (l + 1)))
    grind
  have hlow : twoPow (l - 1) * (d : Rat) ≤ m := by
    have hexp : twoPow m.log2 = twoPow (l - 1) * twoPow (d.log2 + 1) := by rw [← twoPow_add]; congr 1; omega
    have := Rat.mul_le_mul_of_nonneg_left (Rat.le_of_lt hd2) (Rat.le_of_lt (twoPow_pos (l - 1)))
    grind
  have hcmp : (scaleQ m d (-l)).1 < (scaleQ m d (-l)).2 ↔ (m : Rat) < twoPow l * (d : Rat) := by
    have hk : (0 : Rat) < (scaleQ m d (-l)).2 := Rat.natCast_pos.mpr (scaleQ_pos m (-l) hd)
    have hdt : (0 : Rat) < twoPow l * (d : Rat) := Rat.mul_pos (twoPow_pos l) (Rat.natCast_pos.mpr hd)
    have hone : twoPow (-l) * twoPow l = 1 := by rw [← twoPow_add, Int.add_left_neg, twoPow_zero]
    have hscale := scaleQ_mul m d (-l)
    have hprod : ((scaleQ m d (-l)).1 : Rat) * (twoPow l * (d : Rat)) = m * ((scaleQ m d (-l)).2 : Rat) := by grind
    rw [← Rat.natCast_lt_natCast, ← Rat.mul_lt_mul_right hdt, hprod, Rat.mul_comm ((scaleQ m d (-l)).2 : Rat),
      Rat.mul_lt_mul_right hk]
  have hlog : log2Q m d = if (scaleQ m d (-l)).1 < (scaleQ m d (-l)).2 then l - 1 else l := by subst hl; rfl
  rw [hlog]
  split
  · next h => exact ⟨hlow, by rw [Int.sub_add_cancel]; exact hcmp.mp h⟩
  · next h => exact ⟨Rat.not_lt.mp fun hlt => h (hcmp.mpr hlt), hup⟩

/-- A number lies in the binade that rounding takes for it. -/
theorem number_bounds {m d : Nat} (e : Int) (hm : 0 < m) (hd : 0 < d) :
    twoPow (log2Q m d + e) ≤ (m : Rat) / (d : Rat) * twoPow e ∧ (m : Rat) / (d : Rat) * twoPow e < twoPow (log2Q m d + e + 1) := by
  obtain ⟨hlow, hup⟩ := log2Q_bounds hm hd
  have hd0 : (0 : Rat) < d := Rat.natCast_pos.mpr hd
  rw [Int.add_right_comm, twoPow_add _ e, twoPow_add _ e]
  refine ⟨Rat.mul_le_mul_of_nonneg_right ?_ (Rat.le_of_lt (twoPow_pos e)), (Rat.mul_lt_mul_right (twoPow_pos e)).mpr ?_⟩
  · exact Rat.not_lt.mp fun h => Rat.not_lt.mpr hlow ((Rat.div_lt_iff hd0).mp h)
  · exact (Rat.div_lt_iff hd0).mpr hup

/-- Whether `roundInt` steps up from the integer quotient. -/
def roundsUp (rm : RMode) (neg : Bool) (num den : Nat) : Bool :=
  match rm with
  | .rne => den < 2 * (num % den) || (2 * (num % den) == den && num / den % 2 == 1)
  | .rna => den ≤ 2 * (num % den)
  | .rtz => false
  | .rdn => neg && num % den != 0
  | .rup => !neg && num % den != 0

theorem roundInt_eq (rm : RMode) (neg : Bool) (num den : Nat) :
    roundInt rm neg num den = (num / den + (roundsUp rm neg num den).toNat, num % den != 0) := by
  have h : roundInt rm neg num den =
      (if roundsUp rm neg num den then num / den + 1 else num / den, num % den != 0) := by cases rm <;> rfl
  rw [h]
  cases roundsUp rm neg num den <;> rfl

/-- No point of the grid `g` is nearer to `a` than point `r`. -/
def Nearest (g : Nat → Rat) (a : Rat) (r : Nat) : Prop := ∀ k, (g r - a).abs ≤ (g k - a).abs

/-- Point `r` is the last of the grid that is not above `a`. -/
def Below (g : Nat → Rat) (a : Rat) (r : Nat) : Prop := g r ≤ a ∧ ∀ k, g k ≤ a → k ≤ r

/-- Point `r` is the first of the grid that is not below `a`. -/
def Above (g : Nat → Rat) (a : Rat) (r : Nat) : Prop := a ≤ g r ∧ ∀ k, a ≤ g k → r ≤ k

/-- Point `r` is what the magnitude `a` of a number of sign `neg` rounds to on the grid. -/
def RoundsMagnitude (rm : RMode) (neg : Bool) (g : Nat → Rat) (a : Rat) (r : Nat) : Prop :=
  match rm with
  | .rne => Nearest g a r ∧ ∀ k, k ≠ r → (g k - a).abs = (g r - a).abs → r % 2 = 0
  | .rna => Nearest g a r ∧ ∀ k, k ≠ r → (g k - a).abs = (g r - a).abs → k ≤ r
  | .rtz => Below g a r
  | .rdn => if neg then Above g a r else Below g a r
  | .rup => if neg then Below g a r else Above g a r

/-- A point of the grid rounds to itself. -/
theorem roundsMagnitude_self (rm : RMode) (neg : Bool) {g : Nat → Rat} (hg : Rising g) (r : Nat) :
    RoundsMagnitude rm neg g (g r) r := by
  have hzero : (g r - g r).abs = 0 := by rw [Rat.sub_self, Rat.abs_zero]
  have hnear : Nearest g (g r) r := fun k => by rw [hzero]; exact Rat.abs_nonneg
  have htie : ∀ k, k ≠ r → (g k - g r).abs ≠ (g r - g r).abs := fun k hk h => by
    rw [hzero, Rat.abs_eq_zero_iff] at h
    exact hk (hg.injective (by grind))
  have hbelow : Below g (g r) r := ⟨Rat.le_refl, fun k => hg.le_of_le⟩
  have habove : Above g (g r) r := ⟨Rat.le_refl, fun k => hg.le_of_le⟩
  cases rm with
  | rne => exact ⟨hnear, fun k hk h => absurd h (htie k hk)⟩
  | rna => exact ⟨hnear, fun k hk h => absurd h (htie k hk)⟩
  | rtz => exact hbelow
  | rdn => cases neg <;> assumption
  | rup => cases neg <;> assumption

/-- `a` lies `rem / den` of the way from point `n` of a rising grid to the next. -/
structure FloorAt (g : Nat → Rat) (a : Rat) (n rem den : Nat) : Prop where
  mono : Rising g
  rem_lt : rem < den
  share : (den : Rat) * (a - g n) = (rem : Rat) * (g (n + 1) - g n)

namespace FloorAt
variable {g : Nat → Rat} {a : Rat} {n rem den : Nat} (h : FloorAt g a n rem den)
include h

theorem step_pos : 0 < g (n + 1) - g n := (Rat.lt_iff_sub_pos _ _).mp (h.mono _ _ n.lt_succ_self)

theorem den_pos : (0 : Rat) < den := Rat.natCast_pos.mpr (Nat.lt_of_le_of_lt (Nat.zero_le _) h.rem_lt)

theorem den_mul_rise (p : Nat) : (den : Rat) * ((p : Rat) * (a - g n)) = ((p * rem : Nat) : Rat) * (g (n + 1) - g n) := by
  have hshare := h.share
  rw [Rat.natCast_mul]; grind

omit h in
theorem den_mul_step (q : Nat) : (den : Rat) * ((q : Rat) * (g (n + 1) - g n)) = ((q * den : Nat) : Rat) * (g (n + 1) - g n) := by
  rw [Rat.natCast_mul]; grind

/-- Multiples of the step and of the rise above the lower point compare as the denominator and the remainder do. -/
theorem step_le_iff (p q : Nat) : (q : Rat) * (g (n + 1) - g n) ≤ (p : Rat) * (a - g n) ↔ q * den ≤ p * rem := by
  rw [← Rat.not_lt, ← Rat.mul_lt_mul_left h.den_pos, h.den_mul_rise, den_mul_step, Rat.mul_lt_mul_right h.step_pos, Rat.not_lt,
    Rat.natCast_le_natCast]

theorem rise_le_iff (p q : Nat) : (p : Rat) * (a - g n) ≤ (q : Rat) * (g (n + 1) - g n) ↔ p * rem ≤ q * den := by
  rw [← Rat.not_lt, ← Rat.mul_lt_mul_left h.den_pos, h.den_mul_rise, den_mul_step, Rat.mul_lt_mul_right h.step_pos, Rat.not_lt,
    Rat.natCast_le_natCast]

theorem le : g n ≤ a := by
  have := (h.step_le_iff 1 0).mpr (by omega)
  rw [natCast_one, natCast_zero] at this
  grind

theorem lt : a < g (n + 1) := by
  have := mt (h.step_le_iff 1 1).mp (by have := h.rem_lt; omega)
  rw [natCast_one] at this
  grind

theorem eq_iff : a = g n ↔ rem = 0 := by
  have hle := h.le
  have hiff := h.rise_le_iff 1 0
  rw [natCast_one, natCast_zero, Nat.zero_mul, Nat.one_mul, Nat.le_zero] at hiff
  rw [← hiff]
  constructor <;> intro _ <;> grind

/-- The upper point is as near as the lower from a remainder of one half on. -/
theorem upper_nearer_iff : g (n + 1) - a ≤ a - g n ↔ den ≤ 2 * rem := by
  rw [← Nat.one_mul den, ← h.step_le_iff 2 1, natCast_one, natCast_two]
  constructor <;> intro _ <;> grind

/-- The lower point is as near as the upper up to a remainder of one half. -/
theorem lower_nearer_iff : a - g n ≤ g (n + 1) - a ↔ 2 * rem ≤ den := by
  rw [← Nat.one_mul den, ← h.rise_le_iff 2 1, natCast_one, natCast_two]
  constructor <;> intro _ <;> grind

theorem tie_iff : a - g n = g (n + 1) - a ↔ 2 * rem = den := by
  rw [Rat.le_antisymm_iff, h.lower_nearer_iff, h.upper_nearer_iff]; omega

theorem dist_of_le {k : Nat} (hk : k ≤ n) : (g k - a).abs = a - g k := by
  have := h.mono.le hk
  have := h.le
  rw [Rat.abs_of_nonpos (by grind), Rat.neg_sub]

theorem dist_of_lt {k : Nat} (hk : n < k) : (g k - a).abs = g k - a := by
  have := h.mono.le (Nat.succ_le_of_lt hk)
  have := h.lt
  exact Rat.abs_of_nonneg (by grind)

theorem below : Below g a n :=
  ⟨h.le, fun _ hk => Nat.lt_succ_iff.mp (h.mono.lt_of_lt (by have := h.lt; grind))⟩

theorem above_succ (hr : rem ≠ 0) : Above g a (n + 1) :=
  have hlt : g n < a := Rat.lt_of_le_of_ne h.le fun he => hr (h.eq_iff.mp he.symm)
  ⟨Rat.le_of_lt h.lt, fun _ hk => h.mono.lt_of_lt (by grind)⟩

theorem nearest (hr : 2 * rem ≤ den) : Nearest g a n := fun k => by
  have hnear := h.lower_nearer_iff.mpr hr
  rw [h.dist_of_le (Nat.le_refl n)]
  rcases Nat.lt_or_ge n k with hk | hk
  · have := h.mono.le (Nat.succ_le_of_lt hk)
    rw [h.dist_of_lt hk]; grind
  · have := h.mono.le hk
    rw [h.dist_of_le hk]; grind

theorem nearest_succ (hr : den ≤ 2 * rem) : Nearest g a (n + 1) := fun k => by
  have hnear := h.upper_nearer_iff.mpr hr
  rw [h.dist_of_lt n.lt_succ_self]
  rcases Nat.lt_or_ge n k with hk | hk
  · have := h.mono.le (Nat.succ_le_of_lt hk)
    rw [h.dist_of_lt hk]; grind
  · have := h.mono.le hk
    rw [h.dist_of_le hk]; grind

/-- Two points as near as any, one on either side, are the neighbours of `a`, which lies midway. -/
theorem tie_across {i j : Nat} (hi : i ≤ n) (hj : n < j) (hdist : a - g i = g j - a) (hlow : a - g i ≤ a - g n)
    (hup : g j - a ≤ g (n + 1) - a) : 2 * rem = den ∧ j ≤ n + 1 := by
  have := h.mono.le hi
  have := h.mono.le (Nat.succ_le_of_lt hj)
  exact ⟨h.tie_iff.mp (by grind), h.mono.le_of_le (by grind)⟩

/-- Another point as near as the nearest is a tie. -/
theorem tie {r k : Nat} (hr : Nearest g a r) (hk : k ≠ r) (hdist : (g k - a).abs = (g r - a).abs) : 2 * rem = den ∧ k ≤ n + 1 := by
  have hlow := hr n
  have hup := hr (n + 1)
  rw [h.dist_of_le (Nat.le_refl n)] at hlow
  rw [h.dist_of_lt n.lt_succ_self] at hup
  rcases Nat.lt_or_ge n k with hkn | hkn <;> rcases Nat.lt_or_ge n r with hrn | hrn
  · rw [h.dist_of_lt hkn, h.dist_of_lt hrn] at hdist
    exact absurd (h.mono.injective (by grind)) hk
  · rw [h.dist_of_le hrn] at hdist hlow hup
    rw [h.dist_of_lt hkn] at hdist
    exact h.tie_across hrn hkn hdist.symm hlow (hdist ▸ hup)
  · rw [h.dist_of_lt hrn] at hdist hlow hup
    rw [h.dist_of_le hkn] at hdist
    exact ⟨(h.tie_across hkn hrn hdist (hdist ▸ hlow) hup).1, Nat.le_succ_of_le hkn⟩
  · rw [h.dist_of_le hkn, h.dist_of_le hrn] at hdist
    exact absurd (h.mono.injective (by grind)) hk

end FloorAt

/-- Rounding an integer quotient rounds on a grid whose points have the parity of the quotient. -/
theorem FloorAt.roundsMagnitude {g : Nat → Rat} {a : Rat} {n num den : Nat} (h : FloorAt g a n (num % den) den)
    (hpar : n % 2 = num / den % 2) (rm : RMode) (neg : Bool) :
    RoundsMagnitude rm neg g a (n + (roundsUp rm neg num den).toNat) := by
  have habove : Above g a (n + (num % den != 0).toNat) := by
    by_cases hr : num % den = 0
    · rw [h.eq_iff.mpr hr, hr]
      exact ⟨Rat.le_refl, fun k => h.mono.le_of_le⟩
    · rw [bne_iff_ne.mpr hr]; exact h.above_succ hr
  cases rm with
  | rne =>
    have hup : roundsUp .rne neg num den = true ↔ den < 2 * (num % den) ∨ 2 * (num % den) = den ∧ num / den % 2 = 1 := by
      simp only [roundsUp, Bool.or_eq_true, Bool.and_eq_true, decide_eq_true_eq, beq_iff_eq]
    cases hb : roundsUp .rne neg num den with
    | false =>
      rw [hb] at hup
      have hnear := h.nearest (by grind)
      exact ⟨hnear, fun k hk hdist => by have := (h.tie hnear hk hdist).1; grind⟩
    | true =>
      have hnear := h.nearest_succ (by grind)
      exact ⟨hnear, fun k hk hdist => by have := (h.tie hnear hk hdist).1; grind⟩
  | rna =>
    have hup : roundsUp .rna neg num den = true ↔ den ≤ 2 * (num % den) := decide_eq_true_iff
    cases hb : roundsUp .rna neg num den with
    | false =>
      rw [hb] at hup
      have hnear := h.nearest (by grind)
      exact ⟨hnear, fun k hk hdist => by have := (h.tie hnear hk hdist).1; grind⟩
    | true =>
      have hnear := h.nearest_succ (hup.mp hb)
      exact ⟨hnear, fun k hk hdist => (h.tie hnear hk hdist).2⟩
  | rtz => exact h.below
  | rdn =>
    cases neg
    · exact h.below
    · exact habove
  | rup =>
    cases neg
    · exact habove
    · exact h.below

section
variable {mode : RMode} {neg : Bool} {g : Nat → Rat} {a : Rat} {r : Nat}

/-- A value is no nearer to a number than its magnitude is to the number's. -/
theorem abs_sub_abs_le (z x : Rat) : (z.abs - x.abs).abs ≤ (z - x).abs := by grind [Rat.abs]

/-- A value whose magnitude is no nearer to that of `x` than `y`'s is no nearer to `x`. -/
theorem Nearest.signed (h : Nearest g a r) {z : Rat} {k : Nat} (ha : 0 ≤ a) (hz : z.abs = g k) :
    (signQ neg * g r - signQ neg * a).abs ≤ (g k - a).abs ∧ (g k - a).abs ≤ (z - signQ neg * a).abs := by
  have habs := abs_sub_abs_le z (signQ neg * a)
  rw [abs_signQ_mul, Rat.abs_of_nonneg ha, hz] at habs
  rw [signQ_mul_sub]
  exact ⟨h k, habs⟩

theorem Below.abs_le (h : Below g a r) (hg : Rising g) {z : Rat} {k : Nat} (hz : z.abs = g k) (ha : z.abs ≤ a) : z.abs ≤ g r :=
  hz ▸ hg.le (h.2 k (hz ▸ ha))

theorem Above.le_abs (h : Above g a r) (hg : Rising g) {z : Rat} {k : Nat} (hz : z.abs = g k) (ha : a ≤ z.abs) : g r ≤ z.abs :=
  hz ▸ hg.le (h.2 k (hz ▸ ha))

/-- Rounding a magnitude and setting the sign rounds the number, among values whose magnitudes lie on the grid. -/
theorem RoundsMagnitude.roundsTo (h : RoundsMagnitude mode neg g a r) (hg : Rising g) (hnonneg : ∀ k, 0 ≤ g k) (ha : 0 ≤ a)
    {set : Rat → Prop} (hset : ∀ z, set z → ∃ k, z.abs = g k) (hr : set (signQ neg * g r)) :
    RoundsTo mode set (signQ neg * a) (signQ neg * g r) := by
  have hr0 := hnonneg r
  have hnearest : Nearest g a r → ∀ z, set z → (signQ neg * g r - signQ neg * a).abs ≤ (z - signQ neg * a).abs := fun hn z hz =>
    let ⟨_, hk⟩ := hset z hz
    Rat.le_trans (hn.signed ha hk).1 (hn.signed ha hk).2
  have hbelow : Below g a r → ∀ z, set z → z.abs ≤ a → z.abs ≤ g r := fun hb z hz =>
    let ⟨_, hk⟩ := hset z hz
    hb.abs_le hg hk
  have habove : Above g a r → ∀ z, set z → a ≤ z.abs → g r ≤ z.abs := fun hb z hz =>
    let ⟨_, hk⟩ := hset z hz
    hb.le_abs hg hk
  refine ⟨hr, ?_⟩
  cases mode with
  | rne => exact hnearest h.1
  | rna => exact hnearest h.1
  | rtz =>
    have hra : g r ≤ a := h.1
    have hdist : (signQ neg * g r - signQ neg * a).abs = a - g r := by
      rw [signQ_mul_sub, Rat.abs_of_nonpos (by grind), Rat.neg_sub]
    simp only [abs_signQ_mul, Rat.abs_of_nonneg ha, Rat.abs_of_nonneg hr0, hdist]
    refine ⟨hra, fun z hz hza => ?_⟩
    have hzr := hbelow h z hz hza
    have htri := abs_sub_abs_le z (signQ neg * a)
    rw [abs_signQ_mul, Rat.abs_of_nonneg ha, Rat.abs_of_nonpos (by grind)] at htri
    grind
  | rdn =>
    cases neg
    · rw [signQ_false, Rat.one_mul, Rat.one_mul]
      refine ⟨h.1, fun z hz hza => ?_⟩
      rcases Rat.le_total (a := z) (b := 0) with h0 | h0
      · exact Rat.le_trans h0 hr0
      · have := hbelow h z hz (by rwa [Rat.abs_of_nonneg h0])
        rwa [Rat.abs_of_nonneg h0] at this
    · rw [signQ_true, Rat.neg_mul, Rat.neg_mul, Rat.one_mul, Rat.one_mul]
      refine ⟨Rat.neg_le_neg h.1, fun z hz hza => ?_⟩
      have hz0 : z.abs = -z := Rat.abs_of_nonpos (by grind)
      have := habove h z hz (by grind)
      grind
  | rup =>
    cases neg
    · rw [signQ_false, Rat.one_mul, Rat.one_mul]
      refine ⟨h.1, fun z hz hza => ?_⟩
      have hz0 : z.abs = z := Rat.abs_of_nonneg (Rat.le_trans ha hza)
      have := habove h z hz (by grind)
      grind
    · rw [signQ_true, Rat.neg_mul, Rat.neg_mul, Rat.one_mul, Rat.one_mul]
      refine ⟨Rat.neg_le_neg h.1, fun z hz hza => ?_⟩
      rcases Rat.le_total (a := 0) (b := z) with h0 | h0
      · exact Rat.le_trans (Rat.neg_le_neg hr0) (by grind)
      · have := hbelow h z hz (by rw [Rat.abs_of_nonpos h0]; grind)
        rw [Rat.abs_of_nonpos h0] at this
        grind

/-- Values of the same magnitude are equal or opposite. -/
theorem eq_or_eq_neg_of_abs_eq {x y : Rat} (h : x.abs = y.abs) : x = y ∨ x = -y := by grind [Rat.abs]

/-- Another value as near as the nearest is a tie of magnitudes. -/
theorem Nearest.tie_magnitudes (h : Nearest g a r) (hg0 : g 0 = 0) (hnonneg : ∀ k, 0 ≤ g k) (ha : 0 ≤ a) {z : Rat} {k : Nat}
    (hz : z.abs = g k) (hne : z ≠ signQ neg * g r) (hdist : (z - signQ neg * a).abs = (signQ neg * g r - signQ neg * a).abs) :
    k ≠ r ∧ (g k - a).abs = (g r - a).abs := by
  obtain ⟨hle, hge⟩ := h.signed (neg := neg) ha hz
  rw [signQ_mul_sub] at hdist hle
  refine ⟨?_, Rat.le_antisymm (hdist ▸ hge) hle⟩
  rintro rfl
  have habs : z.abs = (signQ neg * g k).abs := by rw [abs_signQ_mul, Rat.abs_of_nonneg (hnonneg k), hz]
  have hopp : z = -(signQ neg * g k) := (eq_or_eq_neg_of_abs_eq habs).resolve_left hne
  have hsum : g k + a = (g k - a).abs := by
    have hk0 := hnonneg k
    have hz' : z - signQ neg * a = signQ neg * -(g k + a) := by rw [hopp]; grind
    rw [← hdist, hz', abs_signQ_mul, Rat.abs_neg, Rat.abs_of_nonneg (Rat.add_nonneg hk0 ha)]
  have hzero : g k = 0 := by
    have h0 := h 0
    rw [hg0, ← hsum, Rat.abs_of_nonpos (by grind)] at h0
    exact Rat.le_antisymm (by grind) (hnonneg k)
  exact hne (by rw [hopp, hzero, Rat.mul_zero, Rat.neg_zero])

/-- The ties of the nearest modes. -/
theorem RoundsMagnitude.tie (h : RoundsMagnitude mode neg g a r) (hg : Rising g) (hg0 : g 0 = 0) (hnonneg : ∀ k, 0 ≤ g k)
    (ha : 0 ≤ a) {z : Rat} {k : Nat} (hz : z.abs = g k) (hne : z ≠ signQ neg * g r)
    (hdist : (z - signQ neg * a).abs = (signQ neg * g r - signQ neg * a).abs) :
    (mode = .rne → r % 2 = 0) ∧ (mode = .rna → z.abs ≤ (signQ neg * g r).abs) := by
  constructor
  · rintro rfl
    obtain ⟨hk, htie⟩ := h.1.tie_magnitudes hg0 hnonneg ha hz hne hdist
    exact h.2 k hk htie
  · rintro rfl
    obtain ⟨hk, htie⟩ := h.1.tie_magnitudes hg0 hnonneg ha hz hne hdist
    rw [hz, abs_signQ_mul, Rat.abs_of_nonneg (hnonneg r)]
    exact hg.le (h.2 k hk htie)

end

/-! ### Rounding to a format (R65, R66) -/

/-- The exponent of the unit in the last place at which a number is rounded. -/
def FFmt.ulpExp (f : FFmt) (m d : Nat) (e : Int) : Int :=
  (if log2Q m d + e < f.emin then f.emin else log2Q m d + e) - f.fbits

/-- A number in units in the last place, as numerator and denominator. -/
def FFmt.inUlps (f : FFmt) (m d : Nat) (e : Int) : Nat × Nat := scaleQ m d (e - f.ulpExp m d e)

/-- The encoding of the last magnitude not above a number's. -/
def FFmt.floorRaw (f : FFmt) (m d : Nat) (e : Int) : Nat :=
  (f.ulpExp m d e - f.lsb).toNat * 2 ^ f.fbits + (f.inUlps m d e).1 / (f.inUlps m d e).2

/-- The encoding of the magnitude that a number rounds to, as if the exponent range had no upper bound. -/
def FFmt.roundRaw (f : FFmt) (rm : RMode) (neg : Bool) (m d : Nat) (e : Int) : Nat :=
  f.floorRaw m d e + (roundsUp rm neg (f.inUlps m d e).1 (f.inUlps m d e).2).toNat

/-- Whether a result is tiny: below the least normal magnitude, rounded as if exponents had no lower bound either (R66). -/
def FFmt.isTiny (f : FFmt) (rm : RMode) (neg : Bool) (m d : Nat) (e : Int) : Bool :=
  let ex := log2Q m d + e
  let r := scaleQ m d (e - (ex - (f.fbits : Int)))
  ex < f.emin && !((roundInt rm neg r.1 r.2).1 == 2 ^ (f.fbits + 1) && ex + 1 == f.emin)

theorem roundV_num (f : FFmt) (rm : RMode) (sat neg : Bool) {m : Nat} (d : Nat) (e : Int) (hm : m ≠ 0) :
    roundV f rm sat (.num neg m d e) =
      let inexact := (f.inUlps m d e).1 % (f.inUlps m d e).2 != 0
      if f.maxRaw < f.roundRaw rm neg m d e then (overflowRaw f rm sat neg, Flags.of ||| Flags.nx)
      else (f.signed neg (f.roundRaw rm neg m d e),
        Flags.when (f.isTiny rm neg m d e && inexact) Flags.uf ||| Flags.when inexact Flags.nx) := by
  rw [roundV, if_neg hm, FFmt.roundRaw, FFmt.floorRaw]
  simp only [Nat.add_assoc, roundInt_eq, FFmt.isTiny]
  rfl

theorem roundV_zero (f : FFmt) (rm : RMode) (sat neg : Bool) (d : Nat) (e : Int) :
    roundV f rm sat (.num neg 0 d e) = (f.signed neg 0, 0) := rfl

theorem FFmt.lsb_eq (f : FFmt) : f.lsb = f.emin - f.fbits := rfl

/-- The unit in the last place is that of the number's binade, and never below the least subnormal magnitude. -/
theorem FFmt.ulpExp_cases (f : FFmt) (m d : Nat) (e : Int) :
    f.lsb ≤ f.ulpExp m d e ∧ log2Q m d + e - f.fbits ≤ f.ulpExp m d e ∧
      (f.ulpExp m d e = f.lsb ∨ f.ulpExp m d e = log2Q m d + e - f.fbits) := by
  rw [f.lsb_eq, FFmt.ulpExp]
  split <;> omega

theorem FFmt.floorRaw_mod_two {f : FFmt} (hf : 0 < f.fbits) (m d : Nat) (e : Int) :
    f.floorRaw m d e % 2 = (f.inUlps m d e).1 / (f.inUlps m d e).2 % 2 := by
  have h2 : 2 ∣ (f.ulpExp m d e - f.lsb).toNat * 2 ^ f.fbits := Nat.dvd_mul_left_of_dvd (Nat.pow_dvd_pow 2 hf) _
  rw [FFmt.floorRaw]; omega

section
variable (f : FFmt) {m d : Nat} (e : Int) (hm : 0 < m) (hd : 0 < d)
include hd

theorem FFmt.inUlps_pos : 0 < (f.inUlps m d e).2 := scaleQ_pos _ _ hd

theorem FFmt.inUlps_mul :
    ((f.inUlps m d e).2 : Rat) * ((m : Rat) / (d : Rat) * twoPow e) = ((f.inUlps m d e).1 : Rat) * twoPow (f.ulpExp m d e) := by
  have hd0 := natCast_ne_zero hd
  have hscale := scaleQ_mul m d (e - f.ulpExp m d e)
  have he : twoPow e = twoPow (e - f.ulpExp m d e) * twoPow (f.ulpExp m d e) := by rw [← twoPow_add, Int.sub_add_cancel]
  rw [FFmt.inUlps, he]
  grind

include hm

/-- A number has at most as many units in the last place as a significand can hold. -/
theorem FFmt.inUlps_lt : (f.inUlps m d e).1 / (f.inUlps m d e).2 < 2 ^ (f.fbits + 1) := by
  have hk : (0 : Rat) < (f.inUlps m d e).2 := Rat.natCast_pos.mpr (f.inUlps_pos e hd)
  have hulp := (f.ulpExp_cases m d e).2.1
  have hup : twoPow (log2Q m d + e + 1) ≤ ((2 ^ (f.fbits + 1) : Nat) : Rat) * twoPow (f.ulpExp m d e) := by
    rw [← twoPow_natCast, ← twoPow_add]; exact twoPow_le (by omega)
  have hnum := (Rat.mul_lt_mul_left hk).mpr (number_bounds e hm hd).2
  have hmul := Rat.mul_le_mul_of_nonneg_left hup (Rat.le_of_lt hk)
  rw [f.inUlps_mul e hd] at hnum
  rw [Nat.div_lt_iff_lt_mul (f.inUlps_pos e hd), ← Rat.natCast_lt_natCast, Rat.natCast_mul,
    ← Rat.mul_lt_mul_right (twoPow_pos (f.ulpExp m d e))]
  grind

/-- Above the lowest binade it has as many as a full significand. -/
theorem FFmt.le_inUlps (hu : f.ulpExp m d e ≠ f.lsb) : 2 ^ f.fbits ≤ (f.inUlps m d e).1 / (f.inUlps m d e).2 := by
  have hk : (0 : Rat) < (f.inUlps m d e).2 := Rat.natCast_pos.mpr (f.inUlps_pos e hd)
  have hulp := (f.ulpExp_cases m d e).2.2.resolve_left hu
  have hlow : ((2 ^ f.fbits : Nat) : Rat) * twoPow (f.ulpExp m d e) = twoPow (log2Q m d + e) := by
    rw [← twoPow_natCast, ← twoPow_add, hulp]; congr 1; omega
  have hnum := Rat.mul_le_mul_of_nonneg_left (number_bounds e hm hd).1 (Rat.le_of_lt hk)
  rw [f.inUlps_mul e hd, ← hlow, ← Rat.mul_assoc, Rat.mul_comm ((f.inUlps m d e).2 : Rat)] at hnum
  rw [Nat.le_div_iff_mul_le (f.inUlps_pos e hd), ← Rat.natCast_le_natCast, Rat.natCast_mul]
  exact Rat.le_of_mul_le_mul_right hnum (twoPow_pos (f.ulpExp m d e))

/-- The magnitudes next to a number: its integer quotient in units in the last place, and the next integer. -/
theorem FFmt.magnitude_floorRaw_add {δ : Nat} (hδ : δ ≤ 1) :
    f.magnitude (f.floorRaw m d e + δ) =
      (((f.inUlps m d e).1 / (f.inUlps m d e).2 + δ : Nat) : Rat) * twoPow (f.ulpExp m d e) := by
  have hlsb := (f.ulpExp_cases m d e).1
  have hlt := f.inUlps_lt e hm hd
  have hlow : (f.ulpExp m d e - f.lsb).toNat = 0 ∨ 2 ^ f.fbits ≤ (f.inUlps m d e).1 / (f.inUlps m d e).2 + δ := by
    by_cases hu : f.ulpExp m d e = f.lsb
    · exact .inl (by rw [hu, Int.sub_self]; rfl)
    · exact .inr (Nat.le_trans (f.le_inUlps e hm hd hu) (Nat.le_add_right _ _))
  rw [FFmt.floorRaw, Nat.add_assoc, f.magnitude_mul_add hlow (by omega), Int.toNat_of_nonneg (by omega)]
  congr 2; omega

theorem FFmt.floorAt : FloorAt f.magnitude ((m : Rat) / (d : Rat) * twoPow e) (f.floorRaw m d e)
    ((f.inUlps m d e).1 % (f.inUlps m d e).2) (f.inUlps m d e).2 where
  mono := f.magnitude_rising
  rem_lt := Nat.mod_lt _ (f.inUlps_pos e hd)
  share := by
    have hlow := f.magnitude_floorRaw_add e hm hd (Nat.zero_le 1)
    have hmul := f.inUlps_mul (m := m) e hd
    have hdiv : ((f.inUlps m d e).2 : Rat) * (((f.inUlps m d e).1 / (f.inUlps m d e).2 : Nat) : Rat) +
        (((f.inUlps m d e).1 % (f.inUlps m d e).2 : Nat) : Rat) = ((f.inUlps m d e).1 : Rat) := by
      rw [← Rat.natCast_mul, ← Rat.natCast_add, Nat.div_add_mod]
    rw [Nat.add_zero, Nat.add_zero] at hlow
    rw [f.magnitude_floorRaw_add e hm hd (Nat.le_refl 1), hlow, Rat.natCast_add, natCast_one]
    grind

end

theorem roundsUp_of_exact (rm : RMode) (neg : Bool) {num den : Nat} (hr : num % den = 0) (hd : 0 < den) :
    roundsUp rm neg num den = false := by
  cases rm with
  | rne =>
    simp only [roundsUp, hr, Nat.mul_zero, decide_eq_false (Nat.not_lt_zero den), Bool.false_or,
      beq_eq_false_iff_ne.mpr (Nat.ne_of_lt hd), Bool.false_and]
  | rna => exact decide_eq_false (by omega)
  | rtz => rfl
  | rdn => rw [roundsUp, hr]; exact Bool.and_false _
  | rup => rw [roundsUp, hr]; exact Bool.and_false _

section
variable {f : FFmt} (hf : f.IsIeee)
include hf

/-- What a number without overflow rounds to. -/
theorem roundV_roundsMagnitude {rm : RMode} {sat neg : Bool} {m d : Nat} {e : Int} (hd : 0 < d)
    (hov : (roundV f rm sat (.num neg m d e)).2 &&& Flags.of = 0) :
    ∃ r, (roundV f rm sat (.num neg m d e)).1 = f.signed neg r ∧ r < f.infRaw ∧
      RoundsMagnitude rm neg f.magnitude ((m : Rat) / (d : Rat) * twoPow e) r := by
  have hinf := FFmt.infRaw_pos hf
  rcases Nat.eq_zero_or_pos m with rfl | hm
  · refine ⟨0, rfl, hinf, ?_⟩
    rw [zero_div_mul]
    exact f.magnitude_zero ▸ roundsMagnitude_self rm neg f.magnitude_rising 0
  · rw [roundV_num f rm sat neg d e (Nat.ne_of_gt hm)] at hov ⊢
    dsimp only at hov ⊢
    split at hov
    · exact absurd hov (show (Flags.of ||| Flags.nx) &&& Flags.of ≠ 0 by decide)
    · next hle =>
      rw [if_neg hle]
      rw [FFmt.maxRaw_eq hf] at hle
      exact ⟨_, rfl, by omega, (f.floorAt e hm hd).roundsMagnitude (FFmt.floorRaw_mod_two hf.fbits m d e) rm neg⟩

/-- A magnitude of the format is rounded to itself, and exactly. -/
theorem roundV_magnitude (rm : RMode) (sat neg : Bool) {m d : Nat} {e : Int} {r : Nat} (hm : 0 < m) (hd : 0 < d)
    (hr : (m : Rat) / (d : Rat) * twoPow e = f.magnitude r) (hlt : r < f.infRaw) :
    roundV f rm sat (.num neg m d e) = (f.signed neg r, 0) := by
  have hfloor := f.floorAt e hm hd
  rw [hr] at hfloor
  have hraw : f.floorRaw m d e = r := Nat.le_antisymm (f.magnitude_rising.le_of_le hfloor.le) (hfloor.below.2 r Rat.le_refl)
  have hrem : (f.inUlps m d e).1 % (f.inUlps m d e).2 = 0 := hfloor.eq_iff.mp (by rw [hraw])
  have hround : f.roundRaw rm neg m d e = r := by
    rw [FFmt.roundRaw, hraw, roundsUp_of_exact rm neg hrem (f.inUlps_pos e hd)]; rfl
  rw [roundV_num f rm sat neg d e (Nat.ne_of_gt hm), hround, hrem]
  dsimp only
  rw [if_neg (by rw [FFmt.maxRaw_eq hf]; omega), bne_self_eq_false, Bool.and_false]
  rfl

end

theorem roundingChoosesTheNeighbour : RoundingChoosesTheNeighbour := by
  intro fmt mode neg n d e x y hmem hd hx r hy hov
  have hf : fmt.IsIeee := FFmt.isIeee_of_mem (List.mem_append_left [FFmt.e5m2] hmem)
  obtain ⟨raw, hraw, hlt, hmag⟩ := roundV_roundsMagnitude hf hd hov
  rw [FVal.rat_num] at hx
  obtain rfl := Option.some.inj hx
  have hvalue := fmt.rat_value_signed neg hlt
  rw [← hraw] at hvalue
  obtain rfl := Option.some.inj (hvalue.symm.trans hy)
  have ha : 0 ≤ (n : Rat) / (d : Rat) * twoPow e := by
    rw [Rat.div_def]
    exact Rat.mul_nonneg (Rat.mul_nonneg Rat.natCast_nonneg (Rat.le_of_lt (Rat.inv_pos.mpr (Rat.natCast_pos.mpr hd))))
      (Rat.le_of_lt (twoPow_pos e))
  refine ⟨hmag.roundsTo fmt.magnitude_rising fmt.magnitude_nonneg ha ?_ ⟨_, hvalue⟩, fun k z hz hne hdist => ?_⟩
  · rintro z ⟨k, hz⟩
    exact ⟨_, FFmt.abs_eq_magnitude_of_rat hf hz⟩
  · have hparity : r % 2 = raw % 2 := (congrArg (· % 2) hraw).trans (FFmt.signed_mod_two hf neg raw)
    rw [hparity]
    exact hmag.tie fmt.magnitude_rising fmt.magnitude_zero fmt.magnitude_nonneg ha
      (FFmt.abs_eq_magnitude_of_rat hf hz) hne hdist

theorem FFmt.eq_zero_of_significand (f : FFmt) {raw : Nat} (h : f.significand raw = 0) : raw = 0 := by
  have hbin := (f.significand_bounds raw).1.resolve_right (by rw [h]; exact Nat.not_le.mpr (Nat.two_pow_pos _))
  rw [f.binade_mul_add_significand raw, h, hbin, Nat.zero_mul]

/-- Beyond the finite encodings, one without a fraction is that of infinity. -/
theorem FFmt.unsigned_eq_infRaw (f : FFmt) {n : Nat} (h : f.infRaw ≤ f.unsigned n) (hfr : bits n 0 f.fbits = 0) :
    f.unsigned n = f.infRaw := by
  rw [f.unsigned_eq, hfr, Nat.add_zero, FFmt.infRaw, ← (f.top_iff n).mpr h, Nat.add_sub_cancel]

theorem roundV_inf {f : FFmt} (hf : f.IsIeee) (rm : RMode) (sat neg : Bool) :
    roundV f rm sat (.inf neg) = (f.signed neg f.infRaw, 0) := by
  rw [roundV, hf.specials]; rfl

theorem roundingKeepsRepresentableValues : RoundingKeepsRepresentableValues := by
  intro fmt mode n hmem hn hnan
  have hf := FFmt.isIeee_of_mem hmem
  have hfields := fmt.signed_fields hn
  rcases Nat.lt_or_ge (fmt.unsigned n) fmt.infRaw with hlt | hge
  · rw [fmt.value_finite hlt]
    rcases Nat.eq_zero_or_pos (fmt.significand (fmt.unsigned n)) with h0 | hpos
    · rw [fmt.eq_zero_of_significand h0] at hfields
      rw [h0, roundV_zero, hfields]
    · rw [roundV_magnitude hf mode false _ hpos Nat.one_pos (by rw [div_one_natCast]; rfl) hlt, hfields]
  · rw [FFmt.value_special hf hge] at hnan ⊢
    by_cases hfr : bits n 0 fmt.fbits = 0
    · rw [if_pos hfr, roundV_inf hf, ← fmt.unsigned_eq_infRaw hge hfr, hfields]
    · rw [if_neg hfr] at hnan
      cases hnan

/-! ### Special operands (R63, R64, R130, R136, R138) -/

theorem roundR_nan (fmt : FFmt) (mode : RMode) (s : Bool) (fl : Flags) : roundR fmt mode (.nan s, fl) = (fmt.canonical, fl) :=
  congrArg (fmt.canonical, ·) (BitVec.or_zero)

/-- The flags of a result that a NaN operand makes NaN. -/
theorem nanFlags_pair (a b : FVal) : nanFlags [a, b] = Flags.when (a.isSig || b.isSig) Flags.nv := by
  simp only [nanFlags, List.any_cons, List.any_nil, Bool.or_false]

/-- A NaN operand makes the result NaN, with the flags of reading it. -/
theorem exact_of_isNan (mode : RMode) {a b : FVal} (h : (a.isNan || b.isNan) = true) :
    exactAdd mode a b = (.nan false, nanFlags [a, b]) ∧ exactMul a b = (.nan false, nanFlags [a, b]) ∧
      exactDiv a b = (.nan false, nanFlags [a, b]) := by
  cases a with
  | nan s => exact ⟨rfl, rfl, rfl⟩
  | inf n =>
    cases b with
    | nan s => exact ⟨rfl, rfl, rfl⟩
    | inf n' => cases h
    | num n' m d e => cases h
  | num n m d e =>
    cases b with
    | nan s => exact ⟨rfl, rfl, rfl⟩
    | inf n' => cases h
    | num n' m d e => cases h

/-- The operations on infinities and zeros that have no numeric result. -/
theorem exact_of_noResult (mode : RMode) (n : Bool) {x : FVal} (hx : x.isZero = true) :
    exactAdd mode (.inf n) (.inf !n) = (.nan false, Flags.nv) ∧ exactMul (.inf n) x = (.nan false, Flags.nv) ∧
      exactDiv (.inf n) (.inf !n) = (.nan false, Flags.nv) ∧ exactDiv x x = (.nan false, Flags.nv) ∧
      exactSqrt (.inf true) = (.nan false, Flags.nv) := by
  cases x with
  | nan s => cases hx
  | inf s => cases hx
  | num s m d e =>
    obtain rfl : m = 0 := eq_of_beq hx
    exact ⟨if_neg (Bool.eq_not_self n).mp, rfl, rfl, rfl, rfl⟩

/-- The exact sum of a number and its negation is zero, with the sign of R64. -/
theorem exactAdd_opposite (mode : RMode) (x : Bool) (n d : Nat) (e : Int) :
    exactAdd mode (.num x n d e) (.num (!x) n d e) = (.num (mode == .rdn) 0 1 0, 0) := by
  have hsum : ∀ k, alignedNum x n d k + alignedNum (!x) n d k = 0 := fun k => by
    cases x
    · exact Int.add_right_neg _
    · exact Int.add_left_neg _
  rw [exactAdd_num, if_neg (Int.lt_irrefl e)]
  dsimp only
  rw [if_pos (hsum _), if_neg (Bool.eq_not_self x).mp]

theorem specialBits_of_exact {fn : Special} {a : Nat} {r : Nat × Flags} (h : specialExact fn (FFmt.f32.value a) = some r) :
    specialBits fn a = r := by
  rw [specialBits, h]

/-- Every special function answers a NaN alike. -/
theorem specialBits_of_nan (fn : Special) {a : Nat} {s : Bool} (h : FFmt.f32.value a = .nan s) :
    specialBits fn a = (FFmt.f32.canonical, Flags.when s Flags.nv) :=
  specialBits_of_exact (by rw [h]; rfl)

theorem specialOperandsFollowTheTables : SpecialOperandsFollowTheTables := by
  refine ⟨fun fmt mode a b h => ?_, fun fmt mode n x hx => ?_, fun x y n m d e hn => ?_,
    fun mode x n d e _ _ => exactAdd_opposite mode x n d e,
    fun fn => ⟨specialBits_of_nan fn (s := false) (by decide), specialBits_of_nan fn (s := true) (by decide)⟩, ?_⟩
  · obtain ⟨hadd, hmul, hdiv⟩ := exact_of_isNan mode h
    rw [hadd, hmul, hdiv, roundR_nan, nanFlags_pair]
    exact ⟨rfl, rfl, rfl⟩
  · obtain ⟨hadd, hmul, hdiv, hzero, hsqrt⟩ := exact_of_noResult mode n hx
    rw [hadd, hmul, hdiv, hzero, hsqrt, roundR_nan]
    exact ⟨rfl, rfl, rfl, rfl, rfl⟩
  · exact ⟨if_neg hn, if_neg hn, rfl⟩
  · and_intros <;> exact specialBits_of_exact (by decide)

/-- Settles O5. Numbers round on the grid of the format's magnitudes: `roundV` finds the last magnitude not above the number's
(`FFmt.floorAt`) and steps up from it as the mode asks (`FloorAt.roundsMagnitude`). -/
theorem roundingAndSpecialOperandsFollowTheTables : Obligations.RoundingAndSpecialOperandsFollowTheTables :=
  ⟨roundingChoosesTheNeighbour, roundingKeepsRepresentableValues, exactOperationsAreExact, specialOperandsFollowTheTables⟩

end Sys2Proof.Machine
